-- ==== Sys2Proof/Word.lean ====
section
/-! DEFINITION. The byte of the link and of the images, the elapsed-time milliseconds of the durations, and the plainest
arithmetic on bytes. -/

namespace Sys2Proof

/-- One byte on the link, in an image or at the host port. -/
abbrev Byte := BitVec 8

/-- The 16-bit value of the frame check and the image check (R192). -/
abbrev Crc := BitVec 16

end Sys2Proof
end

