-- ==== Sys2Proof/Config.lean ====
section
/-! DEFINITION. What a part fixes at manufacture, and the free values: constants with no body, of which nothing can be
proved. -/

namespace Sys2Proof

/-- The factory unique number, 48 bits, fixed at manufacture and distinct between parts (R189). Log entry 7. -/
opaque Config.uniqueNumber : BitVec 48

/-- FREE VALUE. What the elapsed-time counter reads one millisecond after 2^48-1 (R2 gives only the range). The argument
counts the draws. Log entry 4. -/
opaque Config.elapsedBeyondRange : Nat → BitVec 48

/-- FREE VALUE. What a time field holds for a zone time above 4,294,967,295 s; the argument is the exact count of
seconds. Log entry 17. -/
opaque Config.zoneTimeBeyondRange : Nat → BitVec 32

/-- FREE VALUE. What a 32-bit field holds for a larger exact sum. Log entry 18. -/
opaque Config.sumBeyond32 : Nat → BitVec 32

/-- FREE VALUE. What a 48-bit field holds for a larger exact sum. Log entry 18. -/
opaque Config.sumBeyond48 : Nat → BitVec 48

/-- FREE VALUE. The daily allowance of a permit number that no record is held for, which a saturated usage entry counts as
its known usage (R119, R124); the argument is the permit number. Log entry 39. -/
opaque Config.unheldAllowance : Nat → BitVec 11

end Sys2Proof
end

