-- ==== Sys2Proof/Syntax.lean ====
section
/-! DEFINITION. The commands of the block: one constructor of `Instr` for each row of spec/opcode_table.json, and the
types their operands are made of (keys, tariff and permit data, link frames, Setup parameters). An enumerated parameter
of a host command is an `Option`: `none` is a value that names nothing (log entry 21). -/

namespace Sys2Proof

/-! ### Stations, keys and objects -/

/-- The four station roles (Table 0.2). -/
inductive Role where
  | fixed | gateway | collector | engineer
  deriving DecidableEq, Repr

/-- The key of one version of an image object (R35): a generation 1..65535 and a publisher 1..32. An absent key is
`none` of `Option Key`. -/
structure Key where
  gen : Nat
  pub : Nat
  deriving DecidableEq, Repr

/-- The nine image objects (Table 3.1). -/
inductive ImageObj where
  | tariff
  | sect (s : Nat)
  deriving DecidableEq, Repr

/-! ### Tariff sets (Table 4.1) -/

/-- The day kinds of a day-part mask and of the calendar (R59). -/
inductive DayKind where
  | mon | tue | wed | thu | fri | sat | sun | hol
  deriving DecidableEq, Repr

/-- The treatment of a minute (R59, R64). -/
inductive Treatment where
  | charged (k : Nat)
  | free
  | noStay
  deriving DecidableEq, Repr

/-- The code of a class entry; LADDER and ALLOWANCE take the entry's ladder (R65, R193). -/
inductive ClassKind where
  | plain | exempt | ladder | allowance
  deriving DecidableEq, Repr

/-- One entry of the class table: its code and its ladder byte. -/
structure ClassEntry where
  kind : ClassKind
  k : Nat
  deriving DecidableEq, Repr

/-- One band of a ladder. -/
structure Band where
  cap : Bool
  minutes : Nat
  price : Nat
  steps : Nat
  deriving DecidableEq, Repr

/-- One ladder: its header and its eight bands. -/
structure Ladder where
  uniform : Bool
  uMinutes : Nat
  uPrice : Nat
  bands : List Band
  deriving DecidableEq, Repr

/-- One day-part; mask bits 0..6 are MON..SUN and bit 7 is HOL (R193). -/
structure DayPart where
  mask : Byte
  start : Nat
  stop : Nat
  treat : Treatment
  deriving DecidableEq, Repr

/-- One calendar entry; `kind = none` marks it unused. -/
structure CalEntry where
  day : Nat
  kind : Option DayKind
  deriving DecidableEq, Repr

/-- A whole tariff set. In a slot the key is present; in a draft it may be absent. -/
structure TariffSet where
  key : Option Key
  effectiveFrom : Nat
  reference : Nat
  ladders : List Ladder
  dayParts : List DayPart
  classes : List ClassEntry
  calendar : List CalEntry
  deriving DecidableEq, Repr

/-- The parts of a set as READ_TARIFF and the draft name them (Table 4.6). -/
inductive TariffPart where
  | header | ladder0 | ladder1 | ladder2 | ladder3 | dayParts | classes | calendar
  deriving DecidableEq, Repr

/-- The three tariff slots (Table 4.5). -/
inductive TariffSlot where
  | active | pending | retired
  deriving DecidableEq, Repr

/-- The source of TARIFF_DRAFT_BEGIN (R76). -/
inductive DraftSource where
  | active | pending | empty
  deriving DecidableEq, Repr

/-! ### Permits (Table 6.1) -/

inductive PermitClass where
  | resident | visitor | business | trade | carClub | staff
  deriving DecidableEq, Repr

inductive PermitStatus where
  | valid | suspended | revoked
  deriving DecidableEq, Repr

/-- A permit record. -/
structure PermitRec where
  number : Nat
  cls : PermitClass
  status : PermitStatus
  zones : List Nat
  vehicle : Option (List Byte)
  validFrom : Nat
  validTo : Nat
  allowance : Option Nat
  deriving DecidableEq, Repr

/-- The data of AMEND_PERMIT (R113); a record is the 24 bytes of Table 12.5. -/
inductive AmendParam where
  | add (record : List Byte)
  | replace (record : List Byte)
  | status (number : Nat) (st : Option PermitStatus)
  | undefinedOp
  deriving DecidableEq, Repr

/-- The change an AMENDMENT frame carries (R53, R115). -/
inductive AmendChange where
  | add (r : PermitRec)
  | replace (r : PermitRec)
  | status (number : Nat) (st : PermitStatus)
  | close
  deriving DecidableEq, Repr

/-! ### Faults (Table 9.1, Table 9.2) -/

/-- The eighteen fault kinds, in the order of Table 9.1. -/
inductive FaultKind where
  | coinMech | printer | paperLow | paperOut | cardReader | display | keypad | hostOther
  | tamper | boxRemovedUnattended | tilt | boxFull | journalFull | tariffMissing | permitStale
  | duplicateNumber | stationSilent | stationDormant
  deriving DecidableEq, Repr

inductive FaultState where
  | raised | acknowledged | cleared
  deriving DecidableEq, Repr

/-- One fault entry, own or copy. -/
structure FaultEntry where
  owner : Nat
  kind : FaultKind
  subject : Nat
  state : FaultState
  firstRaised : Option Nat
  lastRaised : Option Nat
  occurrences : Nat
  change : Nat
  deriving DecidableEq, Repr

/-! ### Rounds -/

/-- The states of the round context (Table 8.1). -/
inductive RoundState where
  | idle | opened | visited | removed | reported
  deriving DecidableEq, Repr

/-- The fields of a collection record as a COLLECTION_REPORT carries them (Table 8.4, Table 12.2). -/
structure CollectionData where
  firstSeg : Nat
  lastSeg : Nat
  round : Nat
  counts : List Nat
  coinTotal : Nat
  totalValue : Nat
  firstSeq : Nat
  lastSeq : Nat
  removal : Option Nat
  attended : Bool
  mixed : Bool
  deriving DecidableEq, Repr

/-! ### Link frames (Section 12) -/

/-- The header fields of a received frame that the filters read (Table 12.1). -/
structure FrameHeader where
  zone : Nat
  sender : Nat
  dest : Nat
  deriving DecidableEq, Repr

/-- The body of an announce (Table 2.3, Table 12.3). -/
structure AnnounceBody where
  role : Role
  zoneSec : Nat
  zoneMs : Nat
  quality : Option Nat
  dormant : Bool
  hostAwake : Bool
  reports : Bool
  active : Option Key
  pending : Option Key
  pendingEff : Nat
  sections : List (Option Key)
  faultCtr : Nat
  usageCtr : Nat
  usageDay : Nat
  due : Nat
  round : Nat
  collector : Option Nat
  roundState : RoundState
  deriving DecidableEq, Repr

/-- What a REQUEST asks for (Table 12.2). -/
inductive RequestBody where
  | image (obj : ImageObj) (key : Key) (start : Nat)
  | faults (c : Nat)
  | usage
  deriving DecidableEq, Repr

/-- The body of a FRAGMENT. -/
structure FragmentBody where
  obj : ImageObj
  key : Key
  index : Nat
  count : Nat
  length : Nat
  check : Crc
  data : List Byte
  deriving DecidableEq, Repr

/-- The series fields of an answer from an owner stream (R56): for faults `start` is c, for usage it is the day. -/
structure Series where
  start : Nat
  endPoint : Nat
  parts : Nat
  deriving DecidableEq, Repr

/-- A USAGE frame: a part of a series, or a single change with the new counter value. Entries are permit number and
minutes, all of the frame's day. -/
inductive UsageBody where
  | series (ser : Series) (part : Nat) (entries : List (Nat × Nat))
  | single (day : Nat) (counter : Nat) (permit : Nat) (minutes : Nat)
  deriving DecidableEq, Repr

/-- A FAULT_REPORT frame: a part of a series, or a single change with the new counter value. -/
inductive ReportBody where
  | series (ser : Series) (part : Nat) (entries : List FaultEntry)
  | single (counter : Nat) (entry : FaultEntry)
  deriving DecidableEq, Repr

/-- The seventeen frame kinds with their bodies (Table 12.2). -/
inductive FrameBody where
  | announce (a : AnnounceBody)
  | request (r : RequestBody)
  | fragment (f : FragmentBody)
  | notHeld (obj : ImageObj) (key : Key)
  | superseded (obj : ImageObj) (key : Key)
  | amendment (s : Nat) (old new : Key) (change : AmendChange)
  | usage (u : UsageBody)
  | faultReport (r : ReportBody)
  | faultAck (kind : FaultKind) (subject : Nat)
  | faultClear (kind : FaultKind) (subject : Nat)
  | roundOpen (round : Nat)
  | roundVisit (round : Nat)
  | roundClose (round : Nat)
  | collectionReport (d : CollectionData)
  | collectionAck (first last : Nat)
  | restart (target : Nat)
  | page (code : Nat)
  deriving DecidableEq, Repr

/-! ### Host parameters -/

/-- The settings of one sense group as Setup gives them (R171). -/
structure SenseSettings where
  enable : Bool
  input : Nat
  period : Nat
  debounce : Nat
  activeHigh : Bool
  deriving DecidableEq, Repr

/-- The parameters of SETUP (Table 11.2). `denomCount` is the count given, `denoms` the values given. -/
structure SetupParams where
  zone : Nat
  station : Nat
  role : Option Role
  denomCount : Nat
  denoms : List Nat
  capacity : Nat
  sense : List SenseSettings
  deriving DecidableEq, Repr

inductive QuoteMode where
  | byAmount | byDuration
  deriving DecidableEq, Repr

/-- The optional class of QUOTE: absent, one of the six, or a value that names none (R91). -/
inductive ClassParam where
  | absent
  | named (c : PermitClass)
  | undefinedClass
  deriving DecidableEq, Repr

/-! ### The commands -/

/-- The commands of the block, one constructor per row of spec/opcode_table.json. A row that judges LCD or
samples a sense pin carries the level found there: `lcd` is true while LCD is high, `level` is the sampled pin (log entry
5). A frame row carries the frame by content (log entry 8). -/
inductive Instr where
  -- resets
  | powerOn
  | resetN (high : Bool)
  | remoteRestart
  -- host port transfers
  | readTransfer (whole : Bool)
  | badFrameWrite (bytes : List Byte)
  | overrunWrite
  | undefinedCommandCode (code : Nat)
  -- host commands, in the order of Table 12.8
  | identify
  | readStatus
  | setup (p : SetupParams)
  | readEvent
  | setAssetTag (tag : List Byte)
  | setTime (seconds : Nat)
  | readPeer (station : Nat)
  | readReplication
  | readTariff (slot : Option TariffSlot) (part : Option TariffPart) (index : Nat)
  | tariffDraftBegin (source : Option DraftSource)
  | tariffDraftSelect (part : Option TariffPart)
  | tariffDraftWrite (entry : List Byte)
  | tariffDraftRead
  | tariffPublish (effectiveFrom : Nat)
  | quote (mode : Option QuoteMode) (value : Nat) (cls : ClassParam)
  | saleOpen
  | saleCoin (index : Nat)
  | saleCard (amount : Nat)
  | salePermit (number : Nat)
  | saleDuration (minutes : Nat)
  | saleCommit
  | saleCancel
  | checkPermit (number : Nat)
  | amendPermit (op : AmendParam)
  | closeSection (s : Nat)
  | sectionLoadBegin (s : Nat)
  | sectionLoadRecord (record : List Byte)
  | sectionLoadEnd (closed : Bool)
  | readSection (s : Nat) (number : Nat)
  | readUsage (number : Nat)
  | readTally
  | readJournal (sequence : Nat)
  | roundOpenCommand
  | roundVisitCommand (station : Nat)
  | roundCloseCommand
  | readSheet (index : Nat)
  | readRound
  | raiseFault (kind : Nat)
  | ackFault (owner kind subject : Nat)
  | clearFault (owner kind subject : Nat)
  | readFaults (owner kind subject : Nat)
  | restartStation (target number : Nat)
  | pageStation (target code : Nat)
  | readSense
  | rest
  | readPower
  -- received frames
  | frameDiscarded (bytes : List Byte)
  | receiveGapTimeout
  | announce (h : FrameHeader) (receptionMs : Nat) (a : AnnounceBody)
  | request (h : FrameHeader) (r : RequestBody)
  | fragment (h : FrameHeader) (f : FragmentBody)
  | notHeld (h : FrameHeader) (obj : ImageObj) (key : Key)
  | superseded (h : FrameHeader) (obj : ImageObj) (key : Key)
  | amendment (h : FrameHeader) (s : Nat) (old new : Key) (change : AmendChange)
  | usage (h : FrameHeader) (u : UsageBody)
  | faultReport (h : FrameHeader) (r : ReportBody)
  | faultAck (h : FrameHeader) (kind : FaultKind) (subject : Nat)
  | faultClear (h : FrameHeader) (kind : FaultKind) (subject : Nat)
  | roundOpenFrame (h : FrameHeader) (round : Nat)
  | roundVisitFrame (h : FrameHeader) (round : Nat)
  | roundCloseFrame (h : FrameHeader) (round : Nat)
  | collectionReport (h : FrameHeader) (d : CollectionData)
  | collectionAck (h : FrameHeader) (first last : Nat)
  | restart (h : FrameHeader) (target : Nat)
  | page (h : FrameHeader) (code : Nat)
  -- marks, medium access and timers
  | cycleStartMark (lcd : Bool)
  | ownSlotMark
  | exchangePeriodMark (lcd : Bool)
  | endOfExchangeMark
  | mediumIdle
  | backoffWaitExpiry (lcd : Bool)
  | frameSent (lcd : Bool)
  | qualityAgeExpiry
  | dayRollover
  | changeover
  | intakeProgressTimeout
  | peerSilence (station : Nat)
  | sectionBehindExpiry (s : Nat)
  | saleInactivityExpiry
  | saleLifetimeExpiry
  | visitPeriodExpiry
  | senseSample (group : Nat) (level : Bool)
  | firstSettled (group : Nat)
  | senseGroupChange (group : Nat)
  | wakeButtonPress
  | supplyLowAssert
  | supplyLowDeassert
  | awakeGraceExpiry
  | dormantEntry
  | byteReceived (b : Byte) (stopOk : Bool)
  | lineQuiet
  | announceEnded (lcd : Bool)
  deriving DecidableEq, Repr

end Sys2Proof
end

