-- ==== Sys2Proof/WellFormed.lean ====
section
/-! DEFINITION. Which commands can be sent at all: every numeric operand fits the field that carries it (Section 12, and for a
host parameter the range its rule can tell apart), and every list has the length its layout gives. Whether an operand is in
the range a rule allows is for the meaning to judge, not for this check. -/

namespace Sys2Proof

/-- A value of a field of `k` bytes. -/
def fitsBytes (k n : Nat) : Bool := n < 256 ^ k

/-- A key as a 3-byte field carries it; generation 0 would be an absent key (Section 12). -/
def Key.fits (k : Key) : Bool := 1 ≤ k.gen && fitsBytes 2 k.gen && fitsBytes 1 k.pub

/-- An optional key field. -/
def Key.fitsOpt : Option Key → Bool
  | none => true
  | some k => Key.fits k

/-- The header fields of a frame (Table 12.1). -/
def FrameHeader.fits (h : FrameHeader) : Bool := fitsBytes 2 h.zone && fitsBytes 1 h.sender && fitsBytes 1 h.dest

/-- A vehicle reference as its 8 bytes carry it: 1 to 8 bytes, the last of them not the H'00 fill (Table 12.5). -/
def vehicleFits (v : List Byte) : Bool :=
  1 ≤ v.length && v.length ≤ 8 && v.getLast? != some 0#8

/-- A permit record that 24 bytes can carry (Table 12.5): the unused zone fields at the end are 0, an absent allowance is
H'FFFF. Whether the record is well formed is for its rules to judge. -/
def PermitRec.fits (r : PermitRec) : Bool :=
  fitsBytes 3 r.number && r.zones.length ≤ 3 && r.zones.all (fitsBytes 2) && r.zones.getLast? != some 0
    && (match r.vehicle with
        | none => true
        | some v => vehicleFits v)
    && fitsBytes 2 r.validFrom && fitsBytes 2 r.validTo
    && (match r.allowance with
        | none => true
        | some a => a < 0xFFFF)

/-- A fault entry that 17 bytes can carry (Table 12.4). -/
def FaultEntry.fits (e : FaultEntry) : Bool :=
  fitsBytes 1 e.owner && fitsBytes 1 e.subject
    && (match e.firstRaised with
        | none => true
        | some t => fitsBytes 4 t)
    && (match e.lastRaised with
        | none => true
        | some t => fitsBytes 4 t)
    && fitsBytes 1 e.occurrences && fitsBytes 4 e.change

/-- An announce body that 56 bytes can carry (Table 12.3); quality 0..3 or absent. -/
def AnnounceBody.fits (a : AnnounceBody) : Bool :=
  fitsBytes 4 a.zoneSec && a.zoneMs ≤ 999
    && (match a.quality with
        | none => true
        | some q => q ≤ 3)
    && Key.fitsOpt a.active && Key.fitsOpt a.pending && fitsBytes 4 a.pendingEff
    && a.sections.length == 8 && a.sections.all Key.fitsOpt
    && fitsBytes 4 a.faultCtr && fitsBytes 2 a.usageCtr && fitsBytes 2 a.usageDay && fitsBytes 1 a.due
    && fitsBytes 2 a.round
    && (match a.collector with
        | none => true
        | some c => 1 ≤ c && fitsBytes 1 c)

/-- An object code names one of nine image objects. -/
def ImageObj.fits : ImageObj → Bool
  | .tariff => true
  | .sect s => s ≤ 7

/-- A REQUEST body (Table 12.2). -/
def RequestBody.fits : RequestBody → Bool
  | .image obj key start => ImageObj.fits obj && Key.fits key && fitsBytes 1 start
  | .faults c => fitsBytes 4 c
  | .usage => true

/-- A FRAGMENT body: 1 to 96 data bytes (Table 12.2). -/
def FragmentBody.fits (f : FragmentBody) : Bool :=
  ImageObj.fits f.obj && Key.fits f.key && fitsBytes 1 f.index && fitsBytes 1 f.count && fitsBytes 2 f.length
    && 1 ≤ f.data.length && f.data.length ≤ 96

/-- The change of an AMENDMENT. -/
def AmendChange.fits : AmendChange → Bool
  | .add r | .replace r => PermitRec.fits r
  | .status n _ => fitsBytes 3 n
  | .close => true

/-- A USAGE body: at most 8 entries (Table 12.2). -/
def UsageBody.fits : UsageBody → Bool
  | .series ser part entries =>
    fitsBytes 2 ser.start && fitsBytes 2 ser.endPoint && fitsBytes 1 ser.parts && fitsBytes 1 part
      && entries.length ≤ 8 && entries.all (fun e => fitsBytes 3 e.1 && fitsBytes 2 e.2)
  | .single day counter permit minutes =>
    fitsBytes 2 day && fitsBytes 2 counter && fitsBytes 3 permit && fitsBytes 2 minutes

/-- A FAULT_REPORT body: at most 4 entries (Table 12.2). -/
def ReportBody.fits : ReportBody → Bool
  | .series ser part entries =>
    fitsBytes 4 ser.start && fitsBytes 4 ser.endPoint && fitsBytes 1 ser.parts && fitsBytes 1 part
      && entries.length ≤ 4 && entries.all FaultEntry.fits
  | .single counter e => fitsBytes 4 counter && FaultEntry.fits e

/-- A COLLECTION_REPORT body (Table 12.2). -/
def CollectionData.fits (d : CollectionData) : Bool :=
  fitsBytes 2 d.firstSeg && fitsBytes 2 d.lastSeg && fitsBytes 2 d.round && d.counts.length == 8
    && d.counts.all (fitsBytes 4) && fitsBytes 4 d.coinTotal && fitsBytes 6 d.totalValue && fitsBytes 4 d.firstSeq
    && fitsBytes 4 d.lastSeq
    && (match d.removal with
        | none => true
        | some t => fitsBytes 4 t)

/-- A frame body that its layout can carry. -/
def FrameBody.fits : FrameBody → Bool
  | .announce a => AnnounceBody.fits a
  | .request r => RequestBody.fits r
  | .fragment f => FragmentBody.fits f
  | .notHeld obj key | .superseded obj key => ImageObj.fits obj && Key.fits key
  | .amendment s old new change => fitsBytes 1 s && Key.fits old && Key.fits new && AmendChange.fits change
  | .usage u => UsageBody.fits u
  | .faultReport r => ReportBody.fits r
  | .faultAck _ subject | .faultClear _ subject => fitsBytes 1 subject
  | .roundOpen n | .roundVisit n | .roundClose n => fitsBytes 2 n
  | .collectionReport d => CollectionData.fits d
  | .collectionAck f l => fitsBytes 2 f && fitsBytes 2 l
  | .restart n => fitsBytes 4 n
  | .page c => fitsBytes 2 c

/-- A tag or other string of bytes fits the longest host frame (R194). -/
def paramBytesFit (bs : List Byte) : Bool := bs.length ≤ 1024

/-- The operands of AMEND_PERMIT. -/
def AmendParam.fits : AmendParam → Bool
  | .add r | .replace r => r.length == 24
  | .status n _ => fitsBytes 4 n
  | .undefinedOp => true

/-- A command that can be sent. -/
def Instr.wellFormed : Instr → Bool
  | .undefinedCommandCode code => fitsBytes 1 code
  | .setup p =>
    fitsBytes 2 p.zone && fitsBytes 1 p.station && fitsBytes 1 p.denomCount && p.denoms.all (fitsBytes 4)
      && fitsBytes 2 p.capacity && p.sense.length == 4
      && p.sense.all (fun g => fitsBytes 1 g.input && fitsBytes 1 g.period && fitsBytes 1 g.debounce)
  | .setAssetTag tag => paramBytesFit tag
  | .setTime n => fitsBytes 4 n
  | .readPeer n => fitsBytes 1 n
  | .readTariff _ _ index => fitsBytes 1 index
  | .tariffDraftWrite entry => paramBytesFit entry
  | .tariffPublish n => fitsBytes 4 n
  | .quote _ v _ => fitsBytes 4 v
  | .saleCoin i => fitsBytes 1 i
  | .saleCard a => fitsBytes 4 a
  | .salePermit n | .checkPermit n | .readUsage n => fitsBytes 4 n
  | .saleDuration m => fitsBytes 4 m
  | .amendPermit op => AmendParam.fits op
  | .closeSection s | .sectionLoadBegin s => fitsBytes 1 s
  | .sectionLoadRecord r => r.length == 24
  | .readSection s n => fitsBytes 1 s && fitsBytes 4 n
  | .readJournal n => fitsBytes 4 n
  | .roundVisitCommand n => fitsBytes 1 n
  | .readSheet i => fitsBytes 1 i
  | .raiseFault k => fitsBytes 1 k
  | .ackFault o k s | .clearFault o k s | .readFaults o k s => fitsBytes 1 o && fitsBytes 1 k && fitsBytes 1 s
  | .restartStation t n => fitsBytes 1 t && fitsBytes 4 n
  | .pageStation t c => fitsBytes 1 t && fitsBytes 4 c
  | .frameDiscarded bs => 8 ≤ bs.length && bs.length ≤ 120
  | .announce h _ a => FrameHeader.fits h && FrameBody.fits (.announce a)
  | .request h r => FrameHeader.fits h && FrameBody.fits (.request r)
  | .fragment h f => FrameHeader.fits h && FrameBody.fits (.fragment f)
  | .notHeld h obj key => FrameHeader.fits h && FrameBody.fits (.notHeld obj key)
  | .superseded h obj key => FrameHeader.fits h && FrameBody.fits (.superseded obj key)
  | .amendment h s old new change => FrameHeader.fits h && FrameBody.fits (.amendment s old new change)
  | .usage h u => FrameHeader.fits h && FrameBody.fits (.usage u)
  | .faultReport h r => FrameHeader.fits h && FrameBody.fits (.faultReport r)
  | .faultAck h k s => FrameHeader.fits h && FrameBody.fits (.faultAck k s)
  | .faultClear h k s => FrameHeader.fits h && FrameBody.fits (.faultClear k s)
  | .roundOpenFrame h n => FrameHeader.fits h && FrameBody.fits (.roundOpen n)
  | .roundVisitFrame h n => FrameHeader.fits h && FrameBody.fits (.roundVisit n)
  | .roundCloseFrame h n => FrameHeader.fits h && FrameBody.fits (.roundClose n)
  | .collectionReport h d => FrameHeader.fits h && FrameBody.fits (.collectionReport d)
  | .collectionAck h f l => FrameHeader.fits h && FrameBody.fits (.collectionAck f l)
  | .restart h n => FrameHeader.fits h && FrameBody.fits (.restart n)
  | .page h c => FrameHeader.fits h && FrameBody.fits (.page c)
  | .peerSilence n => 1 ≤ n && n ≤ 32
  | .sectionBehindExpiry s => s ≤ 7
  | .senseSample g _ | .firstSettled g | .senseGroupChange g => g ≤ 3
  | .powerOn | .resetN _ | .remoteRestart | .readTransfer _ | .badFrameWrite _ | .overrunWrite | .identify | .readStatus
  | .readEvent | .readReplication | .tariffDraftBegin _ | .tariffDraftSelect _ | .tariffDraftRead | .saleOpen
  | .saleCommit | .saleCancel | .sectionLoadEnd _ | .readTally | .roundOpenCommand | .roundCloseCommand | .readRound
  | .readSense | .rest | .readPower | .receiveGapTimeout | .cycleStartMark _ | .ownSlotMark | .exchangePeriodMark _
  | .endOfExchangeMark | .mediumIdle | .backoffWaitExpiry _ | .frameSent _ | .qualityAgeExpiry | .dayRollover
  | .changeover | .intakeProgressTimeout | .saleInactivityExpiry | .saleLifetimeExpiry | .visitPeriodExpiry
  | .wakeButtonPress | .supplyLowAssert | .supplyLowDeassert | .awakeGraceExpiry | .dormantEntry | .byteReceived _ _
  | .lineQuiet | .announceEnded _ => true

end Sys2Proof
end

