-- ==== Sys2Proof/Machine/State.lean ====
section
/-! DEFINITION. The state of the DZ240, block by block as Table 0.1 lists them, the reasons a step could stop, and the
state right after reset. INVENTORY.md lists every field with the rule that names it and its reset value. -/

namespace Sys2Proof.Machine

/-! ### Host port: status codes, responses, events -/

/-- The status codes in the order of Table 11.1. -/
inductive Status where
  | ok | notSetUp | alreadySetUp | badFrame | badParameter | roleRefused | clockUnset | noTariff | noStayNow
  | nothingToSell | notEnough | noSale | saleOpen | cashBlocked | boxFull | coinsNotAllowed | paymentPresent
  | journalFull | allowanceExhausted | allowanceUnavailable | invalidTariff | sectionClosed | sectionFull
  | revokedFinal | notFound | tableFull | roundNone | eventsPending | assetTagSet
  deriving DecidableEq, Repr

inductive PowerState where
  | awake | listening | dormant
  deriving DecidableEq, Repr

/-- The kinds of reset (Table 11.3). -/
inductive ResetKind where
  | powerOn | resetN | remoteRestart
  deriving DecidableEq, Repr

/-- The reset-cause record (R190). -/
structure ResetCause where
  kind : ResetKind
  powerBefore : Option PowerState
  saleLost : Bool
  engineer : Option Nat
  deriving DecidableEq, Repr

/-- The names of the host events (Table 10.3). -/
inductive EventName where
  | visit | paged | collectionTaken | saleAbandoned | faultChanged | tariffReceived | tariffChanged | sectionUpdated
  | roundOpened | visitExpired | collectionAcked | reportReceived | sheetFull | senseChanged | timeAdopted | supplyLow
  | queueOverrun
  deriving DecidableEq, Repr

inductive AdoptOutcome where
  | fromUnset | fromHigher | equalStep
  deriving DecidableEq, Repr

inductive FaultCause where
  | raise | ack | clear | copy | evict | discard
  deriving DecidableEq, Repr

inductive SupplyReason where
  | warning | withdrawn
  | restored (since : Option Nat) (seconds : Nat)
  deriving DecidableEq, Repr

inductive AbandonCause where
  | inactivity | lifetime | dormant
  deriving DecidableEq, Repr

/-- The form of a snapshot (R133). -/
inductive SnapForm where
  | newSpan | extend
  deriving DecidableEq, Repr

/-- What FAULT_CHANGED gives of an entry after its change (R167). -/
structure FaultFigures where
  state : FaultState
  occurrences : Nat
  lastRaised : Option Nat
  change : Nat
  deriving DecidableEq, Repr

/-- A host event with the fields its posting section gives. -/
inductive Event where
  | visit (round collector : Nat)
  | paged (sender code : Nat)
  | collectionTaken (attended : Bool) (round : Nat) (segment : Option (Nat × Nat × Nat)) (counts : List Nat)
      (coinTotal totalValue : Nat) (form : SnapForm)
  | saleAbandoned (cause : AbandonCause) (escrow : List Nat) (coinTotal : Nat) (card permit : Option Nat) (pin : Key)
  | faultChanged (owner : Nat) (kind : FaultKind) (subject : Nat) (cause : FaultCause) (after : Option FaultFigures)
  | tariffReceived (key : Option Key) (slot : TariffSlot) (effectiveFrom reference supplier : Nat)
  | tariffChanged (key : Option Key) (reference : Nat) (previous : Option Key) (byChangeover kept : Bool)
  | sectionUpdated (s : Nat) (key : Key) (previous : Option Key) (byAmendment closed : Bool) (count supplier : Nat)
  | roundOpened (round collector : Nat)
  | visitExpired (round : Nat)
  | collectionAcked (first last totalValue collector : Nat)
  | reportReceived (station first last totalValue : Nat) (attended replaced : Bool)
  | sheetFull (station first last : Nat)
  | senseChanged (group : Nat) (active : Bool) (time : Option Nat)
  | timeAdopted (sender : Nat) (outcome : AdoptOutcome) (quality seconds : Nat) (step : Option Int)
  | supplyLow (reason : SupplyReason)
  | queueOverrun (lost : EventName) (count : Nat)
  deriving DecidableEq, Repr

/-- One entry of the host event queue: the event and the zone time at which it was posted. -/
structure EventEntry where
  event : Event
  time : Option Nat
  deriving DecidableEq, Repr

/-! ### Zone clock -/

/-- The four marks of the zone cycle (R14). -/
inductive Mark where
  | endOfExchange | cycleStart | ownSlot | exchangeStart
  deriving DecidableEq, Repr

/-- The zone clock (R2, R4). `zone` counts milliseconds of zone time; `marksGiven` are the marks already given at the
present zone time. -/
structure Clock where
  elapsed : Nat
  zone : Option Nat
  quality : Option Nat
  ageStart : Option Nat
  rolloverDay : Nat
  marksGiven : List Mark
  draws : Nat
  deriving DecidableEq, Repr

/-! ### Link controller -/

/-- The identity of the unit that placed a frame in the transmit queue (R31), as far as its notices need it. -/
inductive Placer where
  | intake
  | supply
  | report (firstSeg lastSeg : Nat)
  | other
  deriving DecidableEq, Repr

/-- One frame of the transmit queue. -/
structure TxFrame where
  dest : Nat
  body : FrameBody
  attempt : Nat
  placer : Placer
  deriving DecidableEq, Repr

/-- What is on the line: the head frame of the transmit queue, or an announce. -/
inductive OnLine where
  | exchange (start : Nat)
  | announce (start : Nat) (a : AnnounceBody)
  deriving DecidableEq, Repr

/-- Medium access of the head frame (R32). `paused ran` is a wait that an announce interrupts; `held` waits for the next
exchange-period mark. -/
inductive Access where
  | off
  | waitIdle
  | backoff (start : Nat)
  | paused (ran : Nat)
  | held
  deriving DecidableEq, Repr

/-- The receive path (R19). -/
inductive RxPath where
  | idle
  | collecting (bytes : List Byte) (start last : Nat)
  | waitQuiet (since : Nat)
  deriving DecidableEq, Repr

/-- A complete frame waiting in the receive path (R23). -/
structure Received where
  bytes : List Byte
  start : Nat
  finish : Nat
  deriving DecidableEq, Repr

inductive PeerStatus where
  | live | dormant | silent
  deriving DecidableEq, Repr

/-- A peer table entry (Table 2.4). -/
structure PeerEntry where
  station : Nat
  role : Role
  quality : Option Nat
  lastHeard : Nat
  dormantHeard : Option Nat
  status : PeerStatus
  dormant : Bool
  hostAwake : Bool
  reports : Bool
  active : Option Key
  pending : Option Key
  pendingEff : Option Nat
  sections : List (Option Key)
  faultCtr : Nat
  usageCtr : Nat
  usageDay : Nat
  due : Nat
  round : Nat
  collector : Option Nat
  roundState : RoundState
  deriving DecidableEq, Repr

/-- The link controller. For R17, `addressedAt` is the reading of the elapsed-time counter at the last frame received for the
own number, `changedAt` the reading at the last change of an own counter, and `windowHeard` the peers announced in the
gathering window of the zone cycle. -/
structure Link where
  tx : List TxFrame
  line : Option OnLine
  access : Access
  lcd : Bool
  path : RxPath
  waiting : Option Received
  handing : Bool
  receiver : Bool
  heldOn : Bool
  addressedAt : Option Nat
  windowHeard : List Nat
  changedAt : Option Nat
  peers : List PeerEntry
  lastDuplicate : Option Nat
  deriving DecidableEq, Repr

/-! ### Replication unit -/

/-- A want entry (R38). `pendingOnly` says that the key is advertised in pending fields alone, so that R37 tests it as a
pending key. Log entry 14. -/
structure WantEntry where
  obj : ImageObj
  key : Key
  pendingOnly : Bool
  cands : List Nat
  excluded : List Nat
  timeouts : Nat
  deriving DecidableEq, Repr

inductive IntakePhase where
  | requesting | receiving
  deriving DecidableEq, Repr

/-- What fragment 0 states of an image: count, length and check. -/
structure ImageInfo where
  count : Nat
  length : Nat
  check : Crc
  deriving DecidableEq, Repr

/-- The intake buffer while an object is fetched (Table 3.3); `placed` says that the REQUEST of the present need is in
the transmit queue (R42). -/
structure Intake where
  obj : ImageObj
  key : Key
  provider : Nat
  next : Nat
  info : Option ImageInfo
  bytes : List Byte
  progress : Nat
  phase : IntakePhase
  placed : Bool
  deriving DecidableEq, Repr

/-- What a supply entry serves (Table 3.5); `faults c` is a request from change number c. -/
inductive SupplyItem where
  | image (obj : ImageObj) (key : Key)
  | faults (c : Nat)
  | usage
  deriving DecidableEq, Repr

/-- The object of a supply queue entry, as READ_REPLICATION gives it (R58). -/
inductive SupplyObject where
  | image (obj : ImageObj)
  | faults | usage
  deriving DecidableEq, Repr

/-- A supply queue entry (Table 3.5). `sentHigh` is the highest change or permit number sent in earlier parts;
`placed` says that the frame of the present index is in the transmit queue, `placedHigh` what it would raise
`sentHigh` to. -/
structure SupplyEntry where
  requester : Nat
  item : SupplyItem
  next : Nat
  series : Option Series
  sentHigh : Nat
  placed : Bool
  placedHigh : Nat
  deriving DecidableEq, Repr

/-- The replication unit. -/
structure Repl where
  want : List WantEntry
  declined : List (ImageObj × Key)
  intake : Option Intake
  supply : List SupplyEntry
  deriving DecidableEq, Repr

/-- One series in reception (R57): its fields, the part indices received, the reading of the last part. -/
structure SeriesRx where
  ser : Series
  got : List Nat
  lastPart : Nat
  deriving DecidableEq, Repr

/-! ### Tariff store and sale unit -/

/-- A present tariff draft (R76). -/
structure Draft where
  tset : TariffSet
  part : TariffPart
  index : Nat
  deriving DecidableEq, Repr

/-- The tariff store. -/
structure Tariff where
  active : Option TariffSet
  pending : Option TariffSet
  retired : Option TariffSet
  pin : Option Key
  draft : Option Draft
  deriving DecidableEq, Repr

/-- The result fields of an outcome SOLD (R91); times are whole seconds. -/
structure QuoteResult where
  key : Option Key
  treatment : Option ClassEntry
  ladder : Nat
  start : Nat
  paidFrom : Nat
  steps : Nat
  paidMinutes : Nat
  price : Nat
  excess : Nat
  nextStep : Option Nat
  expiry : Nat
  covers : Option Bool
  horizon : Bool
  deriving DecidableEq, Repr

/-- The outcome of a walk or of a requote. -/
inductive QuoteOutcome where
  | sold (r : QuoteResult)
  | noStayNow | nothingToSell | notEnough | allowanceExhausted | allowanceUnavailable
  deriving DecidableEq, Repr

/-- The results of a permit check (Table 6.2). -/
inductive CheckResult where
  | unverified | notFound | revoked | suspended | notYetValid | expired | wrongZone | staleValid | valid
  deriving DecidableEq, Repr

/-- The permit applied to a sale (Table 5.1). -/
structure AppliedPermit where
  number : Nat
  cls : PermitClass
  treat : ClassEntry
  check : CheckResult
  allowance : Option Nat
  deriving DecidableEq, Repr

/-- The open sale record (Table 5.1). -/
structure Sale where
  pin : Key
  escrow : List Nat
  coinTotal : Nat
  payment : Nat
  card : Option Nat
  permit : Option AppliedPermit
  requested : Option Nat
  quote : QuoteOutcome
  openedAt : Nat
  lastEvent : Nat
  deriving DecidableEq, Repr

/-- The sale unit; `openMark` is the nonvolatile sale-open mark of R190. -/
structure SaleUnit where
  sale : Option Sale
  openMark : Bool
  deriving DecidableEq, Repr

/-! ### Permit store -/

/-- A permit section (R107) with its behind-since time and whether that passage has raised PERMIT_STALE (R108, R109). -/
structure PermitSection where
  key : Option Key
  closed : Bool
  records : List PermitRec
  behindSince : Option Nat
  staleRaised : Bool
  deriving DecidableEq, Repr

/-- A usage entry (Table 6.3). -/
structure UsageEntry where
  permit : Nat
  day : Nat
  contribs : List (Nat × Nat)
  saturated : Bool
  deriving DecidableEq, Repr

/-- The usage position held for a peer and its series in reception (R55, R57). -/
structure UsagePos where
  owner : Nat
  pos : Option (Nat × Nat)
  series : Option SeriesRx
  deriving DecidableEq, Repr

/-- A present section draft (R116). -/
structure SectionDraft where
  index : Nat
  records : List PermitRec
  deriving DecidableEq, Repr

/-- The permit store. -/
structure Permits where
  sections : List PermitSection
  draft : Option SectionDraft
  usage : List UsageEntry
  ownCtr : Nat
  ownDay : Nat
  lostDay : Option Nat
  settled : Bool
  cycleMarks : Nat
  positions : List UsagePos
  deriving DecidableEq, Repr

/-! ### Cash unit -/

/-- The kinds of journal record (R100). -/
inductive JournalKind where
  | paid | permitUse | allowanceUse
  deriving DecidableEq, Repr

/-- A journal record (Table 7.1). -/
structure JournalRec where
  seq : Nat
  time : Nat
  kind : JournalKind
  key : Key
  ladder : Nat
  amount : Nat
  coins : Option (List Nat)
  card : Option Nat
  start : Nat
  expiry : Nat
  granted : Option Nat
  permit : Option Nat
  stale : Bool
  segment : Nat
  deriving DecidableEq, Repr

/-- The open segment (Table 7.2). -/
structure OpenSeg where
  number : Nat
  firstSeq : Nat
  count : Nat
  deriving DecidableEq, Repr

/-- A protected span (Table 7.2). -/
structure Span where
  firstSeg : Nat
  lastSeg : Nat
  firstSeq : Nat
  lastSeq : Nat
  deriving DecidableEq, Repr

/-- The cash unit. `journal` lists the held records, oldest first; `values` are the denomination values kept (R125). -/
structure Cash where
  counts : List Nat
  coinTotal : Nat
  totalValue : Nat
  values : Option (List Nat)
  mixed : Bool
  journal : List JournalRec
  nextSeq : Nat
  lastSeg : Nat
  openSeg : Option OpenSeg
  spans : List Span
  deriving DecidableEq, Repr

/-! ### Round unit -/

/-- The round context (Table 8.1). -/
structure RoundCtx where
  round : Nat
  collector : Option Nat
  state : RoundState
  visitRecord : Option Nat
  visitStart : Option Nat
  deriving DecidableEq, Repr

/-- A record of the collection log (Table 8.4); `held` keeps a refused or dropped report for the next mark (R150). -/
structure LogRec where
  data : CollectionData
  due : Bool
  held : Bool
  deriving DecidableEq, Repr

/-- The round unit; a sheet entry is the reporting station and the report. -/
structure Rounds where
  ctx : RoundCtx
  log : List LogRec
  dueList : List (Nat × Nat)
  sheet : List (Nat × CollectionData)
  sheetRound : Nat
  sheetOpened : Option Nat
  counter : Nat
  deriving DecidableEq, Repr

/-! ### Fault unit -/

/-- The fault position held for a peer and its series in reception (R55, R57). -/
structure FaultPos where
  owner : Nat
  pos : Nat
  series : Option SeriesRx
  deriving DecidableEq, Repr

/-- The fault unit. The table is kept in order of owner, kind and subject. -/
structure Faults where
  table : List FaultEntry
  counter : Nat
  positions : List FaultPos
  observed : List Nat
  restartBy : Option Nat
  deriving DecidableEq, Repr

/-! ### Sense unit and power unit -/

/-- The settled state of a sense group (R171). -/
inductive Settled where
  | disabled | unsettled | inactive | active
  deriving DecidableEq, Repr

/-- One sense group. -/
structure SenseGroup where
  settings : Option SenseSettings
  settled : Settled
  runLevel : Bool
  runCount : Nat
  changes : Nat
  lastSample : Nat
  deriving DecidableEq, Repr

/-- The sense unit: groups DOOR, BOX, TILT, AUX and the levels of SN0..SN11. -/
structure Sense where
  groups : List SenseGroup
  pins : List Bool
  deriving DecidableEq, Repr

/-- What the 64 ms samples of WAKE_BUTTON have found (R178): nothing that a press could follow, a released sample, then
one and two asserted samples after it; two make a press. -/
inductive ButtonRun where
  | waiting | released | once | press
  deriving DecidableEq, Repr

inductive WakeCause where
  | reset | button | supplyRestored
  | event (name : EventName)
  deriving DecidableEq, Repr

/-- The power unit (R176). `supply` is the settled level of SUPPLY_LOW, `restTaken` a REST whose response is unread. The
levels of the pins WAKE_BUTTON and SUPPLY_LOW stand with the runs of their samples (R178, R179). -/
structure Power where
  state : PowerState
  warning : Option Nat
  dormantDue : Bool
  dormantSince : Option (Nat × Option Nat)
  wakeCause : WakeCause
  recorded : Option EventName
  periods : Nat
  supply : Option Bool
  lastPeriod : Option (Option Nat × Nat)
  restTaken : Bool
  supplyPin : Bool
  supplyRunLevel : Bool
  supplyRunCount : Nat
  buttonPin : Bool
  buttonRun : ButtonRun
  deriving DecidableEq, Repr

/-! ### Responses -/

/-- The Setup record (R187). -/
structure SetupRecord where
  zone : Nat
  station : Nat
  role : Role
  denoms : List Nat
  capacity : Nat
  sense : List SenseSettings
  deriving DecidableEq, Repr

/-- The checks of Table 4.4 and the generation check of R80. -/
inductive TariffCheck where
  | ladderHeader | bandRange | daypartRange | classLadder | ladderReference | daypartOverlap | calendarDate | generation
  deriving DecidableEq, Repr

/-- One want-list row of READ_REPLICATION (R58). -/
structure ReplRow where
  wanted : Option Key
  candidates : Nat
  lowest : Option Nat
  excluded : Nat
  timeouts : Nat
  declined : Option Key
  deriving DecidableEq, Repr

/-- The intake as READ_REPLICATION gives it (R58). -/
structure IntakeRow where
  phase : IntakePhase
  obj : ImageObj
  key : Key
  provider : Nat
  next : Nat
  count : Option Nat
  deriving DecidableEq, Repr

/-- A sense group as READ_SENSE gives it (R175). -/
structure SenseRow where
  settings : Option SenseSettings
  settled : Settled
  runLevel : Bool
  runCount : Nat
  changes : Nat
  deriving DecidableEq, Repr

/-- The figures of a ladder as READ_TARIFF gives them (R62, R75). -/
structure LadderFigures where
  blank : Bool
  lastBand : Nat
  length : Option Nat
  capMinutes : Option Nat
  deriving DecidableEq, Repr

/-- The entry READ_TARIFF or TARIFF_DRAFT_READ gives: the bytes of its layout, with the figures that go with it. -/
inductive TariffEntry where
  | plain (bytes : List Byte)
  | ladderHeader (bytes : List Byte) (figures : LadderFigures)
  | band (bytes : List Byte) (baseTime basePrice : Nat) (inLadder : Bool)
  deriving DecidableEq, Repr

/-- The ticket record (R101). -/
structure Ticket where
  seq : Nat
  start : Nat
  paidFrom : Nat
  expiry : Nat
  paid : Nat
  excess : Nat
  permit : Option Nat
  key : Key
  kind : JournalKind
  stale : Bool
  horizon : Bool
  granted : Option Nat
  covers : Option Bool
  deriving DecidableEq, Repr

/-- Why allowance use is unavailable (R123, R124). -/
inductive UnavailableReason where
  | clockOrDay | counterFull | unsettled
  deriving DecidableEq, Repr

/-- The result fields of the responses, by content. -/
inductive Result where
  | nothing
  | identity (part revision : Nat) (unique : BitVec 48) (tag : Option (List Byte))
  | status (power : PowerState) (setup : Option (Nat × Nat × Role)) (time : Option Nat) (quality : Option Nat)
      (depth : Nat) (badFrame overrun : Bool) (cause : ResetCause)
  | setup (homeChanged : Bool) (before : Option (Nat × Nat))
  | event (e : EventEntry) (remaining : Nat)
  | assetTag (tag : List Byte)
  | time (previous : Option Nat) (quality : Option Nat)
  | peer (e : PeerEntry) (heardAge : Nat) (dormantAge : Option Nat)
  | replication (rows : List ReplRow) (intake : Option IntakeRow) (supplyCount : Nat)
      (supplyHead : Option (Nat × SupplyObject × Nat)) (faultsAhead usageAhead : Nat)
  | tariff (key : Option Key) (effectiveFrom reference : Nat) (entry : TariffEntry)
  | draftBegun (key : Option Key) (effectiveFrom : Option Nat)
  | draftPart (size : Nat)
  | draftIndex (index : Nat)
  | draftEntry (index : Nat) (bytes : List Byte)
  | invalidTariff (check : TariffCheck) (part : Option (TariffPart × Nat))
  | published (key : Key) (slot : TariffSlot)
  | quote (r : QuoteResult)
  | sale (pin : Key) (quote : QuoteOutcome)
  | quoted (quote : QuoteOutcome)
  | salePermit (check : CheckResult) (quote : QuoteOutcome)
  | ticket (t : Ticket)
  | cancelled (escrow : List Nat) (coinTotal : Nat) (card permit : Option Nat)
  | permit (check : CheckResult) (s : Nat) (key : Option Key) (behind : Bool) (record : Option (List Byte))
      (treatment : Option ClassEntry) (allowance : Option (Nat × Option (Nat × Nat)))
  | sectionKey (key : Key) (count : Nat)
  | sectionCount (count : Nat)
  | sectionRead (key : Option Key) (closed : Bool) (count : Nat) (behindAge : Option Nat)
      (advertised : Option (Key × Nat)) (record : Option (List Byte))
  | usage (unavailable : Option UnavailableReason) (counter day entries : Nat) (entry : Option (UsageEntry × Nat))
  | tally (counts : List (Nat × Option Nat)) (coinTotal totalValue : Nat) (mixed : Bool) (capacity fill nextSeq : Nat)
      (oldest : Option Nat) (openSeg : Option OpenSeg) (lastSeg : Nat) (spans : List Span) (protectedCount fillJ : Nat)
      (full : Bool) (due : Nat)
  | journal (r : JournalRec) (isProtected : Bool)
  | roundPlaced (round : Nat) (placed : Bool)
  | placed (placed : Bool)
  | sheet (round : Nat) (opened : Option Nat) (stillOpen : Bool) (count : Nat) (entry : Option (Nat × CollectionData))
  | round (ctx : RoundCtx) (remaining : Option Nat) (log : List (CollectionData × Bool)) (dueList : List (Nat × Nat))
      (counter : Option Nat)
  | fault (e : FaultEntry)
  | faultRead (e : Option FaultEntry) (counter entries own : Nat)
  | sense (groups : List SenseRow)
  | power (state : PowerState) (supply : Option Bool) (warningLeft : Option Nat) (dormantDue : Bool)
      (cause : WakeCause) (periods : Nat) (last : Option (Option Nat × Nat))
  deriving DecidableEq, Repr

/-- A response: status, the command code it answers, result fields. -/
structure Response where
  status : Status
  code : Nat
  result : Result
  deriving DecidableEq, Repr

/-- The frame that a READ transfer shifted out last, whole or in part (R183, R194). -/
inductive SdoOut where
  | whole (frame : List Byte)
  | part (frame : List Byte)
  deriving DecidableEq, Repr

/-- The host port, Setup, identity and the reset-cause record. -/
structure Port where
  buffer : Option Response
  badFrameSeen : Bool
  overrunSeen : Bool
  events : List EventEntry
  resetCause : ResetCause
  setup : Option SetupRecord
  home : Option (Nat × Nat)
  assetTag : Option (List Byte)
  unique : BitVec 48
  resetHigh : Bool
  sdo : Option SdoOut
  deriving DecidableEq, Repr

/-! ### The whole state -/

/-- The state of the block. `pending` is the queue of commands waiting, first in first out. -/
structure State where
  clock : Clock
  link : Link
  repl : Repl
  tariff : Tariff
  sales : SaleUnit
  permits : Permits
  cash : Cash
  rounds : Rounds
  faults : Faults
  sense : Sense
  power : Power
  port : Port
  pending : List Instr
  deriving DecidableEq, Repr

/-- Faults: the manual gives the block no way to stop, so there is none, and no command raises one (safe). -/
inductive Fault where
  deriving DecidableEq, Repr

/-- Refusals. `notModelled` is raised only by an arm of `exec` whose row has no meaning yet (safe); no arm is such. -/
inductive Refusal where
  | notModelled (mnemonic : String)
  deriving DecidableEq, Repr

/-! ### Values after reset -/

/-- The zone clock after every reset, given the rollover day, which is kept (R2, R4). -/
def Clock.afterReset (day draws : Nat) : Clock :=
  { elapsed := 0, zone := none, quality := none, ageStart := none, rolloverDay := day, marksGiven := [], draws := draws }

/-- The link controller after every reset (R18, R27, R34); the level of LCD is the pin's. -/
def Link.afterReset (lcd : Bool) : Link :=
  { tx := [], line := none, access := .off, lcd := lcd, path := .idle, waiting := none, handing := false
    receiver := false, heldOn := false, addressedAt := none, windowHeard := [], changedAt := none
    peers := [], lastDuplicate := none }

/-- The replication unit after every reset (R48, R52). -/
def Repl.afterReset : Repl := { want := [], declined := [], intake := none, supply := [] }

/-- A section that was never received (R107). -/
def PermitSection.never : PermitSection :=
  { key := none, closed := false, records := [], behindSince := none, staleRaised := false }

/-- A sense group after every reset (R171). -/
def SenseGroup.afterReset : SenseGroup :=
  { settings := none, settled := .disabled, runLevel := false, runCount := 0, changes := 0, lastSample := 0 }

/-- The power unit after every reset (R176, R178, R179), given the levels of its two pins. -/
def Power.afterReset (supplyPin buttonPin : Bool) : Power :=
  { state := .awake, warning := none, dormantDue := false, dormantSince := none, wakeCause := .reset, recorded := none
    periods := 0, supply := none, lastPeriod := none, restTaken := false, supplyPin := supplyPin, supplyRunLevel := false
    supplyRunCount := 0, buttonPin := buttonPin, buttonRun := .waiting }

/-- The round context of a part that holds no round (R138). -/
def RoundCtx.idle : RoundCtx :=
  { round := 0, collector := none, state := .idle, visitRecord := none, visitStart := none }

/-- Eight zero counts, one per denomination index (R126). -/
def zeroCounts : List Nat := List.replicate 8 0

/-- The part right after reset: a factory part after its first POWER_ON (R4, R68, R107, R119, R126, R128, R130, R138,
R139, R141, R146, R156, R188 to R190). Log entry 7. -/
def State.reset : State :=
  { clock := Clock.afterReset 0 0
    link := Link.afterReset false
    repl := Repl.afterReset
    tariff := { active := none, pending := none, retired := none, pin := none, draft := none }
    sales := { sale := none, openMark := false }
    permits :=
      { sections := List.replicate 8 PermitSection.never, draft := none, usage := [], ownCtr := 0, ownDay := 0
        lostDay := none, settled := false, cycleMarks := 0, positions := [] }
    cash :=
      { counts := zeroCounts, coinTotal := 0, totalValue := 0, values := none, mixed := false, journal := []
        nextSeq := 1, lastSeg := 0, openSeg := none, spans := [] }
    rounds :=
      { ctx := RoundCtx.idle, log := [], dueList := [], sheet := [], sheetRound := 0, sheetOpened := none
        counter := 0 }
    faults := { table := [], counter := 0, positions := [], observed := [], restartBy := none }
    sense := { groups := List.replicate 4 SenseGroup.afterReset, pins := List.replicate 12 false }
    power := Power.afterReset false false
    port :=
      { buffer := none, badFrameSeen := false, overrunSeen := false, events := []
        resetCause := { kind := .powerOn, powerBefore := none, saleLost := false, engineer := none }
        setup := none, home := none, assetTag := none, unique := Config.uniqueNumber, resetHigh := true, sdo := none }
    pending := [] }

end Sys2Proof.Machine
end

