-- ==== Sys2Proof/Machine/Operands.lean ====
section
/-! DEFINITION. The range checks on operands: host parameters, permit records, and the fields of received frames that step 3
of R20 judges (R192). -/

namespace Sys2Proof.Machine

/-- A station number 1..32 (0.6). -/
def stationOk (n : Nat) : Bool := 1 ≤ n && n ≤ 32

/-- A permit number 1..999,999 (Table 6.1). -/
def permitNumberOk (n : Nat) : Bool := 1 ≤ n && n ≤ 999999

/-- A present key: generation 1..65535, publisher 1..32 (R35). -/
def Key.ok (k : Key) : Bool := 1 ≤ k.gen && k.gen ≤ 65535 && stationOk k.pub

/-- An optional key is absent or in range. -/
def Key.okOpt : Option Key → Bool
  | none => true
  | some k => Key.ok k

/-- The order number of a fault kind (Table 9.1), which is its code (Table 12.2). -/
def faultCode : FaultKind → Nat
  | .coinMech => 1 | .printer => 2 | .paperLow => 3 | .paperOut => 4 | .cardReader => 5 | .display => 6
  | .keypad => 7 | .hostOther => 8 | .tamper => 9 | .boxRemovedUnattended => 10 | .tilt => 11 | .boxFull => 12
  | .journalFull => 13 | .tariffMissing => 14 | .permitStale => 15 | .duplicateNumber => 16 | .stationSilent => 17
  | .stationDormant => 18

/-- The fault kind with a given code, if any. -/
def faultKindOf : Nat → Option FaultKind
  | 1 => some .coinMech | 2 => some .printer | 3 => some .paperLow | 4 => some .paperOut | 5 => some .cardReader
  | 6 => some .display | 7 => some .keypad | 8 => some .hostOther | 9 => some .tamper
  | 10 => some .boxRemovedUnattended | 11 => some .tilt | 12 => some .boxFull | 13 => some .journalFull
  | 14 => some .tariffMissing | 15 => some .permitStale | 16 => some .duplicateNumber | 17 => some .stationSilent
  | 18 => some .stationDormant
  | _ => none

/-- The subject a kind may carry: 0 for kinds 1..16, a station for the observer kinds (R155, Table 9.2). -/
def subjectOk (k : FaultKind) (subject : Nat) : Bool :=
  if faultCode k ≤ 16 then subject == 0 else stationOk subject

/-- A vehicle character A..Z or 0..9 (Table 6.1). -/
def vehicleChar (b : Byte) : Bool :=
  (0x41 ≤ b.toNat && b.toNat ≤ 0x5A) || (0x30 ≤ b.toNat && b.toNat ≤ 0x39)

/-- No zone number stands twice in a list. -/
def noRepeat : List Nat → Bool
  | [] => true
  | x :: xs => !xs.contains x && noRepeat xs

/-- A permit record is well formed (R106). -/
def permitWf (r : PermitRec) : Bool :=
  permitNumberOk r.number
    && 1 ≤ r.zones.length && r.zones.length ≤ 3
    && r.zones.all (fun z => 1 ≤ z && z ≤ 4095) && noRepeat r.zones
    && (match r.vehicle with
        | none => true
        | some v => 1 ≤ v.length && v.length ≤ 8 && v.all vehicleChar && r.cls != .visitor)
    && r.validFrom ≤ r.validTo && r.validTo ≤ 65535
    && (match r.allowance with
        | none => true
        | some a => a ≤ 1440)

/-- An image object code names TARIFF or a section 0..7. -/
def objOk : ImageObj → Bool
  | .tariff => true
  | .sect s => s ≤ 7

/-- The sense settings of Table 11.2. -/
def senseSettingsOk (g : SenseSettings) : Bool :=
  g.input ≤ 2 && 1 ≤ g.period && g.period ≤ 255 && 1 ≤ g.debounce && g.debounce ≤ 15

/-- The Setup record a SETUP gives, if every parameter is in the range of Table 11.2 (R187). -/
def setupRecord (p : SetupParams) : Option SetupRecord :=
  match p.role with
  | none => none
  | some role =>
    if 1 ≤ p.zone && p.zone ≤ 4095 && stationOk p.station
        && p.denomCount ≤ 8 && p.denoms.length == p.denomCount
        && p.denoms.all (fun v => 1 ≤ v && v ≤ 65535)
        && 100 ≤ p.capacity && p.capacity ≤ 4000
        && p.sense.length == 4 && p.sense.all senseSettingsOk then
      some { zone := p.zone, station := p.station, role := role, denoms := p.denoms, capacity := p.capacity
             sense := p.sense }
    else none

/-- An asset tag: 1 to 12 printable characters H'21..H'7E (R189). -/
def assetTagOk (tag : List Byte) : Bool :=
  1 ≤ tag.length && tag.length ≤ 12 && tag.all (fun b => 0x21 ≤ b.toNat && b.toNat ≤ 0x7E)

/-! ### Frames -/

/-- The code of a frame kind (Table 12.2). -/
def frameCode : FrameBody → Nat
  | .announce _ => 1 | .request _ => 2 | .fragment _ => 3 | .notHeld _ _ => 4 | .superseded _ _ => 5
  | .amendment _ _ _ _ => 6 | .usage _ => 7 | .faultReport _ => 8 | .faultAck _ _ => 9 | .faultClear _ _ => 10
  | .roundOpen _ => 11 | .roundVisit _ => 12 | .roundClose _ => 13 | .collectionReport _ => 14
  | .collectionAck _ _ => 15 | .restart _ => 16 | .page _ => 17

/-- The Destination column of Table 2.2. -/
def destFits (body : FrameBody) (dest : Nat) : Bool :=
  match body with
  | .announce _ | .amendment _ _ _ _ | .roundOpen _ | .roundClose _ => dest == 0
  | .usage _ | .faultReport _ => dest == 0 || stationOk dest
  | .request _ | .fragment _ | .notHeld _ _ | .superseded _ _ | .faultAck _ _ | .faultClear _ _ | .roundVisit _
  | .collectionReport _ | .collectionAck _ _ | .restart _ | .page _ => stationOk dest

/-- The Sender column of Table 2.2. -/
def senderTrusted (body : FrameBody) (role : Role) : Bool :=
  match body with
  | .amendment _ _ _ _ | .faultAck _ _ => role == .gateway
  | .faultClear _ _ | .restart _ => role == .engineer
  | .roundOpen _ | .roundVisit _ | .roundClose _ | .collectionAck _ _ => role == .collector
  | .collectionReport _ => role == .fixed || role == .gateway
  | .page _ => role == .engineer || role == .collector
  | .announce _ | .request _ | .fragment _ | .notHeld _ _ | .superseded _ _ | .usage _ | .faultReport _ => true

/-- The number of data bytes a fragment carries: 96, or the remainder for the last one (R43). -/
def fragmentBytes (length count index : Nat) : Nat :=
  if index + 1 = count then length - 96 * (count - 1) else 96

/-- A carried fault entry has its station, code and count fields in range (Table 12.4); the subject of an observer kind is
never the owner (R155). -/
def faultEntryOk (e : FaultEntry) : Bool :=
  stationOk e.owner && subjectOk e.kind e.subject && e.subject != e.owner && 1 ≤ e.occurrences && e.occurrences ≤ 255

/-- The change of an AMENDMENT has its zone fields in range (R192); whether the record is well formed is the permit
store's to judge (R114). -/
def amendChangeOk : AmendChange → Bool
  | .add r | .replace r => r.zones.all (fun z => z ≤ 4095)
  | .status _ _ | .close => true

/-- The range judgement of step 3 of R20 on a body whose length fits its kind (R192). Log entry 23. That a FAULT_ACK or
FAULT_CLEAR passes whose subject is the owner it goes to, which R155 gives no entry, is the model's choice: log entry 88. -/
def bodyOk : FrameBody → Bool
  | .announce a =>
    a.due ≤ 100 && Key.okOpt a.active && Key.okOpt a.pending && a.sections.length == 8
      && a.sections.all Key.okOpt
      && (match a.collector with
          | none => true
          | some c => stationOk c)
  | .request (.image obj key _) => objOk obj && Key.ok key
  | .request _ => true
  | .fragment f =>
    objOk f.obj && Key.ok f.key && 1 ≤ f.count && f.count ≤ 41
      && f.data.length == fragmentBytes f.length f.count f.index && 1 ≤ f.data.length && f.data.length ≤ 96
  | .notHeld obj key | .superseded obj key => objOk obj && Key.ok key
  | .amendment s old new change => s ≤ 7 && Key.ok old && Key.ok new && amendChangeOk change
  | .usage (.series ser _ entries) => 1 ≤ ser.parts && entries.length ≤ 8
  | .usage (.single _ _ _ _) => true
  | .faultReport (.series ser _ entries) => 1 ≤ ser.parts && entries.length ≤ 4 && entries.all faultEntryOk
  | .faultReport (.single _ e) => faultEntryOk e
  | .faultAck k s | .faultClear k s => subjectOk k s
  | .collectionReport d => d.counts.length == 8
  | .roundOpen _ | .roundVisit _ | .roundClose _ | .collectionAck _ _ | .restart _ | .page _ => true

/-- The steps of R20 at which a complete frame may be discarded. -/
inductive FilterStep where
  | zone | check | header | dest | sender
  deriving DecidableEq, Repr

/-- The filters of R20 on a frame whose check agrees: the step that discards it, or none. -/
def filterStep (zone own : Nat) (h : FrameHeader) (body : FrameBody) : Option FilterStep :=
  if h.zone ≠ zone then some .zone
  else if !(stationOk h.sender && destFits body h.dest && bodyOk body) then some .header
  else if h.dest ≠ 0 ∧ h.dest ≠ own then some .dest
  else if h.sender = own then some .sender
  else none

end Sys2Proof.Machine
end

