-- ==== Sys2Proof/Machine/Codec.lean ====
section
/-! DEFINITION. The byte layouts of Section 12: the CRC, the permit record, the tariff and section images, the link frames
and the envelope of the host port frames. -/

namespace Sys2Proof.Machine

/-! ### Numbers in bytes, most significant first -/

/-- The low `k` bytes of a number, most significant byte first. -/
def be : Nat → Nat → List Byte
  | 0, _ => []
  | k + 1, n => be k (n / 256) ++ [BitVec.ofNat 8 n]

/-- The number that bytes spell, most significant byte first. -/
def beNat (bs : List Byte) : Nat := bs.foldl (fun acc b => acc * 256 + b.toNat) 0

/-- The field of `len` bytes at an offset. -/
def bytesAt (bs : List Byte) (off len : Nat) : List Byte := (bs.drop off).take len

/-- The number in the field of `len` bytes at an offset. -/
def fieldAt (bs : List Byte) (off len : Nat) : Nat := beNat (bytesAt bs off len)

/-- `k` consecutive pieces of `n` bytes each. -/
def pieces (n k : Nat) (bs : List Byte) : List (List Byte) := (List.range k).map (fun i => bytesAt bs (i * n) n)

/-- The values of all the options, if every one is present. -/
def allSome {α : Type} : List (Option α) → Option (List α)
  | [] => some []
  | none :: _ => none
  | some x :: rest => (allSome rest).map (x :: ·)

/-- A flag as a number. -/
def flagNat (b : Bool) : Nat := if b then 1 else 0

/-! ### The CRC (R192) -/

/-- One bit of the CRC: polynomial x^16 + x^12 + x^5 + 1, most significant bit first. -/
def crcShift (c : Crc) : Crc := if c.msb then (c <<< 1) ^^^ 0x1021#16 else c <<< 1

/-- One byte of the CRC. -/
def crcByte (c : Crc) (b : Byte) : Crc :=
  crcShift (crcShift (crcShift (crcShift (crcShift (crcShift (crcShift (crcShift
    (c ^^^ ((b.zeroExtend 16) <<< 8)))))))))

/-- The CRC of a run of bytes, preset to H'FFFF, with no final inversion. -/
def crc (bs : List Byte) : Crc := bs.foldl crcByte 0xFFFF#16

/-! ### Keys and codes -/

/-- A key in 3 bytes; an absent key is generation 0, publisher 0. -/
def keyBytes : Option Key → List Byte
  | none => be 3 0
  | some k => be 2 k.gen ++ be 1 k.pub

/-- The key at an offset; generation 0 means absent. -/
def keyAt (bs : List Byte) (off : Nat) : Option Key :=
  if fieldAt bs off 2 = 0 then none else some { gen := fieldAt bs off 2, pub := fieldAt bs (off + 2) 1 }

def roleCode : Role → Nat
  | .fixed => 1 | .gateway => 2 | .collector => 3 | .engineer => 4

def roleOf : Nat → Option Role
  | 1 => some .fixed | 2 => some .gateway | 3 => some .collector | 4 => some .engineer
  | _ => none

def roundStateCode : RoundState → Nat
  | .idle => 0 | .opened => 1 | .visited => 2 | .removed => 3 | .reported => 4

def roundStateOf : Nat → Option RoundState
  | 0 => some .idle | 1 => some .opened | 2 => some .visited | 3 => some .removed | 4 => some .reported
  | _ => none

/-- Object codes: TARIFF 0, SECTION s as s + 1 (12.1). -/
def objCode : ImageObj → Nat
  | .tariff => 0
  | .sect s => s + 1

def objOf (n : Nat) : Option ImageObj :=
  if n = 0 then some .tariff else if n ≤ 8 then some (.sect (n - 1)) else none

def classCode : PermitClass → Nat
  | .resident => 1 | .visitor => 2 | .business => 3 | .trade => 4 | .carClub => 5 | .staff => 6

def classOf : Nat → Option PermitClass
  | 1 => some .resident | 2 => some .visitor | 3 => some .business | 4 => some .trade | 5 => some .carClub
  | 6 => some .staff
  | _ => none

def permitStatusCode : PermitStatus → Nat
  | .valid => 1 | .suspended => 2 | .revoked => 3

def permitStatusOf : Nat → Option PermitStatus
  | 1 => some .valid | 2 => some .suspended | 3 => some .revoked
  | _ => none

def faultStateCode : FaultState → Nat
  | .raised => 1 | .acknowledged => 2 | .cleared => 3

def faultStateOf : Nat → Option FaultState
  | 1 => some .raised | 2 => some .acknowledged | 3 => some .cleared
  | _ => none

/-- Day kind codes: MON 1 to SUN 7, HOL 8; 0 is unused (R193). -/
def dayKindCode : Option DayKind → Nat
  | none => 0
  | some .mon => 1 | some .tue => 2 | some .wed => 3 | some .thu => 4 | some .fri => 5 | some .sat => 6
  | some .sun => 7 | some .hol => 8

def dayKindOf : Nat → Option (Option DayKind)
  | 0 => some none
  | 1 => some (some .mon) | 2 => some (some .tue) | 3 => some (some .wed) | 4 => some (some .thu)
  | 5 => some (some .fri) | 6 => some (some .sat) | 7 => some (some .sun) | 8 => some (some .hol)
  | _ => none

/-- Day-part treatments: FREE 0, NO_STAY 1, CHARGED(k) H'10 + k (R193). -/
def treatCode : Treatment → Nat
  | .free => 0 | .noStay => 1 | .charged k => 0x10 + k

def treatOf (n : Nat) : Option Treatment :=
  if n = 0 then some .free else if n = 1 then some .noStay
  else if 0x10 ≤ n then some (.charged (n - 0x10)) else none

def classKindCode : ClassKind → Nat
  | .plain => 0 | .exempt => 1 | .ladder => 2 | .allowance => 3

def classKindOf : Nat → Option ClassKind
  | 0 => some .plain | 1 => some .exempt | 2 => some .ladder | 3 => some .allowance
  | _ => none

/-! ### The permit record (Table 12.5) -/

/-- A list of bytes filled with H'00 to a length. -/
def padTo (n : Nat) (bs : List Byte) : List Byte := bs ++ List.replicate (n - bs.length) 0#8

def permitBytes (r : PermitRec) : List Byte :=
  be 3 r.number ++ be 1 (classCode r.cls * 16 + permitStatusCode r.status)
    ++ padTo 6 (r.zones.flatMap (be 2)) ++ padTo 8 (r.vehicle.getD [])
    ++ be 2 r.validFrom ++ be 2 r.validTo ++ be 2 (r.allowance.getD 0xFFFF)

/-- A list without its last elements that equal `z`. -/
def trimEnd {α : Type} [BEq α] (z : α) : List α → List α
  | [] => []
  | x :: xs =>
    match trimEnd z xs with
    | [] => if x == z then [] else [x]
    | y :: ys => x :: y :: ys

/-- The home zones: used fields first, the unused ones 0. A 0 before a used field stays, and `permitWf` refuses it. -/
def zonesOf (z : List Nat) : List Nat := trimEnd 0 z

/-- The vehicle reference: the bytes up to the H'00 fill; all H'00 is absent. A byte that names no character stays, and
`permitWf` refuses it. -/
def vehicleOf (bs : List Byte) : Option (List Byte) :=
  match trimEnd 0#8 bs with
  | [] => none
  | b :: rest => some (b :: rest)

/-- A permit record read from its 24 bytes; `none` where a code names no value. A byte of the zones or the vehicle that
names no value leaves a record that is not well formed, so that an image holding it is INVALID and a host parameter
BAD_PARAMETER (R193), while a frame holding it passes the header step of R20, which judges codes (R114, R192). -/
def permitOf (bs : List Byte) : Option PermitRec :=
  if bs.length ≠ 24 then none
  else
    match classOf (fieldAt bs 3 1 / 16), permitStatusOf (fieldAt bs 3 1 % 16) with
    | some c, some st =>
      some { number := fieldAt bs 0 3, cls := c, status := st
             zones := zonesOf [fieldAt bs 4 2, fieldAt bs 6 2, fieldAt bs 8 2], vehicle := vehicleOf (bytesAt bs 10 8)
             validFrom := fieldAt bs 18 2, validTo := fieldAt bs 20 2
             allowance := if fieldAt bs 22 2 = 0xFFFF then none else some (fieldAt bs 22 2) }
    | _, _ => none

/-! ### The tariff image (Table 12.6) -/

/-- What closes the set header: the part sizes and two bytes of 0 (Table 12.6). -/
def setHeaderTail : List Byte := [4#8, 8#8, 12#8, 6#8, 16#8, 0#8, 0#8]

def setHeaderBytes (t : TariffSet) : List Byte :=
  keyBytes t.key ++ be 4 t.effectiveFrom ++ be 2 t.reference ++ setHeaderTail

def ladderHeaderBytes (l : Ladder) : List Byte :=
  be 2 (flagNat l.uniform * 32768 + l.uMinutes) ++ be 2 l.uPrice

def bandBytes (b : Band) : List Byte :=
  be 2 (flagNat b.cap * 32768 + b.minutes) ++ be 2 b.price ++ be 1 b.steps

def dayPartBytes (d : DayPart) : List Byte :=
  [d.mask] ++ be 2 d.start ++ be 2 d.stop ++ be 1 (treatCode d.treat)

def classEntryBytes (c : ClassEntry) : List Byte := be 1 (classKindCode c.kind) ++ be 1 c.k

def calEntryBytes (c : CalEntry) : List Byte := be 2 c.day ++ be 1 (dayKindCode c.kind)

/-- The 324-byte image of a tariff set. -/
def tariffImage (t : TariffSet) : List Byte :=
  setHeaderBytes t ++ t.ladders.flatMap ladderHeaderBytes
    ++ t.ladders.flatMap (fun l => l.bands.flatMap bandBytes) ++ t.dayParts.flatMap dayPartBytes
    ++ t.classes.flatMap classEntryBytes ++ t.calendar.flatMap calEntryBytes

/-- A ladder header read from 4 bytes, over given bands. -/
def ladderHeaderOf (bs : List Byte) (bands : List Band) : Ladder :=
  { uniform := 32768 ≤ fieldAt bs 0 2, uMinutes := fieldAt bs 0 2 % 32768, uPrice := fieldAt bs 2 2, bands := bands }

def bandOf (bs : List Byte) : Band :=
  { cap := 32768 ≤ fieldAt bs 0 2, minutes := fieldAt bs 0 2 % 32768, price := fieldAt bs 2 2, steps := fieldAt bs 4 1 }

def dayPartOf (bs : List Byte) : Option DayPart :=
  (treatOf (fieldAt bs 5 1)).map fun t =>
    { mask := BitVec.ofNat 8 (fieldAt bs 0 1), start := fieldAt bs 1 2, stop := fieldAt bs 3 2, treat := t }

def classEntryOf (bs : List Byte) : Option ClassEntry :=
  (classKindOf (fieldAt bs 0 1)).map fun c => { kind := c, k := fieldAt bs 1 1 }

def calEntryOf (bs : List Byte) : Option CalEntry :=
  (dayKindOf (fieldAt bs 2 1)).map fun k => { day := fieldAt bs 0 2, kind := k }

/-- A tariff set read from its image; `none` where an encoding names no value (R67, R193). -/
def tariffOf (bs : List Byte) : Option TariffSet :=
  if bs.length ≠ 324 ∨ bytesAt bs 9 7 ≠ setHeaderTail then none
  else
    match allSome ((pieces 6 12 (bs.drop 192)).map dayPartOf), allSome ((pieces 2 6 (bs.drop 264)).map classEntryOf),
        allSome ((pieces 3 16 (bs.drop 276)).map calEntryOf) with
    | some ds, some cs, some cal =>
      some { key := keyAt bs 0, effectiveFrom := fieldAt bs 3 4, reference := fieldAt bs 7 2
             ladders := (List.range 4).map fun i =>
               ladderHeaderOf (bytesAt bs (16 + 4 * i) 4) ((pieces 5 8 (bs.drop (32 + 40 * i))).map bandOf)
             dayParts := ds, classes := cs, calendar := cal }
    | _, _, _ => none

/-! ### The section image (R193) -/

/-- The image of a section. -/
def sectionImage (s : Nat) (p : PermitSection) : List Byte :=
  be 1 s ++ be 1 (flagNat p.closed) ++ keyBytes p.key ++ be 2 p.records.length ++ [0#8]
    ++ p.records.flatMap permitBytes

/-- A section read from its image: index, key, closed flag and records. -/
def sectionOf (bs : List Byte) : Option (Nat × Option Key × Bool × List PermitRec) :=
  if bs.length ≠ 8 + 24 * fieldAt bs 5 2 ∨ fieldAt bs 7 1 ≠ 0 ∨ 1 < fieldAt bs 1 1 then none
  else
    (allSome ((pieces 24 (fieldAt bs 5 2) (bs.drop 8)).map permitOf)).map fun rs =>
      (fieldAt bs 0 1, keyAt bs 2, fieldAt bs 1 1 = 1, rs)

/-! ### Link frames (Tables 12.1 to 12.4) -/

/-- A fault entry as carried (Table 12.4). A time whose present flag is clear is sent as 0: log entry 74. -/
def faultEntryBytes (e : FaultEntry) : List Byte :=
  be 1 e.owner ++ be 1 (faultCode e.kind) ++ be 1 e.subject
    ++ be 1 (faultStateCode e.state + flagNat e.firstRaised.isSome * 64 + flagNat e.lastRaised.isSome * 128)
    ++ be 4 (e.firstRaised.getD 0) ++ be 4 (e.lastRaised.getD 0) ++ be 1 e.occurrences ++ be 4 e.change

def faultEntryOf (bs : List Byte) : Option FaultEntry :=
  match faultKindOf (fieldAt bs 1 1), faultStateOf (fieldAt bs 3 1 % 4) with
  | some k, some st =>
    some { owner := fieldAt bs 0 1, kind := k, subject := fieldAt bs 2 1, state := st
           firstRaised := if fieldAt bs 3 1 / 64 % 2 = 1 then some (fieldAt bs 4 4) else none
           lastRaised := if fieldAt bs 3 1 / 128 = 1 then some (fieldAt bs 8 4) else none
           occurrences := fieldAt bs 12 1, change := fieldAt bs 13 4 }
  | _, _ => none

/-- The announce body (Table 12.3). -/
def announceBytes (a : AnnounceBody) : List Byte :=
  be 1 (roleCode a.role) ++ be 4 a.zoneSec ++ be 2 a.zoneMs ++ be 1 (a.quality.getD 0xFF)
    ++ be 1 (flagNat a.dormant + 2 * flagNat a.hostAwake + 4 * flagNat a.reports)
    ++ keyBytes a.active ++ keyBytes a.pending ++ be 4 a.pendingEff ++ a.sections.flatMap keyBytes
    ++ be 4 a.faultCtr ++ be 2 a.usageCtr ++ be 2 a.usageDay ++ be 1 a.due ++ be 2 a.round
    ++ be 1 (a.collector.getD 0) ++ be 1 (roundStateCode a.roundState)

/-- The publisher byte of the tariff key at an offset is in 0..32, whatever the generation (R192); R26 judges the section
keys. -/
def publisherOk (b : List Byte) (off : Nat) : Bool := fieldAt b (off + 2) 1 ≤ 32

/-- An announce body read from its 56 bytes; `none` where a byte names no value of its field (R192). -/
def announceOf (b : List Byte) : Option AnnounceBody :=
  if !publisherOk b 9 || !publisherOk b 12 then none
  else
    match roleOf (fieldAt b 0 1), roundStateOf (fieldAt b 55 1) with
    | some r, some rs =>
      some { role := r, zoneSec := fieldAt b 1 4, zoneMs := fieldAt b 5 2
             quality := if fieldAt b 7 1 ≤ 3 then some (fieldAt b 7 1) else none
             dormant := fieldAt b 8 1 % 2 = 1, hostAwake := fieldAt b 8 1 / 2 % 2 = 1
             reports := fieldAt b 8 1 / 4 % 2 = 1
             active := keyAt b 9, pending := keyAt b 12, pendingEff := fieldAt b 15 4
             sections := (List.range 8).map fun i => keyAt b (19 + 3 * i)
             faultCtr := fieldAt b 43 4, usageCtr := fieldAt b 47 2, usageDay := fieldAt b 49 2
             due := fieldAt b 51 1, round := fieldAt b 52 2
             collector := if fieldAt b 54 1 = 0 then none else some (fieldAt b 54 1), roundState := rs }
    | _, _ => none

/-- The body of a frame in bytes (Table 12.2). A removal time whose present flag is clear is sent as 0: log entry 74. -/
def bodyBytes : FrameBody → List Byte
  | .announce a => announceBytes a
  | .request (.image obj key start) => be 1 (objCode obj) ++ keyBytes (some key) ++ be 1 start
  | .request (.faults c) => be 1 9 ++ be 4 c
  | .request .usage => be 1 10
  | .fragment f =>
    be 1 (objCode f.obj) ++ keyBytes (some f.key) ++ be 1 f.index ++ be 1 f.count ++ be 2 f.length
      ++ be 2 f.check.toNat ++ f.data
  | .notHeld obj key | .superseded obj key => be 1 (objCode obj) ++ keyBytes (some key)
  | .amendment s old new change =>
    be 1 s ++ keyBytes (some old) ++ keyBytes (some new)
      ++ (match change with
          | .add r => be 1 1 ++ permitBytes r
          | .replace r => be 1 2 ++ permitBytes r
          | .status n st => be 1 3 ++ be 3 n ++ be 1 (permitStatusCode st)
          | .close => be 1 4)
  | .usage (.series ser part entries) =>
    be 1 1 ++ be 2 ser.start ++ be 2 ser.endPoint ++ be 1 part ++ be 1 ser.parts ++ be 1 entries.length
      ++ entries.flatMap (fun e => be 3 e.1 ++ be 2 e.2)
  | .usage (.single day counter permit minutes) =>
    be 1 2 ++ be 2 day ++ be 2 counter ++ be 1 0 ++ be 1 0 ++ be 1 1 ++ be 3 permit ++ be 2 minutes
  | .faultReport (.series ser part entries) =>
    be 1 1 ++ be 4 ser.start ++ be 4 ser.endPoint ++ be 1 part ++ be 1 ser.parts ++ be 1 entries.length
      ++ entries.flatMap faultEntryBytes
  | .faultReport (.single counter e) =>
    be 1 2 ++ be 4 0 ++ be 4 counter ++ be 1 0 ++ be 1 0 ++ be 1 1 ++ faultEntryBytes e
  | .faultAck k s | .faultClear k s => be 1 (faultCode k) ++ be 1 s
  | .roundOpen n | .roundVisit n | .roundClose n => be 2 n
  | .collectionReport d =>
    be 2 d.firstSeg ++ be 2 d.lastSeg ++ be 2 d.round ++ d.counts.flatMap (be 4) ++ be 4 d.coinTotal
      ++ be 6 d.totalValue ++ be 4 d.firstSeq ++ be 4 d.lastSeq ++ be 4 (d.removal.getD 0)
      ++ be 1 (flagNat d.attended + 2 * flagNat d.mixed + 4 * flagNat d.removal.isSome)
  | .collectionAck f l => be 2 f ++ be 2 l
  | .restart n => be 4 n
  | .page c => be 2 c

/-- A REQUEST body: 5 bytes for an image or FAULTS, 1 byte for USAGE. -/
def requestOf (b : List Byte) : Option FrameBody :=
  if fieldAt b 0 1 = 9 then if b.length = 5 then some (.request (.faults (fieldAt b 1 4))) else none
  else if fieldAt b 0 1 = 10 then if b.length = 1 then some (.request .usage) else none
  else
    match objOf (fieldAt b 0 1), keyAt b 1 with
    | some obj, some key => if b.length = 5 then some (.request (.image obj key (fieldAt b 4 1))) else none
    | _, _ => none

def fragmentOf (b : List Byte) : Option FrameBody :=
  match objOf (fieldAt b 0 1), keyAt b 1 with
  | some obj, some key =>
    if 11 ≤ b.length ∧ b.length ≤ 106 then
      some (.fragment { obj := obj, key := key, index := fieldAt b 4 1, count := fieldAt b 5 1
                        length := fieldAt b 6 2, check := BitVec.ofNat 16 (fieldAt b 8 2), data := b.drop 10 })
    else none
  | _, _ => none

def amendmentOf (b : List Byte) : Option FrameBody :=
  match keyAt b 1, keyAt b 4 with
  | some old, some new =>
    match fieldAt b 7 1 with
    | 1 => if b.length = 32 then (permitOf (b.drop 8)).map fun r => .amendment (fieldAt b 0 1) old new (.add r) else none
    | 2 =>
      if b.length = 32 then (permitOf (b.drop 8)).map fun r => .amendment (fieldAt b 0 1) old new (.replace r) else none
    | 3 =>
      if b.length = 12 then
        (permitStatusOf (fieldAt b 11 1)).map fun st => .amendment (fieldAt b 0 1) old new (.status (fieldAt b 8 3) st)
      else none
    | 4 => if b.length = 8 then some (.amendment (fieldAt b 0 1) old new .close) else none
    | _ => none
  | _, _ => none

def usageOf (b : List Byte) : Option FrameBody :=
  let e := fieldAt b 7 1
  if b.length ≠ 8 + 5 * e ∨ 8 < e then none
  else
    match fieldAt b 0 1 with
    | 1 =>
      some (.usage (.series { start := fieldAt b 1 2, endPoint := fieldAt b 3 2, parts := fieldAt b 6 1 } (fieldAt b 5 1)
        ((pieces 5 e (b.drop 8)).map fun p => (fieldAt p 0 3, fieldAt p 3 2))))
    | 2 =>
      if e = 1 ∧ fieldAt b 5 2 = 0 then
        some (.usage (.single (fieldAt b 1 2) (fieldAt b 3 2) (fieldAt b 8 3) (fieldAt b 11 2)))
      else none
    | _ => none

def faultReportOf (b : List Byte) : Option FrameBody :=
  let e := fieldAt b 11 1
  if b.length ≠ 12 + 17 * e ∨ 4 < e then none
  else
    match fieldAt b 0 1 with
    | 1 =>
      (allSome ((pieces 17 e (b.drop 12)).map faultEntryOf)).map fun es =>
        .faultReport (.series { start := fieldAt b 1 4, endPoint := fieldAt b 5 4, parts := fieldAt b 10 1 }
          (fieldAt b 9 1) es)
    | 2 =>
      if e = 1 ∧ fieldAt b 1 4 = 0 ∧ fieldAt b 9 2 = 0 then
        (faultEntryOf (b.drop 12)).map fun en => .faultReport (.single (fieldAt b 5 4) en)
      else none
    | _ => none

def collectionReportOf (b : List Byte) : FrameBody :=
  .collectionReport
    { firstSeg := fieldAt b 0 2, lastSeg := fieldAt b 2 2, round := fieldAt b 4 2
      counts := (List.range 8).map fun i => fieldAt b (6 + 4 * i) 4
      coinTotal := fieldAt b 38 4, totalValue := fieldAt b 42 6, firstSeq := fieldAt b 48 4, lastSeq := fieldAt b 52 4
      removal := if fieldAt b 60 1 / 4 % 2 = 1 then some (fieldAt b 56 4) else none
      attended := fieldAt b 60 1 % 2 = 1, mixed := fieldAt b 60 1 / 2 % 2 = 1 }

/-- A body of an exact length. -/
def exactly (n : Nat) (b : List Byte) (f : FrameBody) : Option FrameBody := if b.length = n then some f else none

/-- The body of a frame of a given kind code, or `none` where the kind, the length or a code is not one that Section 12
allows. -/
def bodyOf (kind : Nat) (b : List Byte) : Option FrameBody :=
  match kind with
  | 1 => if b.length = 56 then (announceOf b).map .announce else none
  | 2 => requestOf b
  | 3 => fragmentOf b
  | 4 =>
    match objOf (fieldAt b 0 1), keyAt b 1 with
    | some obj, some key => exactly 4 b (.notHeld obj key)
    | _, _ => none
  | 5 =>
    match objOf (fieldAt b 0 1), keyAt b 1 with
    | some obj, some key => exactly 4 b (.superseded obj key)
    | _, _ => none
  | 6 => amendmentOf b
  | 7 => usageOf b
  | 8 => faultReportOf b
  | 9 => (faultKindOf (fieldAt b 0 1)).bind fun k => exactly 2 b (.faultAck k (fieldAt b 1 1))
  | 10 => (faultKindOf (fieldAt b 0 1)).bind fun k => exactly 2 b (.faultClear k (fieldAt b 1 1))
  | 11 => exactly 2 b (.roundOpen (fieldAt b 0 2))
  | 12 => exactly 2 b (.roundVisit (fieldAt b 0 2))
  | 13 => exactly 2 b (.roundClose (fieldAt b 0 2))
  | 14 => exactly 61 b (collectionReportOf b)
  | 15 => exactly 4 b (.collectionAck (fieldAt b 0 2) (fieldAt b 2 2))
  | 16 => exactly 4 b (.restart (fieldAt b 0 4))
  | 17 => exactly 2 b (.page (fieldAt b 0 2))
  | _ => none

/-- The header and body of a frame in bytes, without its check. -/
def frameCore (h : FrameHeader) (body : FrameBody) : List Byte :=
  be 2 h.zone ++ be 1 h.sender ++ be 1 h.dest ++ be 1 (frameCode body) ++ be 1 (bodyBytes body).length ++ bodyBytes body

/-- A frame as it goes onto the line: header, body and frame check, high byte first (Table 12.1). -/
def frameBytes (h : FrameHeader) (body : FrameBody) : List Byte :=
  frameCore h body ++ be 2 (crc (frameCore h body)).toNat

/-- The length of a frame in bytes, header and check included. -/
def frameLength (body : FrameBody) : Nat := 8 + (bodyBytes body).length

/-- The line time of a frame in milliseconds, rounded up: length × 10 / 19,200 s (R15). Log entry 12. -/
def lineMs (length : Nat) : Nat := (length * 25 + 47) / 48

/-- The filters of R20 on the bytes of a complete frame: the step that discards it, or the frame. -/
def filterBytes (zone own : Nat) (bs : List Byte) : Sum FilterStep (FrameHeader × FrameBody) :=
  let n := bs.length - 2
  let h : FrameHeader := { zone := fieldAt bs 0 2, sender := fieldAt bs 2 1, dest := fieldAt bs 3 1 }
  if h.zone ≠ zone then .inl .zone
  else if fieldAt bs n 2 ≠ (crc (bs.take n)).toNat then .inl .check
  else if 8 + fieldAt bs 5 1 ≠ bs.length then .inl .header
  else
    match bodyOf (fieldAt bs 4 1) (bytesAt bs 6 (n - 6)) with
    | none => .inl .header
    | some body =>
      match filterStep zone own h body with
      | some step => .inl step
      | none => .inr (h, body)

/-! ### Host port frames (12.3) -/

/-- The sum of bytes modulo 256. -/
def byteSum (bs : List Byte) : Byte := bs.foldl (· + ·) 0#8

/-- The check byte over some bytes: it makes their sum with it 0 modulo 256 (R194). -/
def checkByte (bs : List Byte) : Byte := 0#8 - byteSum bs

/-- The bytes of a transfer spell a sound WRITE: type H'A5, 4 + P bytes after it with P at most 1,024, check byte right
(R194). -/
def writeSound (bs : List Byte) : Bool :=
  bs.head? == some 0xA5#8 && fieldAt bs 2 2 ≤ 1024 && bs.length == 5 + fieldAt bs 2 2 && byteSum bs.tail == 0#8

/-- The bytes of a transfer begin as a READ does: type H'5A. -/
def isRead (bs : List Byte) : Bool := bs.head? == some 0x5A#8

/-- The number of a status code: its place in Table 11.1. -/
def statusCode : Status → Nat
  | .ok => 0 | .notSetUp => 1 | .alreadySetUp => 2 | .badFrame => 3 | .badParameter => 4 | .roleRefused => 5
  | .clockUnset => 6 | .noTariff => 7 | .noStayNow => 8 | .nothingToSell => 9 | .notEnough => 10 | .noSale => 11
  | .saleOpen => 12 | .cashBlocked => 13 | .boxFull => 14 | .coinsNotAllowed => 15 | .paymentPresent => 16
  | .journalFull => 17 | .allowanceExhausted => 18 | .allowanceUnavailable => 19 | .invalidTariff => 20
  | .sectionClosed => 21 | .sectionFull => 22 | .revokedFinal => 23 | .notFound => 24 | .tableFull => 25
  | .roundNone => 26 | .eventsPending => 27 | .assetTagSet => 28

/-- A response frame: status, code, length, results and check byte (Table 12.7). -/
def responseBytes (status code : Nat) (results : List Byte) : List Byte :=
  let core := be 1 status ++ be 1 code ++ be 2 results.length ++ results
  core ++ [checkByte core]

/-- The no-response frame: status H'FF, code 0, length 0 and its check byte (R194). -/
def noResponseBytes : List Byte := responseBytes 0xFF 0 []

/-- The part code and the revision signature that IDENTIFY returns (R194). -/
def partCode : Nat := 0xD240
def revisionSignature : Nat := 0x0103

end Sys2Proof.Machine
end

