-- ==== Sys2Proof/Machine/Flags.lean ====
section
/-! DEFINITION. The lines and flags that other units or the outside world read and that are computed from the state: pins out,
the sense conditions, the calendar, the station's identity. -/

namespace Sys2Proof.Machine

/-! ### Pins out -/

/-- READY: high while the buffer holds a response that has not been read (R183); low while RESET_N is low (R191). -/
def State.ready (s : State) : Bool := s.port.resetHigh && s.port.buffer.isSome

/-- ATTN: high while the host event queue is not empty (R186); low while RESET_N is low (R191). -/
def State.attn (s : State) : Bool := s.port.resetHigh && !s.port.events.isEmpty

/-- HOSTPWR: asserted while the power state is AWAKE (R176) and while RESET_N is low (R191). -/
def State.hostpwr (s : State) : Bool := !s.port.resetHigh || s.power.state == .awake

/-- LTX is at the idle level while nothing is sent (Table 2.1) and while RESET_N is low (R191). -/
def State.ltxIdle (s : State) : Bool := !s.port.resetHigh || s.link.line.isNone

/-! ### Identity -/

/-- Setup is done (R187). -/
def State.setupDone (s : State) : Bool := s.port.setup.isSome

/-- The own station number: that of the Setup record, or before Setup that of the home, under which the own records
stand (R188); 0 where neither is present. -/
def State.own (s : State) : Nat :=
  match s.port.setup, s.port.home with
  | some r, _ => r.station
  | none, some h => h.2
  | none, none => 0

/-- The own zone number, 0 before Setup. -/
def State.zoneNo (s : State) : Nat := (s.port.setup.map (·.zone)).getD 0

/-- The role given at Setup is this one. -/
def State.isRole (s : State) (r : Role) : Bool := s.port.setup.map (·.role) == some r

/-- The station is a FIXED or a GATEWAY station: it sells and is collected from. -/
def State.isMachine (s : State) : Bool := s.isRole .fixed || s.isRole .gateway

/-- The denomination values in force (R125). -/
def State.denoms (s : State) : List Nat := (s.port.setup.map (·.denoms)).getD []

/-- The box capacity given at Setup (R127). -/
def State.capacity (s : State) : Nat := (s.port.setup.map (·.capacity)).getD 0

/-! ### Zone time and the calendar (0.6, R11, R14) -/

/-- The last millisecond of the range of zone time (R5). -/
def zoneMax : Nat := 4294967295999

/-- Zone time in whole seconds, or unset. -/
def State.zoneSec (s : State) : Option Nat := s.clock.zone.map (· / 1000)

/-- The day number of zone time. -/
def State.today (s : State) : Option Nat := s.clock.zone.map (· / 86400000)

/-- Today is this day. -/
def State.isToday (s : State) (d : Nat) : Bool := s.today == some d

/-- The position within the zone cycle in milliseconds. -/
def cyclePos (zone : Nat) : Nat := zone % 32000

/-- Zone time is set and lies in an exchange period. -/
def State.inExchange (s : State) : Bool :=
  match s.clock.zone with
  | none => false
  | some z => 4000 ≤ cyclePos z

/-- The instant of a mark within the cycle, for a station number (R14). -/
def markPos (own : Nat) : Mark → Nat
  | .endOfExchange | .cycleStart => 0
  | .ownSlot => (own - 1) * 125
  | .exchangeStart => 4000

/-- A mark is due: zone time is at its instant and it has not been given there yet (R14). -/
def State.markDue (s : State) (m : Mark) : Bool :=
  match s.clock.zone with
  | none => false
  | some z => s.setupDone && cyclePos z == markPos s.own m && !s.clock.marksGiven.contains m

/-- A duration that started at a reading of the elapsed-time counter has run (R3). -/
def State.hasRun (s : State) (start duration : Nat) : Bool := start + duration ≤ s.clock.elapsed

/-- A reading of the elapsed-time counter, where there is one, was taken since the start of the current zone cycle or up to
`back` ms before that start. The cycle starts its present position before now, also after a step of zone time; while zone
time is unset there is no cycle (R17, R55). Log entry 48. -/
def State.sinceCycle (s : State) (back : Nat) (reading : Option Nat) : Bool :=
  match reading, s.clock.zone with
  | some t, some z => decide (s.clock.elapsed ≤ t + cyclePos z + back)
  | _, _ => false

/-! ### Values that may leave their field (log entries 17 and 18) -/

/-- A zone time in whole seconds as a time field holds it. -/
def fitTime (n : Nat) : Nat := if n ≤ 4294967295 then n else (Config.zoneTimeBeyondRange n).toNat

/-- A sum as a 32-bit field holds it. -/
def fit32 (n : Nat) : Nat := if n < 2 ^ 32 then n else (Config.sumBeyond32 n).toNat

/-- A sum as a 48-bit field holds it. -/
def fit48 (n : Nat) : Nat := if n < 2 ^ 48 then n else (Config.sumBeyond48 n).toNat

/-! ### Sense conditions as other units read them (R175) -/

/-- A group reads as its active condition: only when settled there. -/
def State.groupActive (s : State) (g : Nat) : Bool := s.sense.groups[g]?.map (·.settled) == some .active

/-- The DOOR group reads open. -/
def State.doorOpen (s : State) : Bool := s.groupActive 0

/-- The BOX group reads absent. -/
def State.boxAbsent (s : State) : Bool := s.groupActive 1

/-- A group is DISABLED or has first settled. -/
def State.groupKnown (s : State) (g : Nat) : Bool := s.sense.groups[g]?.map (·.settled) != some .unsettled

/-! ### The link -/

/-- The medium of the exchange frames can carry one of ours: Setup done, zone time set, not DORMANT (R31), and no restart
in progress (R169). -/
def State.mayTransmit (s : State) : Bool :=
  s.setupDone && s.clock.zone.isSome && s.power.state != .dormant && s.faults.restartBy.isNone

/-- A complete frame reaches the filters: the link is on, and the receiver is on with nothing of ours on the line, or the
receive path is handing over the frame that waited (R18, R19, R20). -/
def State.canReceive (s : State) : Bool :=
  s.setupDone && (s.link.handing || (s.link.receiver && s.link.line.isNone))

/-- An accepted frame finds a place: it is the one handed over, or the waiting place is free (R23). -/
def State.hasPlace (s : State) : Bool := s.link.handing || s.link.waiting.isNone

/-- The peer entry of a station. -/
def State.peer (s : State) (n : Nat) : Option PeerEntry := s.link.peers.find? (·.station == n)

/-- The status of a station's entry is LIVE. -/
def State.live (s : State) (n : Nat) : Bool := (s.peer n).map (·.status) == some .live

end Sys2Proof.Machine
end

