-- ==== Sys2Proof/Machine/Ops.lean ====
section
/-! DEFINITION. The operations that every unit shares: comparing keys, posting a host event, placing a frame in the transmit
queue, starting medium access, keeping sorted lists. -/

namespace Sys2Proof.Machine

/-! ### Keys (R35) -/

/-- Key `a` is higher than key `b`. -/
def Key.higher (a b : Key) : Bool := b.gen < a.gen || (a.gen == b.gen && a.pub < b.pub)

/-- Any key is higher than an absent key. -/
def Key.higherOpt (a : Key) : Option Key → Bool
  | none => true
  | some b => Key.higher a b

/-- The highest of some optional keys. -/
def highestKey : List (Option Key) → Option Key
  | [] => none
  | none :: rest => highestKey rest
  | some k :: rest => if Key.higherOpt k (highestKey rest) then some k else highestKey rest

/-- The generation of an optional key, 0 when absent. -/
def genOf (k : Option Key) : Nat := (k.map (·.gen)).getD 0

/-- The largest number of a list, 0 for the empty list. -/
def maxOf (ns : List Nat) : Nat := ns.foldl max 0

/-! ### Sorted lists of numbers -/

/-- Insert a number in an ascending list without repeats. -/
def insertNat (n : Nat) : List Nat → List Nat
  | [] => [n]
  | x :: xs => if n < x then n :: x :: xs else if n = x then x :: xs else x :: insertNat n xs

/-- Put a peer entry in its place in station-number order, replacing the entry of that station (R27). -/
def insertPeer (e : PeerEntry) : List PeerEntry → List PeerEntry
  | [] => [e]
  | x :: xs =>
    if e.station < x.station then e :: x :: xs
    else if e.station = x.station then e :: xs
    else x :: insertPeer e xs

/-! ### Host events (R186, R178, R181) -/

/-- The name of an event. -/
def eventName : Event → EventName
  | .visit _ _ => .visit
  | .paged _ _ => .paged
  | .collectionTaken _ _ _ _ _ _ _ => .collectionTaken
  | .saleAbandoned _ _ _ _ _ _ => .saleAbandoned
  | .faultChanged _ _ _ _ _ => .faultChanged
  | .tariffReceived _ _ _ _ _ => .tariffReceived
  | .tariffChanged _ _ _ _ _ => .tariffChanged
  | .sectionUpdated _ _ _ _ _ _ _ => .sectionUpdated
  | .roundOpened _ _ => .roundOpened
  | .visitExpired _ => .visitExpired
  | .collectionAcked _ _ _ _ => .collectionAcked
  | .reportReceived _ _ _ _ _ _ => .reportReceived
  | .sheetFull _ _ _ => .sheetFull
  | .senseChanged _ _ _ => .senseChanged
  | .timeAdopted _ _ _ _ _ => .timeAdopted
  | .supplyLow _ => .supplyLow
  | .queueOverrun _ _ => .queueOverrun

/-- The wake class of Table 10.3. A raise is always of an own entry (R167), so the cause RAISE with kind TAMPER is a raise
of the own TAMPER entry. -/
def wakeClass : Event → Bool
  | .visit _ _ | .paged _ _ | .collectionTaken _ _ _ _ _ _ _ | .saleAbandoned _ _ _ _ _ _ => true
  | .faultChanged _ kind _ cause _ => kind == .tamper && cause == .raise
  | _ => false

/-- The host event queue after an event is offered (R186). -/
def offerEvent (e : Event) (time : Option Nat) (q : List EventEntry) : List EventEntry :=
  if q.length < 31 then q ++ [{ event := e, time := time }]
  else if q.length = 31 then q ++ [{ event := .queueOverrun (eventName e) 1, time := time }]
  else
    match q.getLast? with
    | some ⟨.queueOverrun name count, t⟩ =>
      q.dropLast ++ [{ event := .queueOverrun name (if count < 65535 then count + 1 else count), time := t }]
    | _ => q

/-- What a wake-class event does to the power unit: it wakes a LISTENING station whose dormant entry due flag is clear,
and the first one offered while DORMANT is recorded (R178, R181). -/
def wakeByEvent (name : EventName) (p : Power) : Power :=
  match p.state with
  | .awake => p
  | .listening => if p.dormantDue then p else { p with state := .awake, wakeCause := .event name }
  | .dormant => { p with recorded := p.recorded.or (some name) }

/-- A unit offers an event to the host event queue, and the power unit judges its class as offered. -/
def postEvent (e : Event) (s : State) : State :=
  { s with
    port := { s.port with events := offerEvent e s.zoneSec s.port.events }
    power := if wakeClass e then wakeByEvent (eventName e) s.power else s.power }

/-! ### The transmit queue and medium access (R31, R32) -/

/-- The transmit queue takes a frame: not when it holds 8, not in DORMANT. -/
def State.canPlace (s : State) : Bool := s.link.tx.length < 8 && s.power.state != .dormant

/-- A unit places a frame at the tail of the transmit queue; where `canPlace` fails the placement is refused and nothing
changes. -/
def place (placer : Placer) (dest : Nat) (body : FrameBody) (s : State) : State :=
  if s.canPlace then
    { s with link := { s.link with
        tx := s.link.tx ++ [{ dest := dest, body := body, attempt := 0, placer := placer }] } }
  else s

/-- Medium access waits for the medium: it has not begun, or the head frame waits for an idle line. -/
def Access.waits (a : Access) : Bool := a == .off || a == .waitIdle

/-- Medium access for the head frame in an exchange period, with nothing on the line and transmission allowed: the
backoff wait starts when the medium is idle or becomes idle (R31, R32). -/
def startAccess (s : State) : State :=
  if s.inExchange && s.mayTransmit && s.link.line.isNone && !s.link.tx.isEmpty && s.link.access.waits then
    { s with link := { s.link with
        access := if s.link.lcd then .waitIdle else .backoff s.clock.elapsed } }
  else s

/-- The attempt number of the head frame becomes `a`. -/
def headAttempt (a : Nat) : List TxFrame → List TxFrame
  | [] => []
  | f :: rest => { f with attempt := a } :: rest

/-- The backoff wait for a station and an attempt number in milliseconds (R32). -/
def backoffMs (own a : Nat) : Nat := ((own + a) % 8 + 1) * 20

/-- A transmission starts: a frame in collection is discarded and the receive path returns to idle (R18). -/
def startTransmission (line : OnLine) (s : State) : State :=
  { s with link := { s.link with
      line := some line
      path := (match s.link.path with
        | .collecting _ _ _ => .idle
        | p => p) } }

/-- The receive path takes up the channel, waiting for quiet while LCD is high (R18, R19). Log entries 5 and 13. -/
def takeUpChannel (s : State) : State :=
  { s with link := { s.link with
      path := if s.link.lcd then .waitQuiet s.clock.elapsed else .idle } }

/-! ### Own counters and LISTENING (R17) -/

/-- The own fault change counter or the own usage counter changes now. -/
def noteCounterChange (s : State) : State := { s with link := { s.link with changedAt := some s.clock.elapsed } }

/-- An own counter has changed, where it has. -/
def noteIf (p : Prop) [Decidable p] (s : State) : State := if p then noteCounterChange s else s

end Sys2Proof.Machine
end

