-- ==== Sys2Proof/Machine/FaultOps.lean ====
section
/-! DEFINITION. The operations on the fault table: raising, acknowledging and clearing own entries, making room, applying and
discarding copies, and the judgments of an observer (Section 9). -/

namespace Sys2Proof.Machine

/-! ### The table -/

/-- The entry stands under this key. -/
def isFaultKey (owner : Nat) (kind : FaultKind) (subject : Nat) (e : FaultEntry) : Bool :=
  e.owner == owner && e.kind == kind && e.subject == subject

/-- Two entries have one key. -/
def sameFault (a b : FaultEntry) : Bool := isFaultKey a.owner a.kind a.subject b

/-- One key stands before another: by owner, then by kind code, then by subject (R168). -/
def keyBefore (o1 k1 s1 o2 k2 s2 : Nat) : Bool :=
  o1 < o2 || (o1 == o2 && (k1 < k2 || (k1 == k2 && s1 < s2)))

/-- One entry stands before another in the table. -/
def faultBefore (a b : FaultEntry) : Bool :=
  keyBefore a.owner (faultCode a.kind) a.subject b.owner (faultCode b.kind) b.subject

/-- The entry under a key. -/
def findFault (owner : Nat) (kind : FaultKind) (subject : Nat) (t : List FaultEntry) : Option FaultEntry :=
  t.find? (isFaultKey owner kind subject)

/-- Put an entry in its place, replacing the entry of its key. -/
def insertFault (e : FaultEntry) : List FaultEntry → List FaultEntry
  | [] => [e]
  | x :: xs =>
    if faultBefore e x then e :: x :: xs
    else if sameFault e x then e :: xs
    else x :: insertFault e xs

/-- Take the entry of a key out. -/
def removeFault (e : FaultEntry) (t : List FaultEntry) : List FaultEntry := t.filter (fun x => !sameFault e x)

/-- The own entry of a kind and subject. -/
def State.ownFault (s : State) (kind : FaultKind) (subject : Nat) : Option FaultEntry :=
  findFault s.own kind subject s.faults.table

/-- The own entry of a kind is RAISED or ACKNOWLEDGED. -/
def State.faultStands (s : State) (kind : FaultKind) (subject : Nat) : Bool :=
  match s.ownFault kind subject with
  | some e => e.state != .cleared
  | none => false

/-! ### Making room (R166) -/

/-- One entry is evicted before another: older last-raised, an absent one oldest; then owner, kind, subject. -/
def evictBefore (a b : FaultEntry) : Bool :=
  match a.lastRaised, b.lastRaised with
  | none, some _ => true
  | some _, none => false
  | none, none => faultBefore a b
  | some x, some y => x < y || (x == y && faultBefore a b)

/-- The entry of a list to evict first. -/
def firstEvicted : List FaultEntry → Option FaultEntry
  | [] => none
  | e :: rest =>
    match firstEvicted rest with
    | none => some e
    | some f => if evictBefore e f then some e else some f

/-- The entry that a full table displaces, by the steps of R166; step 4 is for an own raise only. -/
def evictee (own : Nat) (ownRaise : Bool) (t : List FaultEntry) : Option FaultEntry :=
  (firstEvicted (t.filter fun e => e.owner != own && e.state == .cleared)).or
    ((firstEvicted (t.filter fun e => e.owner == own && e.state == .cleared)).or
      ((firstEvicted (t.filter fun e => e.owner != own && e.state == .acknowledged)).or
        (if ownRaise then firstEvicted (t.filter fun e => e.owner != own && e.state == .raised) else none)))

/-! ### Events (R167) -/

/-- What FAULT_CHANGED gives of an entry after its change. -/
def faultFigures (e : FaultEntry) : FaultFigures :=
  { state := e.state, occurrences := e.occurrences, lastRaised := e.lastRaised, change := e.change }

/-- FAULT_CHANGED is posted for every change on GATEWAY and ENGINEER stations, and on the others for own entries only. -/
def postFault (e : FaultEntry) (cause : FaultCause) (after : Option FaultEntry) (s : State) : State :=
  if s.isRole .gateway || s.isRole .engineer || e.owner == s.own then
    postEvent (.faultChanged e.owner e.kind e.subject cause (after.map faultFigures)) s
  else s

/-- Remove the displaced entry and post its event. -/
def evict (e : FaultEntry) (s : State) : State :=
  postFault e .evict none { s with faults := { s.faults with table := removeFault e s.faults.table } }

/-- Room for one more entry: none where the table is full and no step of R166 finds a candidate. -/
def makeRoom (ownRaise : Bool) (s : State) : Option State :=
  if s.faults.table.length < 64 then some s
  else (evictee s.own ownRaise s.faults.table).map (fun e => evict e s)

/-! ### Own changes (R157) -/

/-- The own fault change counter after one more change. -/
def nextChange (counter : Nat) : Nat := min (counter + 1) 4294967295

/-- An own entry changes: it is stamped with the raised counter, written, reported to the zone and posted. A counter at its
end does not change (R17, R157). -/
def changeOwn (e : FaultEntry) (cause : FaultCause) (s : State) : State :=
  let n := nextChange s.faults.counter
  let e' := { e with change := n }
  let s1 := noteIf (n ≠ s.faults.counter)
    { s with faults := { s.faults with table := insertFault e' s.faults.table, counter := n } }
  postFault e' cause (some e') (place .other 0 (.faultReport (.single n e')) s1)

/-- A new or cleared own entry made RAISED at the present zone time. -/
def freshFault (kind : FaultKind) (subject : Nat) (s : State) : FaultEntry :=
  { owner := s.own, kind := kind, subject := subject, state := .raised, firstRaised := s.zoneSec
    lastRaised := s.zoneSec, occurrences := 1, change := 0 }

/-- An own raise (R158); `none` where no room can be made. -/
def tryRaise (kind : FaultKind) (subject : Nat) (s : State) : Option State :=
  match s.ownFault kind subject with
  | none => (makeRoom true s).map (changeOwn (freshFault kind subject s) .raise)
  | some e =>
    match e.state with
    | .cleared => some (changeOwn (freshFault kind subject s) .raise s)
    | .raised | .acknowledged =>
      some (changeOwn { e with occurrences := min (e.occurrences + 1) 255, lastRaised := s.zoneSec } .raise s)

/-- An own raise from a unit of the station: lost where no room can be made (R158). -/
def raiseFault (kind : FaultKind) (subject : Nat) (s : State) : State := (tryRaise kind subject s).getD s

/-- A clear reaching an own entry (R161, R162). -/
def clearFault (kind : FaultKind) (subject : Nat) (s : State) : State :=
  match s.ownFault kind subject with
  | some e => if e.state == .cleared then s else changeOwn { e with state := .cleared } .clear s
  | none => s

/-- An acknowledgement reaching an own entry (R160). -/
def ackFault (kind : FaultKind) (subject : Nat) (s : State) : State :=
  match s.ownFault kind subject with
  | some e => if e.state == .raised then changeOwn { e with state := .acknowledged } .ack s else s
  | none => s

/-! ### Copies (R165) -/

/-- A carried entry is applied to the table of copies. -/
def applyCopy (sender : Nat) (e : FaultEntry) (s : State) : State :=
  if e.owner ≠ sender then s
  else
    match findFault e.owner e.kind e.subject s.faults.table with
    | some held =>
      if held.change < e.change then
        postFault e .copy (some e) { s with faults := { s.faults with table := insertFault e s.faults.table } }
      else s
    | none =>
      match makeRoom false s with
      | none => s
      | some s1 =>
        postFault e .copy (some e) { s1 with faults := { s1.faults with table := insertFault e s1.faults.table } }

/-- Every copy of an owner is removed, one event for each in the order of the table (R55, R165). Log entry 60. -/
def dropCopies (owner : Nat) (s : State) : State :=
  (s.faults.table.filter (·.owner == owner)).foldl (fun t e => postFault e .discard none t)
    { s with faults := { s.faults with table := s.faults.table.filter (·.owner != owner) } }

/-! ### Observers (R163, R164) -/

/-- No station with a lower number than the own, other than the subject, is LIVE in the own table. -/
def noLowerLive (own subject : Nat) (peers : List PeerEntry) : Bool :=
  peers.all fun p => !(p.station < own && p.station != subject && p.status == .live)

/-- The subjects of which the own station is the observer (R163). -/
def observedNow (s : State) : List Nat :=
  (s.link.peers.map (·.station)).filter fun n => noLowerLive s.own n s.link.peers

/-- The own station is the observer of a subject (R163). -/
def State.observes (s : State) (subject : Nat) : Bool := (observedNow s).contains subject

/-- The fault kind that matches a peer's status, if it has one (R164). -/
def matchingKind : PeerStatus → Option FaultKind
  | .silent => some .stationSilent
  | .dormant => some .stationDormant
  | .live => none

/-- Raise the matching kind for a peer unless the own entry already stands. -/
def raiseMatching (p : PeerEntry) (s : State) : State :=
  match matchingKind p.status with
  | none => s
  | some k => if s.faultStands k p.station then s else raiseFault k p.station s

/-- The last clause of R164: the peers that the notice has made the own station observer of, in station-number order. Log
entry 59. -/
def observeNewly (s : State) : State :=
  let now := observedNow s
  let fresh := s.link.peers.filter fun p => now.contains p.station && !s.faults.observed.contains p.station
  let s1 := fresh.foldl (fun t p => raiseMatching p t) s
  { s1 with faults := { s1.faults with observed := now } }

/-- A status notice (R28, R164). -/
def faultStatusNotice (subject : Nat) (status : PeerStatus) (s : State) : State :=
  observeNewly
    (if status == .silent && s.observes subject then raiseFault .stationSilent subject s else s)

/-- An announce notice (R26, R164). With the dormant flag clear, STATION_SILENT is cleared before STATION_DORMANT: log entry
71. -/
def faultAnnounceNotice (sender : Nat) (dormant : Bool) (s : State) : State :=
  observeNewly
    (if dormant then
      if s.observes sender && !s.faultStands .stationDormant sender then raiseFault .stationDormant sender s else s
    else clearFault .stationDormant sender (clearFault .stationSilent sender s))

end Sys2Proof.Machine
end

