-- ==== Sys2Proof/Machine/CashOps.lean ====
section
/-! DEFINITION. The operations of the cash unit: the tally, the journal ring, segments and their protection, the figures derived
from them (Section 7). -/

namespace Sys2Proof.Machine

/-! ### Protection and figures (R130, R132, R135) -/

/-- A sequence lies in a protected span. -/
def inSpan (q : Nat) (sp : Span) : Bool := sp.firstSeq ≤ q && q ≤ sp.lastSeq

/-- A journal sequence is protected: it lies in the open segment or in a protected span (R130). -/
def isProtected (c : Cash) (q : Nat) : Bool :=
  (match c.openSeg with
    | some o => o.firstSeq ≤ q && q < o.firstSeq + o.count
    | none => false)
    || c.spans.any (inSpan q)

/-- The journal is full (R132): every sequence is assigned, or the record to be replaced is protected. -/
def journalFull (c : Cash) : Bool :=
  c.nextSeq == 4294967296 || (2048 < c.nextSeq && isProtected c (c.nextSeq - 2048))

/-- The number of protected records (R135). -/
def protectedCount (c : Cash) : Nat :=
  ((c.openSeg.map (·.count)).getD 0) + (c.spans.map fun sp => sp.lastSeq - sp.firstSeq + 1).sum

/-- The journal fill (R135). -/
def journalFill (c : Cash) : Nat := if journalFull c then 100 else protectedCount c * 100 / 2048

/-- The box fill (R127). -/
def boxFill (c : Cash) (capacity : Nat) : Nat := min 100 (c.coinTotal * 100 / capacity)

/-- The due figure (R135). -/
def State.dueFigure (s : State) : Nat :=
  if s.isMachine then max (boxFill s.cash s.capacity) (journalFill s.cash) else 0

/-- The oldest held sequence, absent when no record is held (R128). -/
def oldestSeq (c : Cash) : Option Nat := if c.nextSeq ≤ 1 then none else some (max 1 (c.nextSeq - 2048))

/-- The held record of a sequence. -/
def findRecord (c : Cash) (q : Nat) : Option JournalRec := c.journal.find? (·.seq == q)

/-! ### BOX_FULL and JOURNAL_FULL -/

/-- Raise BOX_FULL where a condition of R127 holds; on FIXED and GATEWAY stations only. -/
def raiseBoxFull (now : Bool) (s : State) : State :=
  if now && s.isMachine then raiseFault .boxFull 0 s else s

/-- BOX_FULL clears when the coin total has fallen below the capacity (R127). -/
def clearBoxFull (s : State) : State := if s.cash.coinTotal < s.capacity then clearFault .boxFull 0 s else s

/-- Each refused offer raises JOURNAL_FULL (R132). -/
def raiseJournalFull (s : State) : State := if s.isMachine then raiseFault .journalFull 0 s else s

/-- JOURNAL_FULL clears when the journal has stopped being full (R132). -/
def clearJournalFull (s : State) : State := if journalFull s.cash then s else clearFault .journalFull 0 s

/-! ### A commit (R131) -/

/-- The number of the next segment: 1 after 65,535 (R130). -/
def nextSegment (last : Nat) : Nat := if last = 65535 then 1 else last + 1

/-- Counts added index by index. -/
def addCounts (a b : List Nat) : List Nat := List.zipWith (· + ·) a b

/-- The value of some coins at denomination values. -/
def coinValue (values counts : List Nat) : Nat := (List.zipWith (· * ·) values counts).sum

/-- The open segment that a commit finds or opens, counting the commit. -/
def segmentAfter (c : Cash) : OpenSeg :=
  match c.openSeg with
  | some o => { o with count := o.count + 1 }
  | none => { number := nextSegment c.lastSeg, firstSeq := c.nextSeq, count := 1 }

/-- The ring after a record is placed: at most 2,048 records, the oldest overwritten (R128). Log entry 25. -/
def placeRecord (r : JournalRec) (j : List JournalRec) : List JournalRec := (j ++ [r]).drop (j.length + 1 - 2048)

/-- The one record write of a commit: the journal place and the cash position together (R131). The last segment number is the
one given to the most recent segment, the open one (Table 7.2). -/
def writeCommit (r : JournalRec) (escrow denoms : List Nat) (c : Cash) : Cash :=
  { c with
    journal := placeRecord { r with seq := c.nextSeq, segment := (segmentAfter c).number } c.journal
    nextSeq := c.nextSeq + 1
    openSeg := some (segmentAfter c)
    lastSeg := (segmentAfter c).number
    values := if c.openSeg.isSome then c.values else some denoms
    counts := addCounts c.counts escrow
    coinTotal := c.coinTotal + escrow.sum
    totalValue := c.totalValue + coinValue denoms escrow }

/-- A taken offer: the write, then BOX_FULL where the commit brings the coin total to the capacity (R127, R131). -/
def takeOffer (r : JournalRec) (escrow : List Nat) (s : State) : State :=
  let s1 := { s with cash := writeCommit r escrow s.denoms s.cash }
  raiseBoxFull (s.cash.coinTotal < s.capacity && s.capacity ≤ s1.cash.coinTotal) s1

/-! ### A snapshot and a release (R133, R134) -/

/-- What a snapshot gives the round unit; the segment is its number, first and last sequence. -/
structure SnapData where
  counts : List Nat
  coinTotal : Nat
  totalValue : Nat
  mixed : Bool
  segment : Option (Nat × Nat × Nat)
  deriving DecidableEq, Repr

/-- The snapshot of the cash unit as it stands. -/
def snapData (c : Cash) : SnapData :=
  { counts := c.counts, coinTotal := c.coinTotal, totalValue := c.totalValue, mixed := c.mixed
    segment := c.openSeg.map fun o => (o.number, o.firstSeq, c.nextSeq - 1) }

/-- The newest span extended to a closed segment. -/
def extendLast (seg last : Nat) : List Span → List Span
  | [] => []
  | [sp] => [{ sp with lastSeg := seg, lastSeq := last }]
  | sp :: rest => sp :: extendLast seg last rest

/-- The spans after a snapshot of a form with a segment open. -/
def spansAfter (form : SnapForm) (seg first last : Nat) (spans : List Span) : List Span :=
  match form with
  | .newSpan => spans ++ [{ firstSeg := seg, lastSeg := seg, firstSeq := first, lastSeq := last }]
  | .extend => extendLast seg last spans

/-- The cash unit's part of the record write of a snapshot (R133). -/
def writeSnapshot (form : SnapForm) (c : Cash) : Cash :=
  let base := { c with counts := zeroCounts, coinTotal := 0, totalValue := 0, mixed := false, openSeg := none }
  match (snapData c).segment with
  | none => base
  | some (seg, first, last) => { base with lastSeg := seg, spans := spansAfter form seg first last c.spans }

/-- A release removes the span of the named segments (R134). -/
def releaseSpan (first last : Nat) (c : Cash) : Cash :=
  { c with spans := c.spans.filter fun sp => !(sp.firstSeg == first && sp.lastSeg == last) }

/-! ### Setup (R125, R127) -/

/-- The cash unit takes the completion of Setup: the mixed denominations flag, then BOX_FULL. -/
def cashSetup (s : State) : State :=
  let s1 :=
    match s.cash.openSeg, s.cash.values with
    | some _, some vs => if vs == s.denoms then s else { s with cash := { s.cash with mixed := true } }
    | _, _ => s
  raiseBoxFull (s1.capacity ≤ s1.cash.coinTotal) s1

end Sys2Proof.Machine
end

