-- ==== Sys2Proof/Machine/Ladder.lean ====
section
/-! DEFINITION. What a tariff set says: the figures of its ladders, the kind of a day, the treatment of a minute, and the checks
a set must pass (4.2 to 4.4). -/

namespace Sys2Proof.Machine

/-! ### Ladders (R60 to R62) -/

/-- A blank ladder: its band 0 is blank (R59). -/
def ladderBlank (l : Ladder) : Bool :=
  match l.bands with
  | [] => true
  | b :: _ => b.steps == 0

/-- The lowest-numbered band with its cap flag set, if any. -/
def capBand (l : Ladder) : Option Nat := (l.bands.take 8).findIdx? (·.cap)

/-- The last band: the capped one, or band 7. -/
def lastBand (l : Ladder) : Nat := (capBand l).getD 7

/-- The minutes that a step of a band buys: the uniform ones where the uniform flag is set (R61). -/
def stepMinutes (l : Ladder) (b : Band) : Nat := if l.uniform then l.uMinutes else b.minutes

/-- The price of a step of a band. -/
def stepPrice (l : Ladder) (b : Band) : Nat := if l.uniform then l.uPrice else b.price

/-- The steps before band `r`. -/
def baseSteps (l : Ladder) (r : Nat) : Nat := ((l.bands.take r).map (·.steps)).sum

/-- The base time of band `r`. -/
def baseTime (l : Ladder) (r : Nat) : Nat := ((l.bands.take r).map fun b => b.steps * stepMinutes l b).sum

/-- The base price of band `r`. -/
def basePrice (l : Ladder) (r : Nat) : Nat := ((l.bands.take r).map fun b => b.steps * stepPrice l b).sum

/-- The length of a ladder; `none` is unbounded (R62). -/
def ladderLength (l : Ladder) : Option Nat := (capBand l).map fun r => baseSteps l (r + 1)

/-- The cap minutes of a ladder; `none` adds no bound (R62). -/
def capMinutes (l : Ladder) : Option Nat := (capBand l).map fun r => baseTime l (r + 1)

/-- The band in which step `j`, counted from 1, falls: the first whose steps reach it, or the last band. -/
def stepBand (l : Ladder) (j : Nat) : Nat :=
  ((List.range (lastBand l)).find? fun r => decide (j ≤ baseSteps l (r + 1))).getD (lastBand l)

/-- A blank band, read where a ladder lists fewer than 8. -/
def blankBand : Band := { cap := false, minutes := 0, price := 0, steps := 0 }

/-- Band `r` of a ladder. -/
def bandAt (l : Ladder) (r : Nat) : Band := l.bands[r]?.getD blankBand

/-- The minutes that step `j` buys. -/
def minutesOfStep (l : Ladder) (j : Nat) : Nat := stepMinutes l (bandAt l (stepBand l j))

/-- What the first `s` steps cost. -/
def priceOf (l : Ladder) (s : Nat) : Nat :=
  if s = 0 then 0
  else
    let r := stepBand l s
    basePrice l r + stepPrice l (bandAt l r) * (s - baseSteps l r)

/-- The minutes that the first `s` steps buy. -/
def minutesOf (l : Ladder) (s : Nat) : Nat :=
  if s = 0 then 0
  else
    let r := stepBand l s
    baseTime l r + stepMinutes l (bandAt l r) * (s - baseSteps l r)

/-- A number of steps lies within the ladder's length. -/
def withinLength (l : Ladder) (s : Nat) : Bool :=
  match ladderLength l with
  | none => true
  | some n => s ≤ n

/-- The figures READ_TARIFF gives with a ladder header (R75). -/
def ladderFigures (l : Ladder) : LadderFigures :=
  if ladderBlank l then { blank := true, lastBand := lastBand l, length := none, capMinutes := none }
  else { blank := false, lastBand := lastBand l, length := ladderLength l, capMinutes := capMinutes l }

/-- A blank ladder, read where a set lists fewer than four. -/
def blankLadder : Ladder := { uniform := false, uMinutes := 0, uPrice := 0, bands := List.replicate 8 blankBand }

/-- Ladder `k` of a set. -/
def ladderAt (t : TariffSet) (k : Nat) : Ladder := t.ladders[k]?.getD blankLadder

/-! ### Days and minutes (R63, R64) -/

/-- The bit of a day kind in a mask. -/
def kindBit : DayKind → Nat
  | .mon => 0 | .tue => 1 | .wed => 2 | .thu => 3 | .fri => 4 | .sat => 5 | .sun => 6 | .hol => 7

/-- A mask contains a day kind. -/
def maskHas (mask : Byte) (k : DayKind) : Bool := mask.getLsbD (kindBit k)

/-- The weekday of a day number (Table 0.5). -/
def weekday (d : Nat) : DayKind :=
  match d % 7 with
  | 0 => .sat
  | 1 => .sun
  | 2 => .mon
  | 3 => .tue
  | 4 => .wed
  | 5 => .thu
  | _ => .fri

/-- The day kind of a day: the calendar's, else the weekday. -/
def dayKind (t : TariffSet) (d : Nat) : DayKind :=
  ((t.calendar.find? fun c => c.kind.isSome && c.day == d).bind (·.kind)).getD (weekday d)

/-- The treatment of minute `m` of a day of kind `k`. -/
def treatmentOf (t : TariffSet) (k : DayKind) (m : Nat) : Treatment :=
  ((t.dayParts.find? fun p => maskHas p.mask k && p.start ≤ m && m < p.stop).map (·.treat)).getD .free

/-- The treatment of a minute counted from the epoch. -/
def treatmentAt (t : TariffSet) (minute : Nat) : Treatment :=
  treatmentOf t (dayKind t (minute / 1440)) (minute % 1440)

/-- The entry of the class table for a permit class (R65). -/
def classEntry (t : TariffSet) (c : PermitClass) : ClassEntry :=
  t.classes[classCode c - 1]?.getD { kind := .plain, k := 0 }

/-! ### Checks on a set (R66, Table 4.4) -/

/-- The ladder part of an index. -/
def ladderPart : Nat → TariffPart
  | 0 => .ladder0
  | 1 => .ladder1
  | 2 => .ladder2
  | _ => .ladder3

/-- The number of a ladder part. -/
def ladderIndex : TariffPart → Option Nat
  | .ladder0 => some 0
  | .ladder1 => some 1
  | .ladder2 => some 2
  | .ladder3 => some 3
  | _ => none

/-- The size of a part (Table 4.6). -/
def partSize : TariffPart → Nat
  | .header => 5
  | .ladder0 | .ladder1 | .ladder2 | .ladder3 => 8
  | .dayParts => 12
  | .classes => 6
  | .calendar => 16

/-- The first index of a list whose entry fails. -/
def firstBad {α : Type} (bad : α → Bool) (xs : List α) : Option Nat := xs.findIdx? bad

/-- A value lies in 1..240. -/
def minutesOk (m : Nat) : Bool := 1 ≤ m && m ≤ 240

/-- Check 1 on a ladder. -/
def headerBad (l : Ladder) : Bool := !ladderBlank l && l.uniform && !minutesOk l.uMinutes

/-- Check 2 on a band of a ladder. -/
def bandBad (uniform : Bool) (b : Band) : Bool :=
  !(1 ≤ b.steps && b.steps ≤ 255) || (!uniform && !minutesOk b.minutes)

/-- Check 2 on a ladder: the first failing band up to the last band. -/
def ladderBandBad (l : Ladder) : Option Nat :=
  if ladderBlank l then none else firstBad (bandBad l.uniform) (l.bands.take (lastBand l + 1))

/-- The first ladder with a failing band, and the band. -/
def bandsBad : Nat → List Ladder → Option (Nat × Nat)
  | _, [] => none
  | i, l :: rest =>
    match ladderBandBad l with
    | some r => some (i, r)
    | none => bandsBad (i + 1) rest

/-- A day-part is used: its mask is not empty (R59). -/
def partUsed (p : DayPart) : Bool := p.mask != 0#8

/-- Check 3 on a day-part. -/
def dayPartBad (p : DayPart) : Bool :=
  partUsed p
    && (1439 < p.start || p.stop < 1 || 1440 < p.stop || p.stop ≤ p.start
      || (match p.treat with
          | .charged k => 3 < k
          | _ => false))

/-- A class entry takes a ladder: LADDER(k) or ALLOWANCE(k). -/
def takesLadder (c : ClassEntry) : Bool := c.kind == .ladder || c.kind == .allowance

/-- Check 4 on a class entry. -/
def classBad (c : ClassEntry) : Bool := takesLadder c && 3 < c.k

/-- Check 5 on a day-part. -/
def partRefBad (t : TariffSet) (p : DayPart) : Bool :=
  partUsed p
    && (match p.treat with
        | .charged k => ladderBlank (ladderAt t k)
        | _ => false)

/-- Check 5 on a class entry. -/
def classRefBad (t : TariffSet) (c : ClassEntry) : Bool := takesLadder c && ladderBlank (ladderAt t c.k)

/-- Check 6 on two day-parts. -/
def overlap (p q : DayPart) : Bool :=
  partUsed p && partUsed q && (p.mask &&& q.mask) != 0#8 && p.start < q.stop && q.start < p.stop

/-- Check 7 on two calendar entries. -/
def sameDate (a b : CalEntry) : Bool := a.kind.isSome && b.kind.isSome && a.day == b.day

/-- The first entry that clashes with an earlier one. -/
def clash {α : Type} (bad : α → α → Bool) (seen : List α) : List α → Option Nat
  | [] => none
  | x :: rest => if seen.any (fun y => bad y x) then some seen.length else clash bad (seen ++ [x]) rest

/-- The validation of R66: the first failing check with its part and entry index. Log entry 28. -/
def validate (t : TariffSet) : Option (TariffCheck × TariffPart × Nat) :=
  ((firstBad headerBad t.ladders).map fun i => (.ladderHeader, .header, i + 1)).or
    (((bandsBad 0 t.ladders).map fun r => (.bandRange, ladderPart r.1, r.2)).or
      (((firstBad dayPartBad t.dayParts).map fun i => (.daypartRange, .dayParts, i)).or
        (((firstBad classBad t.classes).map fun i => (.classLadder, .classes, i)).or
          (((firstBad (partRefBad t) t.dayParts).map fun i => (.ladderReference, .dayParts, i)).or
            (((firstBad (classRefBad t) t.classes).map fun i => (.ladderReference, .classes, i)).or
              (((clash overlap [] t.dayParts).map fun i => (.daypartOverlap, .dayParts, i)).or
                ((clash sameDate [] t.calendar).map fun i => (.calendarDate, .calendar, i))))))))

end Sys2Proof.Machine
end

