-- ==== Sys2Proof/Machine/PermitOps.lean ====
section
/-! DEFINITION. The operations of the permit store on its own state: sections and their state, permit checks, changes to a
section, and the usage table (Section 6). -/

namespace Sys2Proof.Machine

/-! ### Sections (R107, R108) -/

/-- Section `i`. -/
def State.sectionAt (s : State) (i : Nat) : PermitSection := s.permits.sections[i]?.getD PermitSection.never

/-- The held key of section `i`. -/
def State.sectionKey (s : State) (i : Nat) : Option Key := (s.sectionAt i).key

/-- Section `i` becomes `p`. -/
def setSection (i : Nat) (p : PermitSection) (s : State) : State :=
  { s with permits := { s.permits with sections := s.permits.sections.set i p } }

/-- The record of a permit number. -/
def findPermit (n : Nat) (rs : List PermitRec) : Option PermitRec := rs.find? (·.number == n)

/-- Put a record in its place in number order, replacing the record of that number. -/
def insertPermit (r : PermitRec) : List PermitRec → List PermitRec
  | [] => [r]
  | x :: xs =>
    if r.number < x.number then r :: x :: xs
    else if r.number = x.number then r :: xs
    else x :: insertPermit r xs

/-- The key a peer advertises for section `i`. -/
def peerSection (i : Nat) (p : PeerEntry) : Option Key := (p.sections[i]?).join

/-- Section `i` is behind: never received, or some peer entry advertises a higher key (R108). -/
def State.isBehind (s : State) (i : Nat) : Bool :=
  match s.sectionKey i with
  | none => true
  | some k =>
    s.link.peers.any fun p =>
      match peerSection i p with
      | some a => Key.higher a k
      | none => false

/-- Some section is behind, by its kept behind-since time. -/
def State.someBehind (s : State) : Bool := s.permits.sections.any (·.behindSince.isSome)

/-- PERMIT_STALE clears when no section is behind (R109). -/
def clearStale (s : State) : State := if s.someBehind then s else clearFault .permitStale 0 s

/-- The state of section `i` is judged afresh (R108). -/
def judgeSection (s : State) (i : Nat) : State :=
  let p := s.sectionAt i
  match s.isBehind i, p.behindSince with
  | true, none => setSection i { p with behindSince := some s.clock.elapsed, staleRaised := false } s
  | false, some _ => setSection i { p with behindSince := none, staleRaised := false } s
  | _, _ => s

/-- The sections that are behind, by their kept behind-since times. -/
def State.behindMap (s : State) : List Bool := s.permits.sections.map (·.behindSince.isSome)

/-- Some sections are judged, and PERMIT_STALE clears where the state of one has changed and none is behind (R108,
R109). -/
def judgeList (is : List Nat) (s : State) : State :=
  let t := is.foldl judgeSection s
  if t.behindMap == s.behindMap then t else clearStale t

/-- All eight sections are judged, at an announce notice and at the completion of Setup. -/
def judgeSections (s : State) : State := judgeList (List.range 8) s

/-- The records of a section are in strictly ascending number (R107). -/
def ascending : List PermitRec → Bool
  | [] => true
  | [_] => true
  | a :: b :: rest => a.number < b.number && ascending (b :: rest)

/-- A received image of section `i` under a key is valid (R110): index, key, records well formed, ascending, and of this
section. -/
def sectionImageOk (i : Nat) (key : Key) (img : Nat × Option Key × Bool × List PermitRec) : Bool :=
  img.1 == i && img.2.1 == some key && img.2.2.2.length ≤ 160
    && img.2.2.2.all permitWf && ascending img.2.2.2 && img.2.2.2.all fun r => r.number % 8 == i

/-! ### Permit checks (R111) -/

/-- The result of a permit check, and the record where the number is held. -/
def permitCheck (s : State) (today number : Nat) : CheckResult × Option PermitRec :=
  let i := number % 8
  match findPermit number (s.sectionAt i).records with
  | none => (if s.isBehind i then .unverified else .notFound, none)
  | some r =>
    (match r.status with
      | .revoked => .revoked
      | .suspended => .suspended
      | .valid =>
        if today < r.validFrom then .notYetValid
        else if r.validTo < today then .expired
        else if !r.zones.contains s.zoneNo then .wrongZone
        else if s.isBehind i then .staleValid
        else .valid,
      some r)

/-- A check result that a sale applies. -/
def checkApplies : CheckResult → Bool
  | .valid | .staleValid => true
  | _ => false

/-! ### Changes to a section (R113 to R115) -/

/-- The judgement of step 4 of R113 and of R115 on a held section, and the section after the change, its key not yet
moved. -/
def applyChange (p : PermitSection) : AmendChange → Except Status PermitSection
  | .add r =>
    if p.closed then .error .sectionClosed
    else if (findPermit r.number p.records).isSome then .error .badParameter
    else if 160 ≤ p.records.length then .error .sectionFull
    else .ok { p with records := insertPermit r p.records }
  | .replace r =>
    match findPermit r.number p.records with
    | none => .error .notFound
    | some held =>
      if held.status == .revoked && r.status != .revoked then .error .revokedFinal
      else if p.closed && { r with status := held.status } != held then .error .sectionClosed
      else .ok { p with records := insertPermit r p.records }
  | .status n st =>
    match findPermit n p.records with
    | none => .error .notFound
    | some held =>
      if held.status == .revoked && st != .revoked then .error .revokedFinal
      else .ok { p with records := insertPermit { held with status := st } p.records }
  | .close => if p.closed then .error .sectionClosed else .ok { p with closed := true }

/-- The permit number that a change names, if it names one. -/
def changeNumber : AmendChange → Option Nat
  | .add r | .replace r => some r.number
  | .status n _ => some n
  | .close => none

/-- A change offered by a frame is well formed and of section `i` (R107, R114). -/
def changeFits (i : Nat) (c : AmendChange) : Bool :=
  (match c with
    | .add r | .replace r => permitWf r
    | .status _ _ | .close => true)
    && (match changeNumber c with
        | none => true
        | some n => n % 8 == i)

/-! ### The usage table (R119 to R123) -/

/-- The entry is that of a permit and day. -/
def isUsage (permit day : Nat) (e : UsageEntry) : Bool := e.permit == permit && e.day == day

/-- The entry of a permit and day. -/
def State.usageOf (s : State) (permit day : Nat) : Option UsageEntry := s.permits.usage.find? (isUsage permit day)

/-- The minutes of an entry's contributions. -/
def usageSum (e : UsageEntry) : Nat := (e.contribs.map (·.2)).sum

/-- The known usage of a permit for a day, against its daily allowance (R119). -/
def State.knownUsage (s : State) (permit day allowance : Nat) : Nat :=
  match s.usageOf permit day with
  | none => 0
  | some e => if e.saturated then allowance else usageSum e

/-- The contribution of a station in an entry. -/
def contribOf (station : Nat) (e : UsageEntry) : Option Nat := (e.contribs.find? (·.1 == station)).map (·.2)

/-- Put a contribution in station order, replacing that station's. -/
def insertContrib (station minutes : Nat) : List (Nat × Nat) → List (Nat × Nat)
  | [] => [(station, minutes)]
  | x :: xs =>
    if station < x.1 then (station, minutes) :: x :: xs
    else if station = x.1 then (station, minutes) :: xs
    else x :: insertContrib station minutes xs

/-- Replace the entry of a permit and day, or add it. -/
def putUsage (e : UsageEntry) (t : List UsageEntry) : List UsageEntry :=
  if t.any (isUsage e.permit e.day) then t.map (fun x => if isUsage e.permit e.day x then e else x) else t ++ [e]

/-- Allowance use is unavailable, and why: the first condition of R123 that fails. Log entry 51. -/
def State.unavailable (s : State) : Option UnavailableReason :=
  if s.today != some s.permits.ownDay then some .clockOrDay
  else if 65535 ≤ s.permits.ownCtr then some .counterFull
  else if !s.permits.settled then some .unsettled
  else none

/-- No entry can be made for a permit and day: the table is full, or the day is the lost day (R123). -/
def State.usageBlocked (s : State) (permit day : Nat) : Bool :=
  (s.usageOf permit day).isNone && (96 ≤ s.permits.usage.length || s.permits.lostDay == some day)

/-- An entry with the own contribution raised; six contributions of others lose the highest-numbered (R120). -/
def raiseOwn (own minutes : Nat) (e : UsageEntry) : UsageEntry :=
  match contribOf own e with
  | some m => { e with contribs := insertContrib own (m + minutes) e.contribs }
  | none =>
    if 6 ≤ e.contribs.length then
      { e with contribs := insertContrib own minutes e.contribs.dropLast, saturated := true }
    else { e with contribs := insertContrib own minutes e.contribs }

/-- The own contribution of an allowance commit (R120). -/
def addOwnUsage (permit day minutes : Nat) (s : State) : State :=
  if day < s.permits.ownDay then s
  else
    let e := raiseOwn s.own minutes
      ((s.usageOf permit day).getD { permit := permit, day := day, contribs := [], saturated := false })
    let n := s.permits.ownCtr + 1
    let s1 := noteCounterChange
      { s with permits := { s.permits with usage := putUsage e s.permits.usage, ownCtr := n } }
    place .other 0 (.usage (.single day n permit ((contribOf s.own e).getD 0))) s1

/-- A peer's contribution is stored (R121). A permit number outside 1..999,999 is stored like any other: log entry 70. -/
def applyContrib (sender day : Nat) (s : State) (c : Nat × Nat) : State :=
  match s.today with
  | none => s
  | some today =>
    if day < today ∨ c.2 < 1 ∨ 1440 < c.2 then s
    else
      match s.usageOf c.1 day with
      | some e =>
        let e' :=
          match contribOf sender e with
          | some m => { e with contribs := insertContrib sender (max m c.2) e.contribs }
          | none =>
            if 6 ≤ e.contribs.length then { e with saturated := true }
            else { e with contribs := insertContrib sender c.2 e.contribs }
        { s with permits := { s.permits with usage := putUsage e' s.permits.usage } }
      | none =>
        if s.permits.usage.length < 96 then
          { s with permits := { s.permits with
              usage := s.permits.usage ++ [{ permit := c.1, day := day, contribs := [(sender, c.2)], saturated := false }] } }
        else { s with permits := { s.permits with lostDay := some day } }

/-- An entry without a station's contribution. -/
def dropContrib (station : Nat) (e : UsageEntry) : UsageEntry :=
  { e with contribs := e.contribs.filter (·.1 != station) }

/-- The contributions of a station for the days that `which` names are removed, and the entries left empty with them
(R55, R121). -/
def removeContribs (station : Nat) (which : Nat → Bool) (t : List UsageEntry) : List UsageEntry :=
  (t.map fun e => if which e.day then dropContrib station e else e).filter (!·.contribs.isEmpty)

/-- The store's rollover (R122). -/
def rolloverUsage (today : Nat) (s : State) : State :=
  noteIf (s.permits.ownCtr ≠ 0)
    { s with permits := { s.permits with
      usage := s.permits.usage.filter (fun e => today ≤ e.day)
      ownCtr := 0
      ownDay := today
      lostDay := s.permits.lostDay.filter (fun d => today ≤ d) } }

/-- The usage position held for a peer. -/
def State.usagePos (s : State) (owner : Nat) : Option (Nat × Nat) :=
  (s.permits.positions.find? (·.owner == owner)).bind (·.pos)

/-- Every peer whose advertised usage counter is for today is held up to that counter (R123). -/
def State.peersHeld (s : State) : Bool :=
  s.link.peers.all fun p => !(s.isToday p.usageDay) || s.usagePos p.station == some (p.usageDay, p.usageCtr)

/-- The store becomes settled once two cycle-start marks have followed Setup and every peer is held (R123). -/
def judgeSettled (s : State) : State :=
  if 2 ≤ s.permits.cycleMarks && s.peersHeld then { s with permits := { s.permits with settled := true } } else s

end Sys2Proof.Machine
end

