-- ==== Sys2Proof/Machine/ReplOps.lean ====
section
/-! DEFINITION. The operations of the replication unit: holdings, offers, the want list, the intake, the supply queue and the
owner streams (Section 3). -/

namespace Sys2Proof.Machine

/-! ### Holdings (R36) -/

/-- The key of a tariff slot. -/
def slotKey (t : Option TariffSet) : Option Key := t.bind (·.key)

/-- The own current key of an object: the section key, or the highest tariff holding. -/
def State.currentKey (s : State) : ImageObj → Option Key
  | .tariff => highestKey [slotKey s.tariff.active, slotKey s.tariff.pending, slotKey s.tariff.retired]
  | .sect i => s.sectionKey i

/-- The set held in some slot under a key. -/
def State.heldSet (s : State) (key : Key) : Option TariffSet :=
  ([s.tariff.active, s.tariff.pending, s.tariff.retired].filterMap id).find? fun t => t.key == some key

/-- The held image of an object under a key. -/
def State.heldImage (s : State) (obj : ImageObj) (key : Key) : Option (List Byte) :=
  match obj with
  | .tariff => (s.heldSet key).map tariffImage
  | .sect i => if s.sectionKey i == some key then some (sectionImage i (s.sectionAt i)) else none

/-- A key of an object is held. -/
def State.holds (s : State) (obj : ImageObj) (key : Key) : Bool := (s.heldImage obj key).isSome

/-- The number of fragments of an image (Table 3.1). -/
def fragmentCount (length : Nat) : Nat := (length + 95) / 96

/-! ### Offers (R37) -/

/-- A key qualifies against the own holdings as a section key, or as an active tariff key (R37). -/
def State.qualifies (s : State) (obj : ImageObj) (key : Key) : Bool :=
  match obj with
  | .tariff => Key.higherOpt key (slotKey s.tariff.active) && slotKey s.tariff.pending != some key
  | .sect i => Key.higherOpt key (s.sectionKey i)

/-- A tariff key advertised as pending qualifies: it is higher than both own slots (R37). -/
def State.qualifiesPending (s : State) (key : Key) : Bool :=
  Key.higherOpt key (slotKey s.tariff.active) && Key.higherOpt key (slotKey s.tariff.pending)

/-- The declined key of an object (R40). -/
def State.declinedKey (s : State) (obj : ImageObj) : Option Key :=
  (s.repl.declined.find? (·.1 == obj)).map (·.2)

/-- The keys a peer entry offers for an object. -/
def State.offersOf (s : State) (obj : ImageObj) (p : PeerEntry) : List (Option Key) :=
  if p.status != .live then []
  else
    (match obj with
      | .tariff => [p.active.filter (s.qualifies .tariff), p.pending.filter s.qualifiesPending]
      | .sect i => [(peerSection i p).filter (s.qualifies obj)]).filter (fun k => k != s.declinedKey obj)

/-- The target for an object. -/
def State.target (s : State) (obj : ImageObj) : Option Key := highestKey (s.link.peers.flatMap (s.offersOf obj))

/-- A peer entry advertises a key for an object. -/
def advertises (obj : ImageObj) (key : Key) (p : PeerEntry) : Bool :=
  match obj with
  | .tariff => p.active == some key || p.pending == some key
  | .sect i => peerSection i p == some key

/-! ### The want list (R38, R39) -/

/-- The nine objects in the order of the want list. -/
def allObjects : List ImageObj := .tariff :: (List.range 8).map .sect

/-- The want entry of an object. -/
def State.wantOf (s : State) (obj : ImageObj) : Option WantEntry := s.repl.want.find? (·.obj == obj)

/-- A key of an object is advertised in pending fields alone, by the LIVE entries; where none of them advertises it, as
`before` has it. Log entry 14. -/
def State.pendingOnly (s : State) (obj : ImageObj) (key : Key) (before : Bool) : Bool :=
  let live := s.link.peers.filter (·.status == .live)
  match obj with
  | .sect _ => false
  | .tariff =>
    if live.any (·.active == some key) then false
    else if live.any (·.pending == some key) then true
    else before

/-- A wanted key still qualifies against the own holdings, by the test of the field that advertises it (R37, R38). -/
def State.entryQualifies (s : State) (e : WantEntry) : Bool :=
  if e.pendingOnly then s.qualifiesPending e.key else s.qualifies e.obj e.key

/-- The candidates for a key: LIVE peers advertising it, less the excluded (R39). -/
def State.candidates (s : State) (obj : ImageObj) (key : Key) (excluded : List Nat) : List Nat :=
  (s.link.peers.filter fun p => p.status == .live && advertises obj key p && !excluded.contains p.station).map (·.station)

/-- A new, raised or re-formed entry. -/
def State.freshWant (s : State) (obj : ImageObj) (key : Key) : WantEntry :=
  { obj := obj, key := key, pendingOnly := s.pendingOnly obj key false, cands := s.candidates obj key [], excluded := []
    timeouts := 0 }

/-- At an announce notice the announcing peer is added to the candidates or removed (R39). -/
def State.noteSender (s : State) (sender : Option Nat) (e : WantEntry) : WantEntry :=
  match sender with
  | none => e
  | some n =>
    if (s.candidates e.obj e.key e.excluded).contains n then { e with cands := insertNat n e.cands }
    else { e with cands := e.cands.filter (· != n) }

/-- The entry of an object after it is judged at a notice; `sender` names the peer at an announce notice (R38, R39). An
entry that is removed gives way at once to a new one for a target that remains. Log entry 46. -/
def State.judgedWant (s : State) (sender : Option Nat) (obj : ImageObj) : Option WantEntry :=
  let target := s.target obj
  let fresh := target.map (s.freshWant obj)
  match s.wantOf obj with
  | none => fresh
  | some e0 =>
    let e := { e0 with pendingOnly := s.pendingOnly obj e0.key e0.pendingOnly }
    if !s.entryQualifies e then fresh
    else
      match target with
      | none => some (s.noteSender sender e)
      | some k =>
        if Key.higher k e.key || (e.cands.isEmpty && sender.isSome) then fresh else some (s.noteSender sender e)

/-- Every object is judged. -/
def judgeWant (sender : Option Nat) (s : State) : State :=
  { s with repl := { s.repl with want := allObjects.filterMap (s.judgedWant sender) } }

/-- Change the want entry of an object. -/
def mapWant (obj : ImageObj) (f : WantEntry → WantEntry) (s : State) : State :=
  { s with repl := { s.repl with want := s.repl.want.map fun e => if e.obj == obj then f e else e } }

/-- An entry that moves a peer from the candidates to the excluded set (R39). -/
def excludePeer (n : Nat) (e : WantEntry) : WantEntry :=
  { e with cands := e.cands.filter (· != n), excluded := insertNat n e.excluded, timeouts := 0 }

/-! ### The intake (R41, R42, R46) -/

/-- The head of the want list: its first entry with a candidate (R41). -/
def State.headWant (s : State) : Option WantEntry := s.repl.want.find? fun e => !e.cands.isEmpty

/-- The intake becomes `i`. -/
def setIntake (i : Option Intake) (s : State) : State := { s with repl := { s.repl with intake := i } }

/-- The intake as it begins for an entry (R41). -/
def freshIntake (e : WantEntry) : Intake :=
  { obj := e.obj, key := e.key, provider := (e.cands.head?).getD 0, next := 0, info := none, bytes := [], progress := 0
    phase := .requesting, placed := false }

/-- The intake begins for the head, or becomes IDLE where there is none; in DORMANT it stays IDLE (R48). -/
def beginHead (s : State) : State :=
  setIntake (if s.power.state == .dormant then none else s.headWant.map freshIntake) s

/-- The intake goes to another provider from the next fragment index, its bytes kept (R44). -/
def Intake.toProvider (i : Intake) (n : Nat) : Intake := { i with provider := n, phase := .requesting, placed := false }

/-- The entry that the intake serves has lost the intake's provider. -/
def State.providerLost (s : State) (i : Intake) : Bool :=
  match s.wantOf i.obj with
  | some e => e.key == i.key && !e.cands.contains i.provider
  | none => false

/-- The timeout count of an entry that has lost its provider returns to 0, as after a third timeout (R44, R46). -/
def forgetTimeouts (i : Intake) (s : State) : State :=
  if s.providerLost i then mapWant i.obj (fun w => { w with timeouts := 0 }) s else s

/-- A running intake follows the head of the want list: it is abandoned for another head, and goes to another provider
where its own has left the candidates (R41, R46). -/
def followHead (i : Intake) (s : State) : State :=
  match s.headWant with
  | some e =>
    if e.obj != i.obj || e.key != i.key then beginHead s
    else if e.cands.contains i.provider then s
    else setIntake (some (i.toProvider ((e.cands.head?).getD 0))) s
  | none => beginHead s

/-- The intake follows the head of the want list and its own entry (R41, R46). -/
def followIntake (s : State) : State :=
  match s.repl.intake with
  | some i => followHead i (forgetTimeouts i s)
  | none => beginHead s

/-- Each candidate's status is read before a REQUEST is placed (R39). -/
def pruneCandidates (s : State) : State :=
  { s with repl := { s.repl with
      want := s.repl.want.map fun e => { e with cands := e.cands.filter fun n => s.live n } } }

/-- A frame of a unit waits in the transmit queue. -/
def State.queued (s : State) (which : Placer → Bool) : Bool := s.link.tx.any fun f => which f.placer

def isIntake : Placer → Bool
  | .intake => true
  | _ => false

def isSupply : Placer → Bool
  | .supply => true
  | _ => false

def isReport : Placer → Bool
  | .report _ _ => true
  | _ => false

/-- The intake is REQUESTING and its REQUEST is not yet in the transmit queue. -/
def State.requestDue (s : State) : Bool :=
  match s.repl.intake with
  | some i => i.phase == .requesting && !i.placed && !s.queued isIntake
  | none => false

/-- Place the REQUEST of the intake (R42). -/
def sendRequest (s : State) : State :=
  match s.repl.intake with
  | some i =>
    if s.canPlace then
      place .intake i.provider (.request (.image i.obj i.key i.next)) (setIntake (some { i with placed := true }) s)
    else s
  | none => s

/-- Place the REQUEST of the intake where one is due, after the candidates' status is read. -/
def requestIntake (s : State) : State := if s.requestDue then sendRequest (followIntake (pruneCandidates s)) else s

/-- The intake follows a change of the want list; a changed intake asks at once. -/
def updateIntake (s : State) : State :=
  let s1 := followIntake s
  if s1.repl.intake = s.repl.intake then s1 else requestIntake s1

/-- The provider is moved to the excluded set and the intake goes on as after a third timeout (R44). -/
def excludeProvider (i : Intake) (s : State) : State := updateIntake (mapWant i.obj (excludePeer i.provider) s)

/-- A counted failure of the provider: below 3 the same provider is asked again, at 3 it is excluded (R44, R47). -/
def countFailure (i : Intake) (s : State) : State :=
  let n := ((s.wantOf i.obj).map (·.timeouts)).getD 0 + 1
  if n < 3 then
    requestIntake (mapWant i.obj (fun w => { w with timeouts := n })
      (setIntake (some { i with phase := .requesting, placed := false }) s))
  else excludeProvider i (setIntake (some i) s)

/-- A peer leaves every candidate list, and the intake follows. -/
def dropCandidate (n : Nat) (s : State) : State :=
  updateIntake
    { s with repl := { s.repl with want := s.repl.want.map fun e => { e with cands := e.cands.filter (· != n) } } }

/-! ### The supply queue (R49 to R52, R56) -/

/-- The supply queue becomes `q`. -/
def setSupply (q : List SupplyEntry) (s : State) : State := { s with repl := { s.repl with supply := q } }

/-- Insert a pair in ascending order of its first number. -/
def insertPair (x : Nat × Nat) : List (Nat × Nat) → List (Nat × Nat)
  | [] => [x]
  | y :: ys => if x.1 ≤ y.1 then x :: y :: ys else y :: insertPair x ys

/-- The own contributions for a day, lowest permit number first. -/
def State.ownContribs (s : State) (day : Nat) : List (Nat × Nat) :=
  (s.permits.usage.filterMap fun e =>
    if e.day == day then (contribOf s.own e).map fun m => (e.permit, m) else none).foldr insertPair []

/-- Insert a fault entry in ascending order of change number. -/
def insertByChange (x : FaultEntry) : List FaultEntry → List FaultEntry
  | [] => [x]
  | y :: ys => if x.change ≤ y.change then x :: y :: ys else y :: insertByChange x ys

/-- The own fault entries with change numbers in a range, lowest first. -/
def State.ownChanges (s : State) (first last : Nat) : List FaultEntry :=
  (s.faults.table.filter fun e => e.owner == s.own && first ≤ e.change && e.change ≤ last).foldr insertByChange []

/-- The number of parts that some entries take, never less than 1. -/
def partCount (entries perPart : Nat) : Nat := max 1 ((entries + perPart - 1) / perPart)

/-- The series of an owner-stream entry that becomes the head (R56); an image entry has none. -/
def State.fixedSeries (s : State) (e : SupplyEntry) : Option Series :=
  match e.item with
  | .image _ _ => none
  | .faults c =>
    some { start := c, endPoint := s.faults.counter, parts := partCount (s.ownChanges c s.faults.counter).length 4 }
  | .usage =>
    some { start := s.permits.ownDay, endPoint := s.permits.ownCtr
           parts := partCount (s.ownContribs s.permits.ownDay).length 8 }

/-- The series of a head entry is fixed where it is absent. -/
def State.fixEntry (s : State) (e : SupplyEntry) : SupplyEntry := { e with series := e.series.or (s.fixedSeries e) }

/-- The entry that has become the head has its series fixed. -/
def fixHead (s : State) : State :=
  match s.repl.supply with
  | [] => s
  | e :: rest => setSupply (s.fixEntry e :: rest) s

/-- A number above every one of some numbers already sent. -/
def highOf (old : Nat) (ns : List Nat) : Nat := max old (maxOf ns)

/-- The frame that serves an entry at its present index, and the number sent up to with it (R50, R56). -/
def State.supplyFrame (s : State) (e : SupplyEntry) : Option (FrameBody × Nat) :=
  match e.item with
  | .image obj key =>
    (s.heldImage obj key).map fun img =>
      (.fragment { obj := obj, key := key, index := e.next, count := fragmentCount img.length, length := img.length
                   check := crc img, data := bytesAt img (96 * e.next) 96 }, 0)
  | .faults c =>
    e.series.map fun ser =>
      let es := ((s.ownChanges (max c (e.sentHigh + 1)) ser.endPoint).take 4)
      (.faultReport (.series ser e.next es), highOf e.sentHigh (es.map (·.change)))
  | .usage =>
    e.series.map fun ser =>
      let es := ((s.ownContribs ser.start).filter fun c => decide (e.sentHigh < c.1)).take 8
      (.usage (.series ser e.next es), highOf e.sentHigh (es.map (·.1)))

/-- The supply places the next frame of its head entry, one at a time (R50). -/
def serve (s : State) : State :=
  match s.repl.supply with
  | [] => s
  | e :: rest =>
    if e.placed || s.queued isSupply then s
    else
      let e1 := s.fixEntry e
      match s.supplyFrame e1 with
      | none => setSupply (e1 :: rest) s
      | some (body, high) =>
        if s.canPlace then
          place .supply e1.requester body (setSupply ({ e1 with placed := true, placedHigh := high } :: rest) s)
        else setSupply (e1 :: rest) s

/-- A new supply entry. -/
def freshSupply (requester : Nat) (item : SupplyItem) (next : Nat) : SupplyEntry :=
  { requester := requester, item := item, next := next, series := none, sentHigh := 0, placed := false, placedHigh := 0 }

/-- Two supply items name one object. -/
def sameObject : SupplyItem → SupplyItem → Bool
  | .image a _, .image b _ => a == b
  | .faults _, .faults _ => true
  | .usage, .usage => true
  | _, _ => false

/-- The entry stands for the same requester and object. -/
def sameRequest (a b : SupplyEntry) : Bool := a.requester == b.requester && sameObject a.item b.item

/-- A request replaces the entry of its requester and object in place; a head so replaced goes on from the new index
(R49). -/
def replaceSupply (e : SupplyEntry) (s : State) : State :=
  let q := s.repl.supply
  let s1 := setSupply (q.map fun x => if sameRequest e x then e else x) s
  if (q.head?.map (sameRequest e)) == some true then serve s1 else s1

/-- A request is entered in the supply queue (R49). -/
def enterSupply (e : SupplyEntry) (s : State) : State :=
  let q := s.repl.supply
  if q.any (sameRequest e) then replaceSupply e s
  else if q.length < 4 then
    if q.isEmpty then serve (fixHead (setSupply [e] s)) else setSupply (q ++ [e]) s
  else s

/-- SUPERSEDED with the own current key where the object is held at all, else NOT_HELD (R49, R51). -/
def answerNotHeld (requester : Nat) (obj : ImageObj) (key : Key) (s : State) : State :=
  match s.currentKey obj with
  | some k => place .other requester (.superseded obj k) s
  | none => place .other requester (.notHeld obj key) s

/-- A REQUEST for an image (R49). -/
def requestImage (sender : Nat) (obj : ImageObj) (key : Key) (start : Nat) (s : State) : State :=
  match s.heldImage obj key with
  | some img =>
    if start < fragmentCount img.length then enterSupply (freshSupply sender (.image obj key) start) s else s
  | none =>
    match s.currentKey obj with
    | some k =>
      if Key.higher k key then place .other sender (.superseded obj k) s
      else place .other sender (.notHeld obj key) s
    | none => place .other sender (.notHeld obj key) s

/-- A supply entry asks for an image that is no longer held. -/
def State.unheld (s : State) (e : SupplyEntry) : Bool :=
  match e.item with
  | .image obj key => !s.holds obj key
  | _ => false

/-- The answer to a supply entry that is dropped (R51). -/
def answerEntry (s : State) (e : SupplyEntry) : State :=
  match e.item with
  | .image obj key => answerNotHeld e.requester obj key s
  | _ => s

/-- Keep the supply entries that satisfy `keep`; an entry that so becomes the head is served. -/
def keepSupply (keep : SupplyEntry → Bool) (s : State) : State :=
  let q := s.repl.supply.filter keep
  let s1 := setSupply q s
  if q.head? = s.repl.supply.head? then s1 else serve (fixHead s1)

/-- At a holdings notice every image entry no longer held is answered and dropped (R51). -/
def judgeSupply (s : State) : State :=
  keepSupply (fun e => !s.unheld e) ((s.repl.supply.filter s.unheld).foldl answerEntry s)

/-- A holdings notice (R36): the want list and the supply queue are judged again, in this order. Log entry 66. That the want
list is judged in DORMANT too is the model's choice: log entry 87. -/
def holdingsNotice (s : State) : State := judgeSupply (updateIntake (judgeWant none s))

/-- The number of frames that serve an entry. -/
def State.framesOf (s : State) (e : SupplyEntry) : Nat :=
  match e.item with
  | .image obj key => ((s.heldImage obj key).map fun img => fragmentCount img.length).getD 0
  | _ => (e.series.map (·.parts)).getD 0

/-- The supply's frame has been sent (R50). -/
def supplySent (s : State) : State :=
  match s.repl.supply with
  | [] => s
  | e :: rest =>
    if e.placed then
      if s.framesOf e ≤ e.next + 1 then fixHead (setSupply rest s)
      else setSupply ({ e with next := e.next + 1, placed := false, sentHigh := e.placedHigh } :: rest) s
    else s

/-- The supply's frame has been dropped: the frame of the head is placed again, with the same index (R50). Log entry 27. That a
head replaced meanwhile goes on at once from its new index is the model's choice: log entry 86. -/
def supplyDropped (s : State) : State :=
  match s.repl.supply with
  | [] => s
  | e :: rest => serve (setSupply ({ e with placed := false } :: rest) s)

/-- After a day rollover a USAGE entry of another day leaves the queue (R56). -/
def dropOldUsage (s : State) : State :=
  keepSupply
    (fun e =>
      match e.item, e.series with
      | .usage, some ser => ser.start == s.permits.ownDay
      | _, _ => true) s

/-! ### Notices of the intake's REQUEST (R42) -/

/-- The intake's REQUEST has been sent. -/
def intakeSent (s : State) : State :=
  match s.repl.intake with
  | some i =>
    if i.placed then
      setIntake (some { i with phase := .receiving, progress := s.clock.elapsed, placed := false }) s
    else s
  | none => s

/-- The intake's REQUEST has been dropped; one that was stale gives way to the present one at once. -/
def intakeDropped (s : State) : State :=
  match s.repl.intake with
  | some i => if i.placed then setIntake (some { i with placed := false }) s else requestIntake s
  | none => s

/-- Refused placements are tried again, at an exchange-period mark and at any sent notice, the intake's REQUEST before the
supply's frame (R42, R50). Log entry 47. -/
def retryPlacements (s : State) : State := serve (requestIntake s)

/-! ### Owner streams (R55, R57) -/

/-- A series in reception had a part since the start of the current zone cycle (R55). Log entry 48. -/
def State.seriesRecent (s : State) (r : Option SeriesRx) : Bool := s.sinceCycle 0 (r.map (·.lastPart))

/-- The fault position record of a peer. -/
def State.faultPosOf (s : State) (owner : Nat) : FaultPos :=
  (s.faults.positions.find? (·.owner == owner)).getD { owner := owner, pos := 0, series := none }

/-- The usage position record of a peer. -/
def State.usagePosOf (s : State) (owner : Nat) : UsagePos :=
  (s.permits.positions.find? (·.owner == owner)).getD { owner := owner, pos := none, series := none }

/-- The fault position of a peer becomes `p`. -/
def setFaultPos (p : FaultPos) (s : State) : State :=
  { s with faults := { s.faults with positions := p :: s.faults.positions.filter (·.owner != p.owner) } }

/-- The usage position of a peer becomes `p`. -/
def setUsagePos (p : UsagePos) (s : State) : State :=
  { s with permits := { s.permits with positions := p :: s.permits.positions.filter (·.owner != p.owner) } }

/-- An owner-stream REQUEST, unless a series from that peer is arriving. -/
def requestStream (owner : Nat) (r : RequestBody) (rx : Option SeriesRx) (s : State) : State :=
  if s.seriesRecent rx then s else place .other owner (.request r) s

/-- The advertised fault counter against the position (Table 3.6). -/
def judgeFaultStream (p : PeerEntry) (s : State) : State :=
  let h := s.faultPosOf p.station
  if h.pos < p.faultCtr then requestStream p.station (.faults (h.pos + 1)) h.series s
  else if p.faultCtr < h.pos then
    let s1 := setFaultPos { h with pos := 0 } (dropCopies p.station s)
    if 0 < p.faultCtr then requestStream p.station (.faults 1) h.series s1 else s1
  else s

/-- A peer's contributions for some days are discarded. -/
def dropUsage (owner : Nat) (which : Nat → Bool) (s : State) : State :=
  { s with permits := { s.permits with usage := removeContribs owner which s.permits.usage } }

/-- The rows of Table 3.6 that bring the usage position to the advertised day. -/
def alignUsageDay (p : PeerEntry) (s : State) : State :=
  let u := s.usagePosOf p.station
  match u.pos with
  | none => setUsagePos { u with pos := some (p.usageDay, 0) } s
  | some (d, _) =>
    if p.usageDay < d then
      setUsagePos { u with pos := some (p.usageDay, 0) } (dropUsage p.station (fun x => p.usageDay < x) s)
    else if d < p.usageDay then setUsagePos { u with pos := some (p.usageDay, 0) } s
    else s

/-- The rows of Table 3.6 on one day. -/
def compareUsage (p : PeerEntry) (s : State) : State :=
  let u := s.usagePosOf p.station
  match u.pos with
  | none => s
  | some (d, c) =>
    if c < p.usageCtr then requestStream p.station .usage u.series s
    else if p.usageCtr < c then
      let s1 := setUsagePos { u with pos := some (d, 0) } (dropUsage p.station (fun x => x == d) s)
      if 0 < p.usageCtr then requestStream p.station .usage u.series s1 else s1
    else s

/-- The advertised usage counter against the position (Table 3.6). -/
def judgeUsageStream (p : PeerEntry) (s : State) : State :=
  match s.today with
  | none => s
  | some today => if p.usageDay < today then s else compareUsage p (alignUsageDay p s)

/-- The replication unit's announce notice (R38, R55): the want list, then the fault stream, then the usage stream. Log entry 67. -/
def replAnnounceNotice (sender : Nat) (s : State) : State :=
  let s1 := updateIntake (judgeWant (some sender) s)
  match s1.peer sender with
  | none => s1
  | some p => judgeUsageStream p (judgeFaultStream p s1)

/-- A part joins the series in reception, or starts a new one (R57). -/
def joinSeries (rx : Option SeriesRx) (ser : Series) (part now : Nat) : SeriesRx :=
  match rx with
  | some r =>
    if r.ser == ser then { r with got := insertNat part r.got, lastPart := now }
    else { ser := ser, got := [part], lastPart := now }
  | none => { ser := ser, got := [part], lastPart := now }

/-- Every part of a series has been received. -/
def seriesComplete (r : SeriesRx) : Bool := (List.range r.ser.parts).all fun i => r.got.contains i

/-- The fault position after a part of a series (R57); a complete series is no longer in reception. Log entry 49. -/
def faultAfterPart (h : FaultPos) (ser : Series) (part now : Nat) : FaultPos :=
  let r := joinSeries h.series ser part now
  if seriesComplete r then
    { h with series := none, pos := if h.pos < ser.endPoint ∧ ser.start ≤ h.pos + 1 then ser.endPoint else h.pos }
  else { h with series := some r }

/-- The fault position after a single change (R57). -/
def faultAfterSingle (h : FaultPos) (n : Nat) : FaultPos := if n = h.pos + 1 then { h with pos := n } else h

/-- The usage position that a complete series gives (R57). Log entry 26. -/
def usageComplete (pos : Option (Nat × Nat)) (ser : Series) : Option (Nat × Nat) :=
  match pos with
  | none => none
  | some (d, u) =>
    if d < ser.start ∨ (d = ser.start ∧ u < ser.endPoint) then some (ser.start, ser.endPoint) else some (d, u)

/-- The usage position after a part of a series (R57); a complete series is no longer in reception. Log entry 49. -/
def usageAfterPart (h : UsagePos) (ser : Series) (part now : Nat) : UsagePos :=
  let r := joinSeries h.series ser part now
  if seriesComplete r then { h with series := none, pos := usageComplete h.pos ser } else { h with series := some r }

/-- The usage position after a single change (R57). -/
def usageAfterSingle (h : UsagePos) (day n : Nat) : UsagePos :=
  match h.pos with
  | none => if n = 1 then { h with pos := some (day, 1) } else h
  | some (d, u) =>
    if d = day then (if n = u + 1 then { h with pos := some (d, n) } else h)
    else if d < day ∧ n = 1 then { h with pos := some (day, 1) }
    else h

end Sys2Proof.Machine
end

