-- ==== Sys2Proof/Machine/StoreOps.lean ====
section
/-! DEFINITION. What changes the stores' keys: installs, changeover, publish and the pin of the tariff store, installs and
changes of the permit sections, and the completion of a fetched image (Sections 3, 4 and 6). -/

namespace Sys2Proof.Machine

/-- The answer of a store to a complete image (R47). -/
inductive ImageOutcome where
  | installed | declined | invalid
  deriving DecidableEq, Repr

/-! ### The tariff store -/

/-- The tariff store becomes `t`. -/
def setTariff (t : Tariff) (s : State) : State := { s with tariff := t }

/-- The outgoing ACTIVE set goes to RETIRED: its key equals the pin (R72). -/
def keepsOld (t : Tariff) : Bool := (slotKey t.active).isSome && slotKey t.active == t.pin

/-- ACTIVE takes a new set; the outgoing one is retired or discarded (R72). -/
def takeActive (new : TariffSet) (t : Tariff) : Tariff :=
  { t with active := some new, retired := if keepsOld t then t.active else t.retired }

/-- A PENDING set whose key is not higher than a key leaves (R69). -/
def pendingAbove (key : Option Key) (p : Option TariffSet) : Option TariffSet :=
  match key, slotKey p with
  | some k, some q => if Key.higher q k then p else none
  | _, _ => none

/-- The slot that the install rules give a set, if any (R69). -/
def installSlot (t : Tariff) (zoneSec : Nat) (new : TariffSet) : Option TariffSlot :=
  match new.key with
  | none => none
  | some k =>
    if new.effectiveFrom ≤ zoneSec then (if Key.higherOpt k (slotKey t.active) then some .active else none)
    else if Key.higherOpt k (slotKey t.active) && Key.higherOpt k (slotKey t.pending) then some .pending
    else none

/-- The slots after an install to a slot (R69). -/
def installAt (slot : TariffSlot) (new : TariffSet) (t : Tariff) : Tariff :=
  match slot with
  | .active => { takeActive new t with pending := pendingAbove new.key t.pending }
  | .pending => { t with pending := some new }
  | .retired => t

/-- TARIFF_MISSING is raised on a FIXED or GATEWAY station whose ACTIVE slot is empty (R74). -/
def raiseMissing (s : State) : State :=
  if s.isMachine && s.tariff.active.isNone then raiseFault .tariffMissing 0 s else s

/-- TARIFF_MISSING is raised again at a refusal with NO_TARIFF while its entry is CLEARED or absent (R74). -/
def reraiseMissing (s : State) : State :=
  if s.faultStands .tariffMissing 0 then s else raiseMissing s

/-- TARIFF_MISSING clears when ACTIVE is occupied (R74). -/
def clearMissing (s : State) : State :=
  if s.tariff.active.isSome then clearFault .tariffMissing 0 s else s

/-- Post TARIFF_CHANGED for the change from an old store to the present one (R70). -/
def postTariffChanged (old : Tariff) (byChangeover : Bool) (s : State) : State :=
  match s.tariff.active with
  | none => s
  | some t =>
    postEvent (.tariffChanged t.key t.reference (slotKey old.active) byChangeover (keepsOld old)) s

/-- An install from an intake (R69, R70); TARIFF_MISSING is cleared after the holdings notice (R74): log entry 56. A completion
while zone time is unset, which R69 says cannot arise, is answered DECLINED: log entry 76. -/
def installTariff (new : TariffSet) (supplier : Nat) (s : State) : State × ImageOutcome :=
  match s.zoneSec.bind (fun z => installSlot s.tariff z new) with
  | none => (s, .declined)
  | some slot =>
    let s1 := postEvent (.tariffReceived new.key slot new.effectiveFrom new.reference supplier)
      (setTariff (installAt slot new s.tariff) s)
    let s2 := if slot == .active then postTariffChanged s.tariff false s1 else s1
    (clearMissing (holdingsNotice s2), .installed)

/-- A received tariff image (R67). -/
def tariffImageIn (key : Key) (img : List Byte) (supplier : Nat) (s : State) : State × ImageOutcome :=
  match tariffOf img with
  | none => (s, .invalid)
  | some t =>
    if t.key = some key ∧ validate t = none then installTariff t supplier s else (s, .invalid)

/-- A changeover is due: zone time has reached the effective-from of the PENDING set (R13). -/
def State.changeoverDue (s : State) : Bool :=
  match s.zoneSec, s.tariff.pending with
  | some z, some t => t.effectiveFrom ≤ z
  | _, _ => false

/-- The changeover notice (R71). -/
def makeChangeover (s : State) : State :=
  match s.tariff.pending with
  | none => s
  | some t =>
    let s1 := setTariff { takeActive t s.tariff with pending := none } s
    clearMissing (holdingsNotice (postTariffChanged s.tariff true s1))

/-- The pin is released and RETIRED emptied (R73). -/
def releasePin (s : State) : State :=
  let s1 := setTariff { s.tariff with pin := none, retired := none } s
  if s.tariff.retired.isSome then holdingsNotice s1 else s1

/-- The set that the open sale is priced by (R72, R105). -/
def State.pinnedSet (s : State) : Option TariffSet :=
  if s.tariff.pin == slotKey s.tariff.active then s.tariff.active else s.tariff.retired

/-! ### The permit store -/

/-- A section has a new key: the holdings notice, then the judgement of its state (R107, R108). -/
def sectionNotice (i : Nat) (s : State) : State := judgeList [i] (holdingsNotice s)

/-- Post SECTION_UPDATED (R110). -/
def postSection (i : Nat) (previous : Option Key) (byAmendment : Bool) (supplier : Nat) (s : State) : State :=
  match s.sectionKey i with
  | none => s
  | some k =>
    postEvent (.sectionUpdated i k previous byAmendment (s.sectionAt i).closed (s.sectionAt i).records.length supplier) s

/-- Section `i` is written whole under a key, its behind-since time left for the judgement that follows. -/
def writeSection (i : Nat) (key : Key) (closed : Bool) (records : List PermitRec) (s : State) : State :=
  setSection i { s.sectionAt i with key := some key, closed := closed, records := records } s

/-- A received section image (R110). -/
def sectionImageIn (i : Nat) (key : Key) (img : List Byte) (supplier : Nat) (s : State) : State × ImageOutcome :=
  match sectionOf img with
  | none => (s, .invalid)
  | some r =>
    if !sectionImageOk i key r then (s, .invalid)
    else if !Key.higherOpt key (s.sectionKey i) then (s, .declined)
    else
      let s1 := postSection i (s.sectionKey i) false supplier (writeSection i key r.2.2.1 r.2.2.2 s)
      (sectionNotice i s1, .installed)

/-- An amendment from a frame is applied, or changes nothing (R54, R114). -/
def amendFromFrame (sender i : Nat) (old new : Key) (c : AmendChange) (s : State) : State :=
  if new.gen = old.gen + 1 ∧ new.pub = sender ∧ s.sectionKey i = some old ∧ changeFits i c then
    match applyChange (s.sectionAt i) c with
    | .error _ => s
    | .ok p =>
      postSection i (some old) true sender (sectionNotice i (writeSection i new p.closed p.records s))
  else s

/-- The station's own amendment of a section, its key one generation on (R53, R113, R115). -/
def amendOwn (i : Nat) (old : Key) (c : AmendChange) (p : PermitSection) (s : State) : State :=
  let new : Key := { gen := old.gen + 1, pub := s.own }
  sectionNotice i (place .other 0 (.amendment i old new c) (writeSection i new p.closed p.records s))

/-! ### The completion of an image (R47) -/

/-- The image is handed to its store. -/
def storeImage (i : Intake) (s : State) : State × ImageOutcome :=
  match i.obj with
  | .tariff => tariffImageIn i.key i.bytes i.provider s
  | .sect n => sectionImageIn n i.key i.bytes i.provider s

/-- A key becomes the declined key of its object and its want entry is removed (R40). -/
def declineKey (obj : ImageObj) (key : Key) (s : State) : State :=
  updateIntake { s with repl := { s.repl with
    declined := (obj, key) :: s.repl.declined.filter (·.1 != obj)
    want := s.repl.want.filter (·.obj != obj) } }

/-- A complete image with the right check: the store's answer and what follows (R47). -/
def storeAnswer (i : Intake) (s : State) : State :=
  match storeImage i (setIntake none s) with
  | (s1, .installed) => updateIntake s1
  | (s1, .declined) => declineKey i.obj i.key s1
  | (s1, .invalid) => excludeProvider i s1

/-- A complete image (R47): the image check, then the store. -/
def imageComplete (i : Intake) (check : Crc) (s : State) : State :=
  if crc i.bytes = check then storeAnswer i s
  else countFailure { i with bytes := [], info := none, next := 0 } s

/-! ### The receipt of a fragment (R43) -/

/-- The length and count that fragment 0 states fit the object (R43). -/
def infoFits (obj : ImageObj) (length count : Nat) : Bool :=
  match obj with
  | .tariff => length == 324 && count == 4
  | .sect _ => 8 ≤ length && (length - 8) % 24 == 0 && (length - 8) / 24 ≤ 160 && count == fragmentCount length

/-- The statement of a fragment fits what the buffer holds, or begins it. -/
def fragmentFits (i : Intake) (f : FragmentBody) : Bool :=
  match i.info with
  | none => f.index == 0 && infoFits i.obj f.length f.count
  | some info => info == { count := f.count, length := f.length, check := f.check }

/-- A fragment is accepted by the intake (R43). -/
def acceptsFragment (i : Intake) (sender : Nat) (f : FragmentBody) : Bool :=
  sender == i.provider && f.obj == i.obj && f.key == i.key && f.index == i.next && fragmentFits i f
    && f.data.length == fragmentBytes f.length f.count f.index

/-- An accepted fragment joins the buffer; the last one completes the image (R43, R47). It changes the intake, so that a
REQUEST still waiting in the transmit queue is stale. Log entry 55. -/
def takeFragment (i : Intake) (f : FragmentBody) (s : State) : State :=
  let i1 : Intake :=
    { i with next := i.next + 1, info := some { count := f.count, length := f.length, check := f.check }
             bytes := i.bytes ++ f.data, progress := s.clock.elapsed, phase := .receiving, placed := false }
  let s1 := mapWant i.obj (fun w => { w with timeouts := 0 }) (setIntake (some i1) s)
  if i1.next = f.count then imageComplete i1 f.check s1 else s1

end Sys2Proof.Machine
end

