-- ==== Sys2Proof/Machine/RoundOps.lean ====
section
/-! DEFINITION. The operations of the round unit: taking and closing rounds, visits, removals of the box, reports and
acknowledgements, the zone due list (Section 8). -/

namespace Sys2Proof.Machine

/-- The round context becomes `c`. -/
def setCtx (c : RoundCtx) (s : State) : State := { s with rounds := { s.rounds with ctx := c } }

/-- The collection log becomes `l`. -/
def setLog (l : List LogRec) (s : State) : State := { s with rounds := { s.rounds with log := l } }

/-- Every record of the log is marked report due (R150). -/
def markAllDue (s : State) : State := setLog (s.rounds.log.map fun r => { r with due := true }) s

/-! ### Taking and closing a round (R143, R144) -/

/-- The context holds a round of a collector. -/
def holdsRound (c : RoundCtx) (round collector : Nat) : Bool := c.round == round && c.collector == some collector

/-- The round is taken from IDLE or OPEN, unless it is already held (R143). -/
def takeRound (round collector : Nat) (s : State) : State :=
  if s.rounds.ctx.state != .idle && holdsRound s.rounds.ctx round collector then s
  else
    markAllDue (postEvent (.roundOpened round collector)
      (setCtx { round := round, collector := some collector, state := .opened, visitRecord := none, visitStart := none } s))

/-- A ROUND_OPEN frame taken at a FIXED or GATEWAY station (R143). -/
def takeRoundOpen (round collector : Nat) (s : State) : State :=
  match s.rounds.ctx.state with
  | .idle | .opened => takeRound round collector s
  | .visited | .removed | .reported => s

/-- The context becomes IDLE from any state (R144). -/
def closeRound (s : State) : State := setCtx RoundCtx.idle s

/-- The context's collector does not show the context's round as open in its peer entry (R143). A collector that has no peer
entry does not show it: log entry 77. The round is compared by its number and state, not by the collector that the entry
names: log entry 81. -/
def State.collectorGone (s : State) : Bool :=
  match s.rounds.ctx.collector.bind s.peer with
  | some p => !(p.roundState == .opened && p.round == s.rounds.ctx.round)
  | none => true

/-- An announce notice closes the context's round (R144). -/
def announceCloses (p : PeerEntry) (c : RoundCtx) : Bool :=
  c.state != .idle && c.collector == some p.station && (p.round != c.round || p.roundState == .idle)

/-- An announce notice offers a round of the announcing collector (R143). -/
def announceOffers (p : PeerEntry) (s : State) : Bool :=
  p.role == .collector && p.roundState == .opened && p.collector == some p.station
    && (s.rounds.ctx.state == .idle || (s.rounds.ctx.state == .opened && s.collectorGone))

/-- The round unit follows a collector's announce at a FIXED or GATEWAY station (R143, R144). -/
def followAnnounce (p : PeerEntry) (s : State) : State :=
  if s.isMachine then
    let s1 := if announceCloses p s.rounds.ctx then closeRound s else s
    if announceOffers p s1 then takeRound p.round p.station s1 else s1
  else s

/-! ### The zone due list (R153) -/

/-- Put a station in the due list, highest figure first, lowest station first among equals. -/
def insertDue (x : Nat × Nat) : List (Nat × Nat) → List (Nat × Nat)
  | [] => [x]
  | y :: ys => if y.2 < x.2 ∨ (y.2 = x.2 ∧ x.1 < y.1) then x :: y :: ys else y :: insertDue x ys

/-- A station's entry after its figure is known: entered at 75 or above. -/
def updateDue (station due : Nat) (l : List (Nat × Nat)) : List (Nat × Nat) :=
  let rest := l.filter (·.1 != station)
  if 75 ≤ due then insertDue (station, due) rest else rest

/-- The zone due list takes a station's figure. -/
def noteDue (station due : Nat) (s : State) : State :=
  { s with rounds := { s.rounds with dueList := updateDue station due s.rounds.dueList } }

/-- The round unit's announce notice. -/
def roundAnnounceNotice (sender : Nat) (s : State) : State :=
  match s.peer sender with
  | none => s
  | some p => followAnnounce p (noteDue sender p.due s)

/-! ### Visits (R145) -/

/-- The context becomes VISITED, or its visit start is set afresh. -/
def startVisit (s : State) : State :=
  setCtx { s.rounds.ctx with state := .visited, visitStart := some s.clock.elapsed } s

/-- A ROUND_VISIT taken at a FIXED or GATEWAY station. -/
def takeVisit (round collector : Nat) (s : State) : State :=
  let c := s.rounds.ctx
  match c.state with
  | .idle | .opened => postEvent (.visit round collector) (startVisit (takeRound round collector s))
  | .visited => if holdsRound c round collector then startVisit s else s
  | .reported => if holdsRound c round collector then markAllDue s else s
  | .removed => s

/-- The visit period has run and the door is closed: the visit expires. -/
def State.visitOver (s : State) : Bool :=
  s.rounds.ctx.state == .visited && !s.doorOpen
    && (match s.rounds.ctx.visitStart with
        | some t => s.hasRun t 600000
        | none => false)

/-- The expiry of a visit, where it is due. -/
def expireVisit (s : State) : State :=
  if s.visitOver then
    postEvent (.visitExpired s.rounds.ctx.round)
      (setCtx { s.rounds.ctx with state := .opened, visitStart := none } s)
  else s

/-! ### Removal of the box (R146 to R149) -/

/-- The form of a snapshot (R146). -/
def State.snapshotForm (s : State) : SnapForm := if s.rounds.log.length < 4 then .newSpan else .extend

/-- The record that a snapshot with a segment forms. -/
def formRecord (d : SnapData) (seg first last round : Nat) (attended : Bool) (time : Option Nat) : LogRec :=
  { data :=
      { firstSeg := seg, lastSeg := seg, round := round, counts := d.counts, coinTotal := d.coinTotal
        totalValue := d.totalValue, firstSeq := first, lastSeq := last, removal := time, attended := attended
        mixed := d.mixed }
    due := false, held := false }

/-- A snapshot merged into a record (R146). The merge lifts the hold of a refused or dropped report: log entry 62. -/
def mergeRecord (d : SnapData) (seg last round : Nat) (attended : Bool) (time : Option Nat) (r : LogRec) : LogRec :=
  let both := r.data.attended && attended
  { r with
    data :=
      { r.data with
        lastSeg := seg, lastSeq := last, round := if both then round else 0
        counts := (addCounts r.data.counts d.counts).map fit32
        coinTotal := fit32 (r.data.coinTotal + d.coinTotal), totalValue := fit48 (r.data.totalValue + d.totalValue)
        removal := time, attended := both, mixed := r.data.mixed || d.mixed }
    due := true, held := false }

/-- The log after its newest record is changed. -/
def mapLast (f : LogRec → LogRec) : List LogRec → List LogRec
  | [] => []
  | [r] => [f r]
  | r :: rest => r :: mapLast f rest

/-- The log after a snapshot (R146). -/
def logAfter (form : SnapForm) (d : SnapData) (round : Nat) (attended : Bool) (time : Option Nat)
    (log : List LogRec) : List LogRec :=
  match d.segment with
  | none => log
  | some (seg, first, last) =>
    match form with
    | .newSpan => log ++ [formRecord d seg first last round attended time]
    | .extend => mapLast (mergeRecord d seg last round attended time) log

/-- The round that a removal's record carries: 0 for an unattended one. -/
def removalRound (s : State) (attended : Bool) : Nat := if attended then s.rounds.ctx.round else 0

/-- The one record write of a removal: the cash position and the log (R133, R146). -/
def writeRemoval (attended : Bool) (s : State) : State :=
  let form := s.snapshotForm
  { s with
    cash := writeSnapshot form s.cash
    rounds := { s.rounds with
      log := logAfter form (snapData s.cash) (removalRound s attended) attended s.zoneSec s.rounds.log } }

/-- COLLECTION_TAKEN for a removal from an earlier state (R147). -/
def collectionEvent (attended : Bool) (s : State) : Event :=
  let d := snapData s.cash
  .collectionTaken attended (removalRound s attended) d.segment d.counts d.coinTotal d.totalValue s.snapshotForm

/-- The context after an attended removal: REMOVED, with the record formed at this visit (R147). -/
def removedCtx (s t : State) : RoundCtx :=
  { s.rounds.ctx with
    state := .removed, visitStart := none
    visitRecord := if (snapData s.cash).segment.isSome then (t.rounds.log.getLast?).map (·.data.firstSeg) else none }

/-- An attended removal (R147); BOX_FULL is judged before COLLECTION_TAKEN is posted. Log entry 52. -/
def attendedRemoval (s : State) : State :=
  let t := writeRemoval true s
  postEvent (collectionEvent true s) (clearBoxFull (setCtx (removedCtx s t) t))

/-- An unattended removal (R149); BOX_FULL is judged before COLLECTION_TAKEN is posted. Log entry 52. -/
def unattendedRemoval (s : State) : State :=
  raiseFault .boxRemovedUnattended 0 (postEvent (collectionEvent false s) (clearBoxFull (writeRemoval false s)))

/-- A log record begins with a segment. -/
def startsAt (seg : Option Nat) (r : LogRec) : Bool := seg == some r.data.firstSeg

/-- A REMOVED context leaves it: REPORTED with the visit's record still in the log, else OPEN (R148). -/
def leaveRemoved (s : State) : State :=
  let c := s.rounds.ctx
  if s.rounds.log.any (startsAt c.visitRecord) then
    setLog (s.rounds.log.map fun r => if startsAt c.visitRecord r then { r with due := true } else r)
      (setCtx { c with state := .reported } s)
  else setCtx { c with state := .opened, visitRecord := none } s

/-- A REMOVED context is judged (R148). -/
def judgeRemoved (s : State) : State :=
  if s.rounds.ctx.state == .removed && !s.boxAbsent && !s.doorOpen then leaveRemoved s else s

/-- The context is one of the attended states. -/
def State.attended (s : State) : Bool := s.rounds.ctx.state == .visited || s.rounds.ctx.state == .removed

/-- A settled change of the DOOR group at a FIXED or GATEWAY station (R145, R148, R149). -/
def doorChange (s : State) : State :=
  if s.attended then judgeRemoved (expireVisit s)
  else if s.doorOpen then raiseFault .tamper 0 s
  else s

/-- A settled change of the BOX group at a FIXED or GATEWAY station (R147 to R149). -/
def boxChange (s : State) : State :=
  match s.rounds.ctx.state with
  | .visited => if s.boxAbsent then attendedRemoval s else s
  | .removed => judgeRemoved s
  | .idle | .opened | .reported => if s.boxAbsent then unattendedRemoval s else s

/-! ### Reports and acknowledgements (R150, R151) -/

/-- The first record whose report is owed. -/
def firstDue (l : List LogRec) : Option LogRec := l.find? (·.due)

/-- A report may be placed: an exchange period, a round held, its collector LIVE, no report in the queue (R150). -/
def State.mayReport (s : State) : Bool :=
  s.inExchange && s.rounds.ctx.state != .idle
    && (match s.rounds.ctx.collector with
        | some c => s.live c
        | none => false)
    && !s.queued isReport

/-- The record of some segments is changed. -/
def mapRecord (first last : Nat) (f : LogRec → LogRec) (s : State) : State :=
  setLog (s.rounds.log.map fun r => if r.data.firstSeg == first && r.data.lastSeg == last then f r else r) s

/-- Place the report of the first record that owes one; a refused placement waits for the next mark (R150). Log entry
20. -/
def placeReports (s : State) : State :=
  match firstDue s.rounds.log, s.rounds.ctx.collector with
  | some r, some c =>
    if s.mayReport && !r.held then
      if s.canPlace then
        place (.report r.data.firstSeg r.data.lastSeg) c (.collectionReport r.data) s
      else mapRecord r.data.firstSeg r.data.lastSeg (fun x => { x with held := true }) s
    else s
  | _, _ => s

/-- Held reports may be placed again, at an exchange-period mark. -/
def releaseHeld (s : State) : State := setLog (s.rounds.log.map fun r => { r with held := false }) s

/-- The report of some segments has been sent: the mark is cleared, unless the record has been merged since. -/
def reportSent (first last : Nat) (s : State) : State := mapRecord first last (fun r => { r with due := false }) s

/-- The report of some segments has been dropped: its record waits for the next mark. A record merged since has other segments
and is not held. Log entry 62. -/
def reportDropped (first last : Nat) (s : State) : State := mapRecord first last (fun r => { r with held := true }) s

/-- The context after an acknowledgement of a record (R151). -/
def ackCtx (first : Nat) (c : RoundCtx) : RoundCtx :=
  if c.state == .reported && c.visitRecord == some first then { c with state := .opened, visitRecord := none } else c

/-- A COLLECTION_ACK taken at a FIXED or GATEWAY station (R151, R134); JOURNAL_FULL is judged before COLLECTION_ACKED is
posted. Log entry 57. -/
def takeAck (sender first last : Nat) (s : State) : State :=
  match s.rounds.log.find? fun r => r.data.firstSeg == first && r.data.lastSeg == last with
  | none => s
  | some r =>
    let s1 :=
      { s with
        cash := releaseSpan first last s.cash
        rounds := { s.rounds with
          log := s.rounds.log.filter fun x => !(x.data.firstSeg == first && x.data.lastSeg == last)
          ctx := ackCtx first s.rounds.ctx } }
    postEvent (.collectionAcked first last r.data.totalValue sender) (clearJournalFull s1)

/-! ### The collector's sheet (R141) -/

/-- How far a segment lies above the first one, counting upward with 1 after 65,535. -/
def segmentsAbove (first seg : Nat) : Nat := if first ≤ seg then seg - first else seg + 65535 - first

/-- A sheet entry's key. -/
def isSheetKey (station first : Nat) (e : Nat × CollectionData) : Bool := e.1 == station && e.2.firstSeg == first

/-- The sheet becomes `l`. -/
def setSheet (l : List (Nat × CollectionData)) (s : State) : State := { s with rounds := { s.rounds with sheet := l } }

/-- The COLLECTION_ACK to a reporting station. -/
def sendAck (station : Nat) (d : CollectionData) (s : State) : State :=
  place .other station (.collectionAck d.firstSeg d.lastSeg) s

/-- REPORT_RECEIVED for a new or replaced entry. -/
def postReport (station : Nat) (d : CollectionData) (replaced : Bool) (s : State) : State :=
  postEvent (.reportReceived station d.firstSeg d.lastSeg d.totalValue d.attended replaced) s

/-- A COLLECTION_REPORT taken at a COLLECTOR station (R141). -/
def takeReport (station : Nat) (d : CollectionData) (s : State) : State :=
  if s.rounds.ctx.state == .idle then s
  else
    match s.rounds.sheet.find? (isSheetKey station d.firstSeg) with
    | some e =>
      if segmentsAbove d.firstSeg e.2.lastSeg < segmentsAbove d.firstSeg d.lastSeg then
        sendAck station d (postReport station d true
          (setSheet (s.rounds.sheet.map fun x => if isSheetKey station d.firstSeg x then (station, d) else x) s))
      else sendAck station d s
    | none =>
      if s.rounds.sheet.length < 32 then
        sendAck station d (postReport station d false (setSheet (s.rounds.sheet ++ [(station, d)]) s))
      else postEvent (.sheetFull station d.firstSeg d.lastSeg) s

end Sys2Proof.Machine
end

