-- ==== Sys2Proof/Machine/PowerOps.lean ====
section
/-! DEFINITION. The operations of the power unit, of resets and of the receiver; the end of an open sale; what is put in order
after every command (Sections 1, 5, 10 and 11). -/

namespace Sys2Proof.Machine

/-! ### The end of a sale (R73, R102 to R104) -/

/-- The sale ends: the record is discarded, the sale-open mark cleared, the pin released (R73, R190). -/
def endSale (s : State) : State := releasePin { s with sales := { sale := none, openMark := false } }

/-- The open sale, if any, is abandoned for a cause (R103, R104). -/
def abandonSale (cause : AbandonCause) (s : State) : State :=
  match s.sales.sale with
  | none => s
  | some r =>
    endSale (postEvent
      (.saleAbandoned cause r.escrow r.coinTotal r.card (r.permit.map (·.number)) r.pin) s)

/-! ### DORMANT (R34, R180, R181) -/

/-- A count that stays at 65,535 once reached. -/
def countUp (n : Nat) : Nat := min (n + 1) 65535

/-- The transmit queue on the entry to DORMANT: a frame on the line is completed first (R34). -/
def keptFrames (line : Option OnLine) (tx : List TxFrame) : List TxFrame :=
  match line with
  | some (.exchange _) => tx.take 1
  | _ => []

/-- The link controller and the replication unit on the entry to DORMANT (R34, R48, R52). -/
def quietLink (s : State) : State :=
  { s with
    link := { s.link with tx := keptFrames s.link.line s.link.tx, access := .off, heldOn := false }
    repl := { s.repl with intake := none, supply := [] } }

/-- The power unit on the entry to DORMANT (R180). -/
def dormantPower (elapsed : Nat) (zone : Option Nat) (p : Power) : Power :=
  { p with
    state := .dormant, warning := none, dormantDue := false, dormantSince := some (elapsed, zone)
    periods := countUp p.periods }

/-- The station enters DORMANT (R180). -/
def enterDormant (s : State) : State :=
  quietLink (abandonSale .dormant { s with power := dormantPower s.clock.elapsed s.zoneSec s.power })

/-- The dormant entry due flag is set; where no announce can be sent the station enters DORMANT at once (R180). -/
def setDormantDue (s : State) : State :=
  let s1 := { s with power := { s.power with warning := none, dormantDue := true } }
  if s.clock.zone.isNone || !s.setupDone then enterDormant s1 else s1

/-- The silence timing of the peer entries restarts (R29). -/
def restartSilence (s : State) : State :=
  { s with link := { s.link with
      peers := s.link.peers.map fun p => if p.status == .silent then p else { p with lastHeard := s.clock.elapsed } } }

/-- The name of the oldest wake-class event in the queue, or the recorded name (R181). -/
def wakeName (s : State) : Option EventName :=
  ((s.port.events.find? fun e => wakeClass e.event).map fun e => eventName e.event).or s.power.recorded

/-- The power unit on leaving DORMANT, its period given (R181). That the dormant-since time becomes absent is the model's choice:
log entry 64. -/
def exitPower (s : State) (period : Option Nat × Nat) : Power :=
  let p := { s.power with recorded := none, dormantSince := none, lastPeriod := some period }
  if !s.setupDone then { p with state := .awake, wakeCause := .supplyRestored }
  else
    match wakeName s with
    | some n => { p with state := .awake, wakeCause := .event n }
    | none => { p with state := .listening }

/-- Zone time lies in a gathering window. -/
def State.inWindow (s : State) : Bool :=
  match s.clock.zone with
  | none => false
  | some z => cyclePos z < 4000

/-- The station leaves DORMANT (R181, R29). That a station which does so inside an exchange period, for LISTENING, begins with its
receiver off and turns it on only where a condition of R17 holds is the model's choice: log entry 80. -/
def exitDormant (s : State) : State :=
  let since := s.power.dormantSince.getD (s.clock.elapsed, none)
  let seconds := (s.clock.elapsed - since.1) / 1000
  let s1 := postEvent (.supplyLow (.restored since.2 seconds)) s
  let s2 := restartSilence { s1 with power := exitPower s1 (since.2, seconds) }
  { s2 with link := { s2.link with heldOn := s2.inWindow } }

/-- The power unit makes a LISTENING station AWAKE (R178). -/
def wakeByButton (s : State) : State :=
  if s.power.state == .listening && !s.power.dormantDue then
    { s with power := { s.power with state := .awake, wakeCause := .button } }
  else s

/-- The station goes from AWAKE to LISTENING: the receiver stays on to the end of an exchange period (R17, R177). -/
def goListening (s : State) : State :=
  { s with
    power := { s.power with state := .listening }
    link := { s.link with heldOn := true } }

/-- A REST takes effect when its response has been read (R177). -/
def restEffect (s : State) : State :=
  let s1 := { s with power := { s.power with restTaken := false } }
  if s.power.restTaken && s.power.state == .awake && s.port.events.isEmpty then
    if s.power.warning.isSome then setDormantDue (goListening s1) else goListening s1
  else s1

/-! ### Resets (11.6) -/

/-- A usage entry after a reset: only the own contribution is nonvolatile (R119). -/
def ownUsageOnly (own : Nat) (t : List UsageEntry) : List UsageEntry :=
  t.filterMap fun e => (contribOf own e).map fun m => { e with contribs := [(own, m)], saturated := false }

/-- The permit store after a reset (R107, R108, R116, R119, R123). -/
def Permits.afterReset (own : Nat) (p : Permits) : Permits :=
  { p with
    sections := p.sections.map fun x => { x with behindSince := none, staleRaised := false }
    draft := none, usage := ownUsageOnly own p.usage, lostDay := none, settled := false, cycleMarks := 0
    positions := [] }

/-- The round context after a reset: VISITED becomes OPEN (R138). -/
def RoundCtx.afterReset (c : RoundCtx) : RoundCtx :=
  { c with state := if c.state == .visited then .opened else c.state, visitStart := none }

/-- The round unit after a reset (R138, R152, R153). -/
def Rounds.afterReset (r : Rounds) : Rounds :=
  { r with
    ctx := RoundCtx.afterReset r.ctx, log := r.log.map fun x => { x with due := false, held := false }, dueList := [] }

/-- The fault unit after a reset (R156). -/
def Faults.afterReset (own : Nat) (f : Faults) : Faults :=
  { f with table := f.table.filter (·.owner == own), positions := [], observed := [], restartBy := none }

/-- The host port after a reset (R183 to R187, R190). -/
def Port.afterReset (cause : ResetCause) (p : Port) : Port :=
  { p with
    buffer := none, badFrameSeen := false, overrunSeen := false, events := [], resetCause := cause, setup := none
    sdo := none }

/-- The reset-cause record (R190). -/
def resetCause (kind : ResetKind) (s : State) : ResetCause :=
  { kind := kind
    powerBefore := if kind == .powerOn then none else some s.power.state
    saleLost := s.sales.openMark
    engineer := if kind == .remoteRestart then s.faults.restartBy else none }

/-- A reset: the nonvolatile records are kept, every other piece of state takes its value after reset (11.6). -/
def resetPart (kind : ResetKind) (s : State) : State :=
  { clock := Clock.afterReset s.clock.rolloverDay s.clock.draws
    link := Link.afterReset s.link.lcd
    repl := Repl.afterReset
    tariff := { s.tariff with retired := none, pin := none, draft := none }
    sales := { sale := none, openMark := false }
    permits := Permits.afterReset s.own s.permits
    cash := s.cash
    rounds := Rounds.afterReset s.rounds
    faults := Faults.afterReset s.own s.faults
    sense := { s.sense with groups := s.sense.groups.map fun _ => SenseGroup.afterReset }
    power := Power.afterReset s.power.supplyPin s.power.buttonPin
    port := Port.afterReset (resetCause kind s) s.port
    pending := s.pending }

/-! ### The receiver (R16, R17, R19) -/

/-- A peer's last announce differs from what this station holds (R17). The announced active key is compared with the key of
the ACTIVE slot alone, the announced pending key with that of the PENDING slot alone: log entry 68; an absent key or position:
log entry 16. -/
def announcedDiffers (s : State) (p : PeerEntry) : Bool :=
  p.active != slotKey s.tariff.active || p.pending != slotKey s.tariff.pending
    || (List.range 8).any (fun i => peerSection i p != s.sectionKey i)
    || p.faultCtr != (s.faultPosOf p.station).pos
    || s.usagePos p.station != some (p.usageDay, p.usageCtr)

/-- A round is open by a collector this station has heard (R17). -/
def State.roundHeard (s : State) : Bool := s.link.peers.any fun p => p.role == .collector && p.roundState == .opened

/-- Some condition of R17 holds. In an exchange period the previous one started 28 s before the current zone cycle, and the
previous cycle 32 s before it. -/
def State.holdsReceiver (s : State) : Bool :=
  !s.repl.want.isEmpty || !s.repl.supply.isEmpty || !s.link.tx.isEmpty
    || s.link.peers.any (fun p => s.link.windowHeard.contains p.station && announcedDiffers s p)
    || (!s.rounds.log.isEmpty && s.roundHeard)
    || s.sinceCycle 28000 s.link.addressedAt
    || (s.isMachine && s.rounds.ctx.state != .idle)
    || s.sinceCycle 32000 s.link.changedAt

/-- A LISTENING station's receiver turns on in an exchange period once a condition arises (R17). Log entry 33. -/
def holdReceiver (s : State) : State :=
  if s.power.state == .listening && s.inExchange && s.holdsReceiver then
    { s with link := { s.link with heldOn := true } }
  else s

/-- The receiver is due to be on (Table 1.4). -/
def State.receiverDue (s : State) : Bool :=
  s.setupDone
    && (match s.power.state with
        | .awake => true
        | .listening => s.clock.zone.isNone || s.link.heldOn
        | .dormant => false)

/-- The receiver follows Table 1.4; a frame in collection is received to its end (R16, R19). -/
def refreshReceiver (s : State) : State :=
  if s.receiverDue then
    if s.link.receiver then s else takeUpChannel { s with link := { s.link with receiver := true } }
  else
    match s.link.path with
    | .collecting _ _ _ => s
    | .idle | .waitQuiet _ => { s with link := { s.link with receiver := false, path := .idle } }

/-! ### After every command -/

/-- What is put in order after a command: reports that may go, the receiver, medium access. -/
def settle (s : State) : State := startAccess (refreshReceiver (holdReceiver (placeReports s)))

/-- A command acts on a part that is not held in reset; while RESET_N is low nothing acts (R191). Log entry 10. -/
def act (f : State → State) (s : State) : Host.Outcome State Fault Refusal :=
  .next (if s.port.resetHigh then settle (f s) else s)

end Sys2Proof.Machine
end

