-- ==== Sys2Proof/Machine/ClockOps.lean ====
section
/-! DEFINITION. The operations of the zone clock: steps of zone time and their consequences, the judgement of an announced
time, and one millisecond of steady advance (Section 1). -/

namespace Sys2Proof.Machine

/-- A day rollover is due: zone time lies in a day later than the rollover day (R12). -/
def State.rolloverDue (s : State) : Bool :=
  match s.today with
  | none => false
  | some d => s.clock.rolloverDay < d

/-- A day rollover, where it is due: the rollover day, then the permit store and its supply (R12, R122, R56). -/
def makeRollover (s : State) : State :=
  match s.today with
  | none => s
  | some d =>
    if s.clock.rolloverDay < d then
      dropOldUsage (rolloverUsage d { s with clock := { s.clock with rolloverDay := d } })
    else s

/-- A changeover, where it is due (R13). -/
def changeoverIfDue (s : State) : State := if s.changeoverDue then makeChangeover s else s

/-- The receiver hold after zone time moves: on in a gathering window (R10, R16). R17 decides the hold at the exchange-period
mark, which a step or the first setting into an exchange period passes over. That the hold is kept where zone time moves from
one exchange period into one, and that it is off else until a condition of R17 holds, is the model's choice: log entry 83. -/
def heldAfter (old : Option Nat) (new : Nat) (held : Bool) : Bool :=
  if cyclePos new < 4000 then true
  else
    match old with
    | some z => 4000 ≤ cyclePos z && held
    | none => false

/-- Zone time moves into another zone cycle without reaching the start of one, so that its cycle-start mark is passed over
(R10, R14). -/
def cycleSkipped (old : Option Nat) (new : Nat) : Bool :=
  match old with
  | some z => z / 32000 != new / 32000 && cyclePos new != 0
  | none => false

/-- A zone cycle begins for what R17 counts by gathering windows: no announce heard in its window yet. -/
def newCycle (l : Link) : Link := { l with windowHeard := [] }

/-- Zone time becomes `new` ms; a mark given at another zone time may be given again (R14). A step into another cycle
begins its gathering window although its mark is passed over. Log entry 45. -/
def moveZone (new : Nat) (s : State) : State :=
  let l := { s.link with heldOn := heldAfter s.clock.zone new s.link.heldOn }
  { s with
    clock := { s.clock with
      zone := some new
      marksGiven := if s.clock.zone = some new then s.clock.marksGiven else [] }
    link := if cycleSkipped s.clock.zone new then newCycle l else l }

/-- A change of zone time other than its steady advance, with its consequences in the order in which R10 lists them. -/
def setZone (new : Nat) (s : State) : State := makeRollover (changeoverIfDue (moveZone new s))

/-- Quality is assigned and the age timer restarts (R6). -/
def setQuality (q : Nat) (s : State) : State :=
  { s with clock := { s.clock with quality := some q, ageStart := some s.clock.elapsed } }

/-- Two times in ms are more than 1 s apart. -/
def differs (a b : Nat) : Bool := 1000 < a - b || 1000 < b - a

/-- The step from one time to another in whole seconds, rounded toward zero (R9). -/
def stepSeconds (old new : Nat) : Int := ((new : Int) - (old : Int)).tdiv 1000

/-- Post TIME_ADOPTED (R9). -/
def postAdopted (sender : Nat) (outcome : AdoptOutcome) (step : Option Int) (s : State) : State :=
  postEvent (.timeAdopted sender outcome (s.clock.quality.getD 0) ((s.zoneSec).getD 0) step) s

/-- The sender's time S at the end of reception: the carried time and the reception, within the range of zone time (R5,
R8). -/
def senderTime (a : AnnounceBody) (receptionMs : Nat) : Nat := min zoneMax (a.zoneSec * 1000 + a.zoneMs + receptionMs)

/-- The outcome of an announced time (Table 1.2). -/
def judgeTime (sender receptionMs : Nat) (a : AnnounceBody) (s : State) : State :=
  match a.quality with
  | none => s
  | some q =>
    let new := senderTime a receptionMs
    if 3 < q then s
    else
      match s.clock.zone with
      | none => postAdopted sender .fromUnset none (setZone new (setQuality (q - 1) s))
      | some old =>
        let p := s.clock.quality.getD 0
        if p < q ∧ (p < q - 1 ∨ differs new old) then
          postAdopted sender .fromHigher (some (stepSeconds old new)) (setZone new (setQuality (q - 1) s))
        else if p < q then setZone new (setQuality p s)
        else if q = p ∧ sender < s.own ∧ differs new old then
          postAdopted sender .equalStep (some (stepSeconds old new)) (setZone new s)
        else s

/-- The elapsed-time counter one millisecond on; beyond its range a free value (R2). Log entry 4. -/
def nextElapsed (c : Clock) : Nat × Nat :=
  if c.elapsed < 2 ^ 48 - 1 then (c.elapsed + 1, c.draws)
  else ((Config.elapsedBeyondRange c.draws).toNat, c.draws + 1)

/-- One millisecond passes: the counter, and zone time short of the end of its range (R2, R5). -/
def tickClock (c : Clock) : Clock :=
  let e := nextElapsed c
  match c.zone with
  | none => { c with elapsed := e.1, draws := e.2 }
  | some z =>
    if z < zoneMax then { c with elapsed := e.1, draws := e.2, zone := some (z + 1), marksGiven := [] }
    else { c with elapsed := e.1, draws := e.2 }

end Sys2Proof.Machine
end

