-- ==== Sys2Proof/Machine/LinkOps.lean ====
section
/-! DEFINITION. The operations of the link controller: announces, exchange frames, medium access, the receive path, and the
taking of a received frame (Section 2). -/

namespace Sys2Proof.Machine

/-- The level found on LCD. -/
def setLcd (level : Bool) (s : State) : State := { s with link := { s.link with lcd := level } }

/-- Medium access becomes `a`. -/
def setAccess (a : Access) (s : State) : State := { s with link := { s.link with access := a } }

/-! ### Notices to the placing unit (R31 to R33) -/

/-- The placing unit of a frame is told that it has been sent, and refused placements are tried again. -/
def noticeSent (f : TxFrame) (s : State) : State :=
  retryPlacements
    (match f.placer with
      | .intake => intakeSent s
      | .supply => supplySent s
      | .report first last => reportSent first last s
      | .other => s)

/-- The placing unit of a frame is told that it was dropped. -/
def noticeDropped (f : TxFrame) (s : State) : State :=
  match f.placer with
  | .intake => intakeDropped s
  | .supply => supplyDropped s
  | .report first last => reportDropped first last s
  | .other => s

/-- The head frame leaves the transmit queue; medium access begins anew for the next. -/
def popHead (s : State) : State := { s with link := { s.link with tx := s.link.tx.tail, access := .off } }

/-! ### Exchange frames (R15, R32, R33) -/

/-- The milliseconds left to the next cycle start. -/
def leftInCycle (zone : Nat) : Nat := 32000 - cyclePos zone

/-- A frame of a length fits the time left: its line time is not more than that (R15). -/
def fits (length left : Nat) : Bool := length * 25 ≤ left * 48

/-- The head frame may be started now: an exchange period in which it fits (R15), transmission allowed (R31). -/
def State.headFits (s : State) (f : TxFrame) : Bool :=
  s.mayTransmit && s.inExchange
    && (match s.clock.zone with
        | some z => fits (frameLength f.body) (leftInCycle z)
        | none => false)

/-- The head frame goes onto the line. -/
def startHead (s : State) : State := setAccess .off (startTransmission (.exchange s.clock.elapsed) s)

/-- The backoff wait of the head frame has run. -/
def State.backoffOver (s : State) : Bool :=
  match s.link.access, s.link.tx with
  | .backoff start, f :: _ => s.hasRun start (backoffMs s.own f.attempt)
  | _, _ => false

/-- The head frame is dropped after its eighth busy attempt (R32). -/
def dropHead (f : TxFrame) (s : State) : State := noticeDropped f (popHead s)

/-- The backoff wait of the head frame expires (R15, R32). That in a gathering window, which a step has entered past the
end-of-exchange mark, the frame is held without a sample of LCD is the model's choice: log entry 85. -/
def expireBackoff (s : State) : State :=
  match s.link.tx with
  | [] => setAccess .off s
  | f :: _ =>
    if !s.inExchange then setAccess .held s
    else if s.link.lcd then
      if f.attempt < 7 then
        setAccess .waitIdle { s with link := { s.link with tx := headAttempt (f.attempt + 1) s.link.tx } }
      else dropHead f s
    else if s.headFits f then startHead s
    else setAccess .held s

/-- The exchange frame on the line has gone out whole. -/
def State.frameOut (s : State) : Bool :=
  match s.link.line, s.link.tx with
  | some (.exchange start), f :: _ => s.hasRun start (lineMs (frameLength f.body))
  | _, _ => false

/-- The end of an exchange frame: it leaves the queue and its placing unit is told (R33). -/
def endFrame (s : State) : State :=
  match s.link.tx with
  | [] => s
  | f :: _ => noticeSent f (takeUpChannel (popHead { s with link := { s.link with line := none } }))

/-! ### Announces (R24, R25) -/

/-- The content of the own announce at its mark (Table 2.3). -/
def ownAnnounce (s : State) (zone : Nat) : AnnounceBody :=
  { role := (s.port.setup.map (·.role)).getD .fixed
    zoneSec := zone / 1000, zoneMs := zone % 1000, quality := s.clock.quality
    dormant := s.power.dormantDue, hostAwake := s.power.state == .awake
    reports := s.isMachine && !s.rounds.log.isEmpty
    active := slotKey s.tariff.active, pending := slotKey s.tariff.pending
    pendingEff := (s.tariff.pending.map (·.effectiveFrom)).getD 0
    sections := s.permits.sections.map (·.key)
    faultCtr := s.faults.counter, usageCtr := s.permits.ownCtr, usageDay := s.permits.ownDay
    due := s.dueFigure, round := s.rounds.ctx.round, collector := s.rounds.ctx.collector
    roundState := s.rounds.ctx.state }

/-- Medium access of the head frame waits while an announce is on the line (R24). Log entry 24. -/
def pauseAccess (elapsed : Nat) : Access → Access
  | .backoff start => .paused (elapsed - start)
  | a => a

/-- Medium access goes on after an announce, by the level of LCD. -/
def resumeAccess (elapsed : Nat) (lcd : Bool) : Access → Access
  | .paused ran => .backoff (elapsed - ran)
  | .waitIdle => if lcd then .waitIdle else .backoff elapsed
  | a => a

/-- The announce goes onto the line, and the own due figure into the zone due list (R24, R153). -/
def sendAnnounce (zone : Nat) (s : State) : State :=
  let s1 := startTransmission (.announce s.clock.elapsed (ownAnnounce s zone)) s
  noteDue s.own s.dueFigure (setAccess (pauseAccess s.clock.elapsed s.link.access) s1)

/-- The own slot (R24, R180): the announce, or none while an exchange frame is still on the line or a restart is in
progress. A slot given again while the own announce is on the line is taken in the same way: log entry 42. The entry to
DORMANT does not wait for the read of a REST's response: log entry 72. Where a remote restart in progress keeps the announce
from starting (R169), a due entry to DORMANT is made at the mark, as where an exchange frame keeps it: log entry 79. -/
def ownSlot (zone : Nat) (s : State) : State :=
  if s.mayTransmit && s.link.line.isNone then sendAnnounce zone s
  else if s.power.dormantDue then enterDormant s
  else s

/-- The line time of an announce in whole milliseconds: 64 bytes. -/
def announceMs : Nat := lineMs 64

/-- The announce on the line has gone out whole. -/
def State.announceOut (s : State) : Bool :=
  match s.link.line with
  | some (.announce start _) => s.hasRun start announceMs
  | _ => false

/-- The announce on the line carries the dormant flag. -/
def State.farewell (s : State) : Bool :=
  match s.link.line with
  | some (.announce _ a) => a.dormant
  | _ => false

/-- The end of the announce that carries the dormant flag is the entry to DORMANT (R180), unless the flag has been cleared while
the announce was on the line: log entry 65. -/
def State.entryDue (s : State) : Bool :=
  s.power.dormantDue && ((s.announceOut && s.farewell) || s.clock.zone.isNone || !s.setupDone)

/-- The line is free again after an announce; medium access and the receive path go on. -/
def endAnnounce (s : State) : State :=
  takeUpChannel (setAccess (resumeAccess s.clock.elapsed s.link.lcd s.link.access)
    { s with link := { s.link with line := none } })

/-! ### Taking a received frame (R20 to R23) -/

/-- A DUPLICATE_NUMBER raise may be handed on: none less than 32 s earlier (R21). -/
def State.duplicateDue (s : State) : Bool :=
  match s.link.lastDuplicate with
  | none => true
  | some t => s.hasRun t 32000

/-- A frame with the own number as sender (R21). -/
def ownNumberHeard (s : State) : State :=
  if s.duplicateDue then
    raiseFault .duplicateNumber 0 { s with link := { s.link with lastDuplicate := some s.clock.elapsed } }
  else s

/-- An accepted frame for the own number counts toward holding the receiver on (R17, R20), from the end of its reception: one
handed over from the waiting place has been counted already. -/
def noteAddressed (h : FrameHeader) (s : State) : State :=
  if h.dest = s.own ∧ s.link.handing = false then
    { s with link := { s.link with addressedAt := some s.clock.elapsed } }
  else s

/-- The last-heard time of a station becomes now (R22). -/
def noteHeard (n : Nat) (s : State) : State :=
  { s with link := { s.link with
      peers := s.link.peers.map fun p => if p.station == n then { p with lastHeard := s.clock.elapsed } else p } }

/-- An accepted frame other than an announce: role trust, then the owning unit (R22, R23). -/
def trustFrame (h : FrameHeader) (body : FrameBody) (f : State → State) (s : State) : State :=
  match s.peer h.sender with
  | none => s
  | some p => if senderTrusted body p.role then f (noteHeard h.sender s) else noteHeard h.sender s

/-- A complete frame whose check agrees is taken through the filters; `accept` follows where all pass and the frame finds a
place (R20, R21, R23). One that finds none counts as addressed (R17) and leaves its sender's last-heard time as it was: log
entry 69. -/
def filterFrame (h : FrameHeader) (body : FrameBody) (accept : State → State) (s : State) : State :=
  if s.canReceive then
    match filterStep s.zoneNo s.own h body with
    | some .sender => ownNumberHeard s
    | some _ => s
    | none => if s.hasPlace then accept (noteAddressed h s) else noteAddressed h s
  else s

/-- A frame other than an announce: filters, role trust, owning unit. -/
def onFrame (h : FrameHeader) (body : FrameBody) (f : State → State) (s : State) : State :=
  filterFrame h body (trustFrame h body f) s

/-- An honoured frame acts at FIXED and GATEWAY stations only (R138). -/
def atMachine (f : State → State) (s : State) : State := if s.isMachine then f s else s

/-! ### The receive path (R19) -/

/-- The receive path becomes `p`. -/
def setPath (p : RxPath) (s : State) : State := { s with link := { s.link with path := p } }

/-- An accepted frame goes to the waiting place, or is discarded where that is taken (R23); discarded, it is never judged
under R22 and leaves its sender's last-heard time as it was: log entry 69. -/
def putWaiting (r : Received) (s : State) : State :=
  match s.link.waiting with
  | some _ => s
  | none => { s with link := { s.link with waiting := some r } }

/-- A complete frame: the path is idle again, and the frame goes through the filters; an accepted one counts for R17 and
waits for its unit (R19, R20, R21, R23). -/
def frameComplete (bytes : List Byte) (start : Nat) (s : State) : State :=
  let s1 := setPath .idle s
  match filterBytes s.zoneNo s.own bytes with
  | .inl .sender => ownNumberHeard s1
  | .inl _ => s1
  | .inr (h, _) => putWaiting { bytes := bytes, start := start, finish := s.clock.elapsed } (noteAddressed h s1)

/-- The body length field of a frame in collection is above 112. -/
def lengthBad (bytes : List Byte) : Bool := 6 ≤ bytes.length && 112 < fieldAt bytes 5 1

/-- All of 8 + L bytes have arrived. -/
def allArrived (bytes : List Byte) : Bool := 6 ≤ bytes.length && bytes.length == 8 + fieldAt bytes 5 1

/-- A byte joins the frame in collection. -/
def collectByte (bytes : List Byte) (start : Nat) (stopOk : Bool) (s : State) : State :=
  if !stopOk || lengthBad bytes then setPath (.waitQuiet s.clock.elapsed) s
  else if allArrived bytes then frameComplete bytes start s
  else setPath (.collecting bytes start s.clock.elapsed) s

/-- More than 3 ms have passed since the last byte of the frame in collection. -/
def State.gapOver (s : State) : Bool :=
  match s.link.path with
  | .collecting _ _ last => s.hasRun last 4
  | _ => false

/-- Quiet: 3 ms have passed with no start bit. -/
def State.quietOver (s : State) : Bool :=
  match s.link.path with
  | .waitQuiet since => s.hasRun since 3
  | _ => false

/-- The reading at the start bit of a byte that has just ended: its line time earlier, in whole milliseconds (R19). Log
entry 11. -/
def byteStart (elapsed : Nat) : Nat := elapsed - lineMs 1

/-- A byte arrives on LRX while the path can take it. After a gap the line counts as quiet from the last byte on, so a
byte that comes later begins a new frame. Log entry 43. -/
def takeByte (b : Byte) (stopOk : Bool) (s : State) : State :=
  match s.link.path with
  | .collecting bytes start last =>
    if s.hasRun last 4 then
      -- the gap has abandoned the frame and the line has been quiet since: this byte begins a new one
      collectByte [b] (byteStart s.clock.elapsed) stopOk s
    else collectByte (bytes ++ [b]) start stopOk s
  | .idle => collectByte [b] (byteStart s.clock.elapsed) stopOk s
  | .waitQuiet since =>
    if s.hasRun since 3 then collectByte [b] (byteStart s.clock.elapsed) stopOk s else setPath (.waitQuiet s.clock.elapsed) s

end Sys2Proof.Machine
end

