-- ==== Sys2Proof/Machine/Results.lean ====
section
/-! DEFINITION. The bytes of a response: the layout of its result fields, and the frame a READ transfer shifts out (R194). The
spec gives IDENTIFY's layout, the presence byte and the layouts of Section 12; the order and widths of the other fields are
the model's choice (log entry 53): in the order of the rule that lists them, each in the width of Section 12 or in the
fewest bytes that hold its range, an enumeration by its place in its table. -/

namespace Sys2Proof.Machine

/-! ### Fields -/

/-- A field that may be absent: its presence byte, then the field where it is present (R194). -/
def optBytes {α : Type} (f : α → List Byte) : Option α → List Byte
  | none => [0#8]
  | some x => 1#8 :: f x

/-- A flag in a byte. -/
def flagByte (b : Bool) : List Byte := be 1 (flagNat b)

/-- A present key. -/
def presentKey (k : Key) : List Byte := keyBytes (some k)

/-- A time quality, H'FF for NONE as in an announce (Section 12). -/
def qualityBytes (q : Option Nat) : List Byte := be 1 (q.getD 0xFF)

/-- A list after its length. -/
def listBytes {α : Type} (f : α → List Byte) (xs : List α) : List Byte := be 1 xs.length ++ xs.flatMap f

/-- A number in two's complement of 5 bytes, for a step of zone time in seconds. -/
def signedBytes (n : Int) : List Byte := be 5 (n % 1099511627776).toNat

def powerCode : PowerState → Nat
  | .awake => 0 | .listening => 1 | .dormant => 2

def slotCode : TariffSlot → Nat
  | .active => 0 | .pending => 1 | .retired => 2

def partCodeOf : TariffPart → Nat
  | .header => 0 | .ladder0 => 1 | .ladder1 => 2 | .ladder2 => 3 | .ladder3 => 4 | .dayParts => 5 | .classes => 6
  | .calendar => 7

def checkCode : TariffCheck → Nat
  | .ladderHeader => 1 | .bandRange => 2 | .daypartRange => 3 | .classLadder => 4 | .ladderReference => 5
  | .daypartOverlap => 6 | .calendarDate => 7 | .generation => 8

def permitCheckCode : CheckResult → Nat
  | .unverified => 0 | .notFound => 1 | .revoked => 2 | .suspended => 3 | .notYetValid => 4 | .expired => 5
  | .wrongZone => 6 | .staleValid => 7 | .valid => 8

def journalCode : JournalKind → Nat
  | .paid => 0 | .permitUse => 1 | .allowanceUse => 2

def eventCode : EventName → Nat
  | .visit => 0 | .paged => 1 | .collectionTaken => 2 | .saleAbandoned => 3 | .faultChanged => 4 | .tariffReceived => 5
  | .tariffChanged => 6 | .sectionUpdated => 7 | .roundOpened => 8 | .visitExpired => 9 | .collectionAcked => 10
  | .reportReceived => 11 | .sheetFull => 12 | .senseChanged => 13 | .timeAdopted => 14 | .supplyLow => 15
  | .queueOverrun => 16

def faultCauseCode : FaultCause → Nat
  | .raise => 0 | .ack => 1 | .clear => 2 | .copy => 3 | .evict => 4 | .discard => 5

def settledCode : Settled → Nat
  | .disabled => 0 | .unsettled => 1 | .inactive => 2 | .active => 3

/-! ### Records -/

def resetCauseBytes (c : ResetCause) : List Byte :=
  be 1 (match c.kind with
    | .powerOn => 0
    | .resetN => 1
    | .remoteRestart => 2)
    ++ optBytes (fun p => be 1 (powerCode p)) c.powerBefore ++ flagByte c.saleLost ++ optBytes (be 1) c.engineer

def countsBytes (counts : List Nat) : List Byte := counts.flatMap (be 2)

/-- A fault entry as a result (Table 9.2). -/
def faultResultBytes (e : FaultEntry) : List Byte :=
  be 1 e.owner ++ be 1 (faultCode e.kind) ++ be 1 e.subject ++ be 1 (faultStateCode e.state)
    ++ optBytes (be 4) e.firstRaised ++ optBytes (be 4) e.lastRaised ++ be 1 e.occurrences ++ be 4 e.change

/-- What FAULT_CHANGED gives of an entry (R167). -/
def faultFiguresBytes (f : FaultFigures) : List Byte :=
  be 1 (faultStateCode f.state) ++ be 1 f.occurrences ++ optBytes (be 4) f.lastRaised ++ be 4 f.change

def eventBytes : Event → List Byte
  | .visit round collector => be 2 round ++ be 1 collector
  | .paged sender code => be 1 sender ++ be 2 code
  | .collectionTaken attended round segment counts coinTotal totalValue form =>
    flagByte attended ++ be 2 round ++ optBytes (fun g => be 2 g.1 ++ be 4 g.2.1 ++ be 4 g.2.2) segment
      ++ countsBytes counts ++ be 2 coinTotal ++ be 4 totalValue ++ flagByte (form == .extend)
  | .saleAbandoned cause escrow coinTotal card permit pin =>
    be 1 (match cause with
      | .inactivity => 0
      | .lifetime => 1
      | .dormant => 2)
      ++ escrow.flatMap (be 1) ++ be 1 coinTotal ++ optBytes (be 2) card ++ optBytes (be 3) permit ++ presentKey pin
  | .faultChanged owner kind subject cause after =>
    be 1 owner ++ be 1 (faultCode kind) ++ be 1 subject ++ be 1 (faultCauseCode cause) ++ optBytes faultFiguresBytes after
  | .tariffReceived key slot effectiveFrom reference supplier =>
    keyBytes key ++ be 1 (slotCode slot) ++ be 4 effectiveFrom ++ be 2 reference ++ be 1 supplier
  | .tariffChanged key reference previous byChangeover kept =>
    keyBytes key ++ be 2 reference ++ optBytes presentKey previous ++ flagByte byChangeover ++ flagByte kept
  | .sectionUpdated i key previous byAmendment closed count supplier =>
    be 1 i ++ presentKey key ++ optBytes presentKey previous ++ flagByte byAmendment ++ flagByte closed ++ be 1 count
      ++ be 1 supplier
  | .roundOpened round collector => be 2 round ++ be 1 collector
  | .visitExpired round => be 2 round
  | .collectionAcked first last totalValue collector => be 2 first ++ be 2 last ++ be 6 totalValue ++ be 1 collector
  | .reportReceived station first last totalValue attended replaced =>
    be 1 station ++ be 2 first ++ be 2 last ++ be 6 totalValue ++ flagByte attended ++ flagByte replaced
  | .sheetFull station first last => be 1 station ++ be 2 first ++ be 2 last
  | .senseChanged group active time => be 1 group ++ flagByte active ++ optBytes (be 4) time
  | .timeAdopted sender outcome quality seconds step =>
    be 1 sender
      ++ be 1 (match outcome with
        | .fromUnset => 0
        | .fromHigher => 1
        | .equalStep => 2)
      ++ be 1 quality ++ be 4 seconds ++ optBytes signedBytes step
  | .supplyLow .warning => be 1 0 ++ [0#8, 0#8]
  | .supplyLow .withdrawn => be 1 1 ++ [0#8, 0#8]
  | .supplyLow (.restored since seconds) => be 1 2 ++ optBytes (be 4) since ++ optBytes (be 5) (some seconds)
  | .queueOverrun lost count => be 1 (eventCode lost) ++ be 2 count

/-- A host event entry: its name, the zone time of its posting, its fields. -/
def entryBytes (e : EventEntry) : List Byte :=
  be 1 (match e.event with
    | .visit _ _ => 0 | .paged _ _ => 1 | .collectionTaken _ _ _ _ _ _ _ => 2 | .saleAbandoned _ _ _ _ _ _ => 3
    | .faultChanged _ _ _ _ _ => 4 | .tariffReceived _ _ _ _ _ => 5 | .tariffChanged _ _ _ _ _ => 6
    | .sectionUpdated _ _ _ _ _ _ _ => 7 | .roundOpened _ _ => 8 | .visitExpired _ => 9 | .collectionAcked _ _ _ _ => 10
    | .reportReceived _ _ _ _ _ _ => 11 | .sheetFull _ _ _ => 12 | .senseChanged _ _ _ => 13
    | .timeAdopted _ _ _ _ _ => 14 | .supplyLow _ => 15 | .queueOverrun _ _ => 16)
    ++ optBytes (be 4) e.time ++ eventBytes e.event

def peerBytes (e : PeerEntry) (heardAge : Nat) (dormantAge : Option Nat) : List Byte :=
  be 1 e.station ++ be 1 (roleCode e.role) ++ qualityBytes e.quality ++ be 4 heardAge ++ optBytes (be 4) dormantAge
    ++ be 1 (match e.status with
      | .live => 0
      | .dormant => 1
      | .silent => 2)
    ++ flagByte e.dormant ++ flagByte e.hostAwake ++ flagByte e.reports ++ optBytes presentKey e.active
    ++ optBytes presentKey e.pending ++ optBytes (be 4) e.pendingEff ++ e.sections.flatMap (optBytes presentKey)
    ++ be 4 e.faultCtr ++ be 2 e.usageCtr ++ be 2 e.usageDay ++ be 1 e.due ++ be 2 e.round ++ optBytes (be 1) e.collector
    ++ be 1 (roundStateCode e.roundState)

def replRowBytes (r : ReplRow) : List Byte :=
  optBytes presentKey r.wanted ++ be 1 r.candidates ++ optBytes (be 1) r.lowest ++ be 1 r.excluded ++ be 1 r.timeouts
    ++ optBytes presentKey r.declined

def intakePhaseCode : Option IntakeRow → Nat
  | none => 0
  | some i =>
    match i.phase with
    | .requesting => 1
    | .receiving => 2

/-- What an intake that is not IDLE gives beside its state. -/
def intakeBytes (i : IntakeRow) : List Byte :=
  be 1 (objCode i.obj) ++ presentKey i.key ++ be 1 i.provider ++ be 1 i.next ++ optBytes (be 1) i.count

def supplyObjectCode : SupplyObject → Nat
  | .image obj => objCode obj
  | .faults => 9
  | .usage => 10

def figuresBytes (f : LadderFigures) : List Byte :=
  flagByte f.blank ++ be 1 f.lastBand ++ optBytes (be 2) f.length ++ optBytes (be 3) f.capMinutes

def tariffEntryBytes : TariffEntry → List Byte
  | .plain bytes => bytes
  | .ladderHeader bytes figures => bytes ++ figuresBytes figures
  | .band bytes time price inLadder => bytes ++ be 4 time ++ be 4 price ++ flagByte inLadder

def quoteBytes (q : QuoteResult) : List Byte :=
  keyBytes q.key ++ optBytes classEntryBytes q.treatment ++ be 1 q.ladder ++ be 4 q.start ++ be 4 q.paidFrom
    ++ be 2 q.steps ++ be 2 q.paidMinutes ++ be 2 q.price ++ be 2 q.excess ++ optBytes (be 2) q.nextStep ++ be 4 q.expiry
    ++ optBytes flagByte q.covers ++ flagByte q.horizon

/-- The status of an outcome and, where it is SOLD, its fields (R91). -/
def outcomeParts : QuoteOutcome → Status × Option QuoteResult
  | .sold q => (.ok, some q)
  | .noStayNow => (.noStayNow, none)
  | .nothingToSell => (.nothingToSell, none)
  | .notEnough => (.notEnough, none)
  | .allowanceExhausted => (.allowanceExhausted, none)
  | .allowanceUnavailable => (.allowanceUnavailable, none)

/-- An outcome: the code of its status, then its fields, which are absent where it is not SOLD. -/
def outcomeBytes (o : QuoteOutcome) : List Byte :=
  be 1 (statusCode (outcomeParts o).1) ++ optBytes quoteBytes (outcomeParts o).2

def ticketBytes (t : Ticket) : List Byte :=
  be 4 t.seq ++ be 4 t.start ++ be 4 t.paidFrom ++ be 4 t.expiry ++ be 2 t.paid ++ be 2 t.excess
    ++ optBytes (be 3) t.permit ++ presentKey t.key ++ be 1 (journalCode t.kind) ++ flagByte t.stale
    ++ flagByte t.horizon ++ optBytes (be 2) t.granted ++ optBytes flagByte t.covers

def journalBytes (r : JournalRec) : List Byte :=
  be 4 r.seq ++ be 4 r.time ++ be 1 (journalCode r.kind) ++ presentKey r.key ++ be 1 r.ladder ++ be 2 r.amount
    ++ optBytes (fun c => c.flatMap (be 1)) r.coins ++ optBytes (be 2) r.card ++ be 4 r.start ++ be 4 r.expiry
    ++ optBytes (be 2) r.granted ++ optBytes (be 3) r.permit ++ flagByte r.stale ++ be 2 r.segment

def collectionBytes (d : CollectionData) : List Byte :=
  be 2 d.firstSeg ++ be 2 d.lastSeg ++ be 2 d.round ++ d.counts.flatMap (be 4) ++ be 4 d.coinTotal ++ be 6 d.totalValue
    ++ be 4 d.firstSeq ++ be 4 d.lastSeq ++ optBytes (be 4) d.removal ++ flagByte d.attended ++ flagByte d.mixed

def ctxBytes (c : RoundCtx) : List Byte :=
  be 2 c.round ++ optBytes (be 1) c.collector ++ be 1 (roundStateCode c.state) ++ optBytes (be 2) c.visitRecord

def spanBytes (sp : Span) : List Byte := be 2 sp.firstSeg ++ be 2 sp.lastSeg ++ be 4 sp.firstSeq ++ be 4 sp.lastSeq

/-- The settings of a group; a group has them once Setup is done, before which no READ_SENSE is answered. -/
def settingsBytes : Option SenseSettings → List Byte
  | none => [0#8, 0#8, 0#8, 0#8, 0#8]
  | some g => flagByte g.enable ++ be 1 g.input ++ be 1 g.period ++ be 1 g.debounce ++ flagByte g.activeHigh

def senseRowBytes (r : SenseRow) : List Byte :=
  settingsBytes r.settings ++ be 1 (settledCode r.settled) ++ flagByte r.runLevel ++ be 1 r.runCount
    ++ be 2 r.changes

/-- The last wake cause and, for EVENT, the event's name (R182). -/
def wakeCauseBytes : WakeCause → List Byte
  | .reset => be 1 0 ++ [0#8]
  | .button => be 1 1 ++ [0#8]
  | .supplyRestored => be 1 2 ++ [0#8]
  | .event name => be 1 3 ++ optBytes (fun n => be 1 (eventCode n)) (some name)

/-! ### Results and responses -/

/-- The result bytes of IDENTIFY (R194). -/
def identifyBytes (part revision : Nat) (unique : BitVec 48) (tag : Option (List Byte)) : List Byte :=
  be 2 part ++ be 2 revision ++ be 6 unique.toNat ++ be 1 (tag.getD []).length ++ tag.getD []

/-- The result bytes of a response. -/
def resultBytes : Result → List Byte
  | .nothing => []
  | .identity part revision unique tag => identifyBytes part revision unique tag
  | .status power setup time quality depth badFrame overrun cause =>
    be 1 (powerCode power) ++ optBytes (fun r => be 2 r.1 ++ be 1 r.2.1 ++ be 1 (roleCode r.2.2)) setup
      ++ optBytes (be 4) time ++ qualityBytes quality ++ be 1 depth ++ flagByte badFrame ++ flagByte overrun
      ++ resetCauseBytes cause
  | .setup changed before => flagByte changed ++ optBytes (fun h => be 2 h.1 ++ be 1 h.2) before
  | .event e remaining => entryBytes e ++ be 1 remaining
  | .assetTag tag => be 1 tag.length ++ tag
  | .time previous quality => optBytes (be 4) previous ++ qualityBytes quality
  | .peer e heardAge dormantAge => peerBytes e heardAge dormantAge
  | .replication rows intake supplyCount supplyHead faultsAhead usageAhead =>
    rows.flatMap replRowBytes ++ be 1 (intakePhaseCode intake) ++ optBytes intakeBytes intake ++ be 1 supplyCount
      ++ optBytes (fun h => be 1 h.1 ++ be 1 (supplyObjectCode h.2.1) ++ be 1 h.2.2) supplyHead ++ be 1 faultsAhead
      ++ be 1 usageAhead
  | .tariff key effectiveFrom reference entry =>
    keyBytes key ++ be 4 effectiveFrom ++ be 2 reference ++ tariffEntryBytes entry
  | .draftBegun key effectiveFrom => optBytes presentKey key ++ optBytes (be 4) effectiveFrom
  | .draftPart size => be 1 size
  | .draftIndex index => be 1 index
  | .draftEntry index bytes => be 1 index ++ bytes
  | .invalidTariff check part => be 1 (checkCode check) ++ optBytes (fun p => be 1 (partCodeOf p.1) ++ be 1 p.2) part
  | .published key slot => presentKey key ++ be 1 (slotCode slot)
  | .quote q => quoteBytes q
  | .sale pin quote => presentKey pin ++ outcomeBytes quote
  | .quoted quote => outcomeBytes quote
  | .salePermit check quote => be 1 (permitCheckCode check) ++ outcomeBytes quote
  | .ticket t => ticketBytes t
  | .cancelled escrow coinTotal card permit =>
    escrow.flatMap (be 1) ++ be 1 coinTotal ++ optBytes (be 2) card ++ optBytes (be 3) permit
  | .permit check i key behind record treatment allowance =>
    be 1 (permitCheckCode check) ++ be 1 i ++ optBytes presentKey key ++ flagByte behind ++ optBytes id record
      ++ optBytes classEntryBytes treatment
      ++ optBytes (fun a => be 2 a.1 ++ optBytes (fun u => be 2 u.1 ++ be 2 u.2) a.2) allowance
  | .sectionKey key count => presentKey key ++ be 1 count
  | .sectionCount count => be 1 count
  | .sectionRead key closed count behindAge advertised record =>
    optBytes presentKey key ++ flagByte closed ++ be 1 count ++ optBytes (be 5) behindAge
      ++ optBytes (fun a => presentKey a.1 ++ be 1 a.2) advertised ++ optBytes id record
  | .usage unavailable counter day entries entry =>
    optBytes (fun u => be 1 (match u with
      | .clockOrDay => 1
      | .counterFull => 2
      | .unsettled => 3)) unavailable
      ++ be 2 counter ++ be 2 day ++ be 1 entries
      ++ optBytes (fun e => listBytes (fun c => be 1 c.1 ++ be 2 c.2) e.1.contribs ++ flagByte e.1.saturated ++ be 2 e.2)
          entry
  | .tally counts coinTotal totalValue mixed capacity fill nextSeq oldest openSeg lastSeg spans protectedCount fillJ full
      due =>
    counts.flatMap (fun c => be 2 c.1 ++ optBytes (be 2) c.2) ++ be 2 coinTotal ++ be 4 totalValue ++ flagByte mixed
      ++ be 2 capacity ++ be 1 fill ++ be 5 nextSeq ++ optBytes (be 4) oldest
      ++ optBytes (fun o => be 2 o.number ++ be 4 o.firstSeq ++ be 2 o.count) openSeg ++ be 2 lastSeg
      ++ listBytes spanBytes spans ++ be 2 protectedCount ++ be 1 fillJ ++ flagByte full ++ be 1 due
  | .journal r isProtected => journalBytes r ++ flagByte isProtected
  | .roundPlaced round placed => be 2 round ++ flagByte placed
  | .placed placed => flagByte placed
  | .sheet round opened stillOpen count entry =>
    be 2 round ++ optBytes (be 4) opened ++ flagByte stillOpen ++ be 1 count
      ++ optBytes (fun e => be 1 e.1 ++ collectionBytes e.2) entry
  | .round ctx remaining log dueList counter =>
    ctxBytes ctx ++ optBytes (be 2) remaining ++ listBytes (fun r => collectionBytes r.1 ++ flagByte r.2) log
      ++ listBytes (fun d => be 1 d.1 ++ be 1 d.2) dueList ++ optBytes (be 2) counter
  | .fault e => faultResultBytes e
  | .faultRead e counter entries own => optBytes faultResultBytes e ++ be 4 counter ++ be 1 entries ++ be 1 own
  | .sense groups => groups.flatMap senseRowBytes
  | .power state supply warningLeft dormantDue cause periods last =>
    be 1 (powerCode state) ++ optBytes flagByte supply ++ optBytes (be 1) warningLeft ++ flagByte dormantDue
      ++ wakeCauseBytes cause ++ be 2 periods ++ optBytes (be 4) (last.bind (·.1))
      ++ optBytes (be 5) (last.map (·.2))

/-- The frame of a response: status, code, length, results and check byte (R194). -/
def responseFrame (r : Response) : List Byte := responseBytes (statusCode r.status) r.code (resultBytes r.result)

end Sys2Proof.Machine
end

