-- ==== Sys2Proof/Machine/PortOps.lean ====
section
/-! DEFINITION. The host port: how a request is taken and answered, and what a Setup does (Section 11). -/

namespace Sys2Proof.Machine

/-- What a command answers: a status, its result fields, and the state it leaves. -/
abbrev Answer := Status × Result × State

/-- A refusal: the status alone, and the state as it was left. -/
def refuse (st : Status) (s : State) : Answer := (st, .nothing, s)

/-- A command taken. -/
def okay (r : Result) (s : State) : Answer := (.ok, r, s)

/-- The host port becomes `p`. -/
def setPort (p : Port) (s : State) : State := { s with port := p }

/-- The port places a response in the buffer (R183). -/
def respond (code : Nat) (a : Answer) : State :=
  setPort { a.2.2.port with buffer := some { status := a.1, code := code, result := a.2.1 } } a.2.2

/-- No request is taken: an unread response, or a restart in progress (R169, R183, R184). -/
def State.portBusy (s : State) : Bool := s.port.buffer.isSome || s.faults.restartBy.isSome

/-- A request that finds the port busy is discarded and counted as an overrun (R184). -/
def overrun (s : State) : State := setPort { s.port with overrunSeen := true } s

/-- A WRITE that ends: discarded where the port is busy, else judged. -/
def onWrite (judge : State → State) (s : State) : State := if s.portBusy then overrun s else judge s

/-- A request of a command code, judged by `body` alone. -/
def hostAny (code : Nat) (body : State → Answer) (s : State) : Host.Outcome State Fault Refusal :=
  act (onWrite fun t => respond code (body t)) s

/-- Setup first and role second, before any check of the command's own (Table 11.1). -/
def guarded (roles : State → Bool) (body : State → Answer) (s : State) : Answer :=
  if !s.setupDone then refuse .notSetUp s
  else if !roles s then refuse .roleRefused s
  else body s

/-- A request open to the stations that `roles` admits, once Setup is done. -/
def host (code : Nat) (roles : State → Bool) (body : State → Answer) (s : State) : Host.Outcome State Fault Refusal :=
  hostAny code (guarded roles body) s

/-- Every role. -/
def anyRole (_ : State) : Bool := true

/-- GATEWAY stations. -/
def gatewayOnly (s : State) : Bool := s.isRole .gateway

/-- COLLECTOR stations. -/
def collectorOnly (s : State) : Bool := s.isRole .collector

/-- ENGINEER stations. -/
def engineerOnly (s : State) : Bool := s.isRole .engineer

/-- FIXED and GATEWAY stations. -/
def machineOnly (s : State) : Bool := s.isMachine

/-- A frame is offered to the transmit queue; the answer says whether it was placed. -/
def placed (dest : Nat) (body : FrameBody) (s : State) : Answer :=
  okay (.placed s.canPlace) (place .other dest body s)

/-! ### Setup (R187, R188) -/

/-- A changed or absent home: the discards in their order, then the new home (R188). -/
def changeHome (home : Nat × Nat) (s : State) : State :=
  let s0 := noteIf (s.permits.ownCtr ≠ 0) s
  { s0 with
    tariff := { s.tariff with active := none, pending := none }
    permits := { s.permits with
      sections := List.replicate 8 PermitSection.never
      usage := removeContribs s.own (fun _ => true) s.permits.usage
      ownCtr := 0, ownDay := s.clock.rolloverDay }
    faults := { s.faults with table := s.faults.table.filter (·.owner != s.own) }
    port := { s.port with home := some home } }

/-- A sense group at the completion of Setup (R171). -/
def startGroup (elapsed : Nat) (g : SenseSettings) : SenseGroup :=
  { settings := some g, settled := if g.enable then .unsettled else .disabled, runLevel := false, runCount := 0
    changes := 0, lastSample := elapsed }

/-- The sense groups take their settings. -/
def senseSetup (s : State) : State :=
  { s with sense := { s.sense with
      groups := ((s.port.setup.map (·.sense)).getD []).map (startGroup s.clock.elapsed) } }

/-- The permit store completes a rollover that a reset interrupted, then judges its sections (R108, R109, R122). -/
def permitSetup (s : State) : State :=
  let s1 := if s.permits.ownDay < s.clock.rolloverDay then rolloverUsage s.clock.rolloverDay s else s
  clearStale (judgeSections s1)

/-- The context does not fit the station's role; a FIXED or GATEWAY station in IDLE holds round 0 and no collector (R138). A
COLLECTOR's own context is kept in whatever state. Log entry 19. -/
def contextUnfit (s : State) : Bool :=
  match s.port.setup with
  | none => false
  | some r =>
    match r.role with
    | .fixed | .gateway =>
      s.rounds.ctx.collector == some s.own
        || (s.rounds.ctx.state == .idle && (s.rounds.ctx.round != 0 || s.rounds.ctx.collector.isSome))
    | .collector => s.rounds.ctx.collector != some s.own
    | .engineer => true

/-- The round unit judges its context against the role, marks its log report due, and judges a REMOVED context where both
groups are known (R138, R148, R152). -/
def roundSetup (s : State) : State :=
  let s1 := markAllDue (if contextUnfit s then setCtx RoundCtx.idle s else s)
  if s1.isMachine && s1.groupKnown 0 && s1.groupKnown 1 then judgeRemoved s1 else s1

/-- The units take the completion of Setup in their order (R187). -/
def completeSetup (s : State) : State :=
  roundSetup (cashSetup (permitSetup (raiseMissing (updateIntake (judgeWant none (senseSetup s))))))

/-- A SETUP that passes: the record, the home, Setup-done, the units (R187). -/
def carryOutSetup (r : SetupRecord) (s : State) : State :=
  let home := (r.zone, r.station)
  let s1 := if s.port.home = some home then s else changeHome home s
  completeSetup (setPort { s1.port with setup := some r } s1)

end Sys2Proof.Machine
end

