-- ==== Sys2Proof/Machine/CashFamily.lean ====
section
/-! DEFINITION. The commands that read the accounts (7.7). -/

namespace Sys2Proof.Machine

/-- The counts per denomination index with the values given at Setup, absent beyond the list. -/
def tallyRows (counts denoms : List Nat) : List (Nat × Option Nat) :=
  (List.range 8).map fun i => (counts[i]?.getD 0, denoms[i]?)

/-- The judgement of READ_TALLY. -/
def readTallyBody (s : State) : Answer :=
  let c := s.cash
  okay
    (.tally (tallyRows c.counts s.denoms) c.coinTotal c.totalValue c.mixed s.capacity (boxFill c s.capacity) c.nextSeq
      (oldestSeq c) c.openSeg c.lastSeg c.spans (protectedCount c) (journalFill c) (journalFull c) s.dueFigure) s

/-- READ_TALLY (R136). -/
def execReadTally (s : State) : Host.Outcome State Fault Refusal := host 31 anyRole readTallyBody s

/-- The sequence that READ_JOURNAL asks for: 0 is the newest. -/
def askedSeq (c : Cash) (q : Nat) : Nat := if q = 0 then c.nextSeq - 1 else q

/-- The judgement of READ_JOURNAL. -/
def readJournalBody (q : Nat) (s : State) : Answer :=
  if 4294967295 < q then refuse .badParameter s
  else
    match findRecord s.cash (askedSeq s.cash q) with
    | none => refuse .notFound s
    | some r => okay (.journal r (isProtected s.cash r.seq)) s

/-- READ_JOURNAL (R137). -/
def execReadJournal (q : Nat) (s : State) : Host.Outcome State Fault Refusal := host 32 anyRole (readJournalBody q) s

end Sys2Proof.Machine
end

