-- ==== Sys2Proof/Machine/ClockFamily.lean ====
section
/-! DEFINITION. The commands and time-driven events of the zone clock, and the marks of the zone cycle (Section 1). -/

namespace Sys2Proof.Machine

/-- The judgement of SET_TIME: quality 3, the age timer restarted, then the step and its consequences (R7, R10). -/
def setTimeBody (seconds : Nat) (s : State) : Answer :=
  if 4294967295 < seconds then refuse .badParameter s
  else okay (.time s.zoneSec s.clock.quality) (setZone (seconds * 1000) (setQuality 3 s))

/-- SET_TIME (R7). -/
def execSetTime (seconds : Nat) (s : State) : Host.Outcome State Fault Refusal := host 6 anyRole (setTimeBody seconds) s

/-- The quality age timer has run 6 h at a quality above 0 (R6). -/
def State.ageOver (s : State) : Bool :=
  match s.clock.quality, s.clock.ageStart with
  | some q, some t => 1 ≤ q && s.hasRun t 21600000
  | _, _ => false

/-- QUALITY_AGE_EXPIRY: the quality drops by one level and the timer restarts (R6). -/
def execQualityAgeExpiry (s : State) : Host.Outcome State Fault Refusal :=
  act (fun t => if t.ageOver then setQuality (t.clock.quality.getD 0 - 1) t else t) s

/-- DAY_ROLLOVER (R12). -/
def execDayRollover (s : State) : Host.Outcome State Fault Refusal := act makeRollover s

/-- CHANGEOVER (R13, R71). -/
def execChangeover (s : State) : Host.Outcome State Fault Refusal := act changeoverIfDue s

/-- A mark is given at its instant, once (R14). -/
def giveMark (m : Mark) (f : State → State) (s : State) : State :=
  if s.markDue m then f { s with clock := { s.clock with marksGiven := m :: s.clock.marksGiven } } else s

/-- What a cycle start does: the receiver turns on, declined keys are forgotten, the cycle counts toward settlement
(R16, R17, R40, R123). -/
def cycleStart (s : State) : State :=
  judgeSettled
    { s with
      link := { newCycle s.link with heldOn := true }
      repl := { s.repl with declined := [] }
      permits := { s.permits with cycleMarks := min 2 (s.permits.cycleMarks + 1) } }

/-- CYCLE_START_MARK (R14). -/
def execCycleStartMark (lcd : Bool) (s : State) : Host.Outcome State Fault Refusal :=
  act (giveMark .cycleStart (fun t => cycleStart (setLcd lcd t))) s

/-- OWN_SLOT_MARK: the announce, or the entry to DORMANT where none can be sent (R24, R180). -/
def execOwnSlotMark (s : State) : Host.Outcome State Fault Refusal :=
  act (giveMark .ownSlot (fun t => ownSlot (t.clock.zone.getD 0) t)) s

/-- An exchange frame is on the line: the head of the transmit queue. -/
def headOnLine (l : Link) : Bool :=
  match l.line with
  | some (.exchange _) => true
  | _ => false

/-- What the start of an exchange period does: the hold of R17 is decided, medium access begins afresh with attempt 0
(R15, R32), refused placements are tried again (R42, R50, R150). That the attempt number becomes 0 also where the head frame
last waited for an idle medium: log entry 75. That a mark which a backward step has given again does so to a head frame whose
backoff wait still runs is the model's choice: log entry 84. -/
def exchangeStart (s : State) : State :=
  let held := s.power.state == .awake || s.holdsReceiver
  let s1 :=
    { s with link := { s.link with
        heldOn := held, access := .off
        tx := if headOnLine s.link then s.link.tx else headAttempt 0 s.link.tx } }
  releaseHeld (retryPlacements s1)

/-- EXCHANGE_PERIOD_MARK (R14, R17). -/
def execExchangePeriodMark (lcd : Bool) (s : State) : Host.Outcome State Fault Refusal :=
  act (giveMark .exchangeStart (fun t => exchangeStart (setLcd lcd t))) s

/-- Medium access at the end of an exchange period: what had begun for the head frame is held for the next
exchange-period mark (R15, R32). R15 and R32 name a frame whose backoff wait still runs; that a head frame which waits for the
medium to become idle, no wait running, is held too and begins afresh with attempt number 0 is the model's choice: log entry
75. -/
def heldAccess (a : Access) : Access := if a == .off then .off else .held

/-- What the end of an exchange period does: the receiver's hold ends and the head frame waits (R15, R17, R32). -/
def exchangeEnd (s : State) : State :=
  { s with link := { s.link with heldOn := false, access := heldAccess s.link.access } }

/-- END_OF_EXCHANGE_MARK (R14, R15, R17). -/
def execEndOfExchangeMark (s : State) : Host.Outcome State Fault Refusal := act (giveMark .endOfExchange exchangeEnd) s

end Sys2Proof.Machine
end

