-- ==== Sys2Proof/Machine/FaultFamily.lean ====
section
/-! DEFINITION. The commands and frames of the fault unit: raising, acknowledging, clearing and reading faults, remote restart,
paging (Section 9). -/

namespace Sys2Proof.Machine

/-! ### RAISE_FAULT, ACK_FAULT, CLEAR_FAULT, READ_FAULTS -/

/-- The kind that a host may raise: kinds 1..8 (R159). -/
def hostKind (code : Nat) : Option FaultKind := if code ≤ 8 then faultKindOf code else none

/-- The answer with the own entry of a kind and subject as it stands. -/
def faultAnswer (kind : FaultKind) (subject : Nat) (s : State) : Answer :=
  match s.ownFault kind subject with
  | some e => okay (.fault e) s
  | none => refuse .notFound s

/-- The judgement of RAISE_FAULT. -/
def raiseFaultBody (code : Nat) (s : State) : Answer :=
  match hostKind code with
  | none => refuse .badParameter s
  | some k =>
    match tryRaise k 0 s with
    | none => refuse .tableFull s
    | some t => faultAnswer k 0 t

/-- RAISE_FAULT (R159). -/
def execRaiseFault (code : Nat) (s : State) : Host.Outcome State Fault Refusal := host 38 anyRole (raiseFaultBody code) s

/-- The kind named by a key parameter in range: owner 1..32, a defined kind, a subject 0..32 that is 0 for kinds 1..16
(R160). -/
def keyKind (owner code subject : Nat) : Option FaultKind :=
  if stationOk owner && subject ≤ 32 && (16 < code || subject == 0) then faultKindOf code else none

/-- The judgement of ACK_FAULT. -/
def ackFaultBody (owner code subject : Nat) (s : State) : Answer :=
  match keyKind owner code subject with
  | none => refuse .badParameter s
  | some k =>
    if (findFault owner k subject s.faults.table).isNone then refuse .notFound s
    else if owner = s.own then faultAnswer k subject (ackFault k subject s)
    else placed owner (.faultAck k subject) s

/-- ACK_FAULT (R160). -/
def execAckFault (owner code subject : Nat) (s : State) : Host.Outcome State Fault Refusal :=
  host 39 gatewayOnly (ackFaultBody owner code subject) s

/-- The roles that CLEAR_FAULT is open to: every role for an own entry, ENGINEER for another owner's (R161). Log entry
40. -/
def clearRole (owner : Nat) (s : State) : Bool := owner == s.own || !stationOk owner || s.isRole .engineer

/-- The judgement of CLEAR_FAULT. -/
def clearFaultBody (owner code subject : Nat) (s : State) : Answer :=
  match keyKind owner code subject with
  | none => refuse .badParameter s
  | some k =>
    if owner = s.own then
      if (s.ownFault k subject).isNone then refuse .notFound s else faultAnswer k subject (clearFault k subject s)
    else placed owner (.faultClear k subject) s

/-- CLEAR_FAULT (R161). -/
def execClearFault (owner code subject : Nat) (s : State) : Host.Outcome State Fault Refusal :=
  host 40 (clearRole owner) (clearFaultBody owner code subject) s

/-- An entry stands at or after a key. -/
def atOrAfter (owner code subject : Nat) (e : FaultEntry) : Bool :=
  !keyBefore e.owner (faultCode e.kind) e.subject owner code subject

/-- The judgement of READ_FAULTS. Log entry 41. -/
def readFaultsBody (owner code subject : Nat) (s : State) : Answer :=
  if 32 < owner ∨ 32 < subject ∨ (faultKindOf code).isNone then refuse .badParameter s
  else
    let e := s.faults.table.find? (atOrAfter owner code subject)
    (if e.isSome then .ok else .notFound,
      .faultRead e s.faults.counter s.faults.table.length (s.faults.table.countP (·.owner == s.own)), s)

/-- READ_FAULTS (R168). -/
def execReadFaults (owner code subject : Nat) (s : State) : Host.Outcome State Fault Refusal :=
  host 41 anyRole (readFaultsBody owner code subject) s

/-! ### RESTART_STATION and PAGE_STATION -/

/-- A target is another station, 1..32. -/
def targetOk (s : State) (target : Nat) : Bool := stationOk target && target != s.own

/-- The judgement of RESTART_STATION. -/
def restartStationBody (target number : Nat) (s : State) : Answer :=
  if !targetOk s target || 4294967295 < number then refuse .badParameter s else placed target (.restart number) s

/-- RESTART_STATION (R169). -/
def execRestartStation (target number : Nat) (s : State) : Host.Outcome State Fault Refusal :=
  host 42 engineerOnly (restartStationBody target number) s

/-- The judgement of PAGE_STATION. -/
def pageStationBody (target code : Nat) (s : State) : Answer :=
  if !targetOk s target || 65535 < code then refuse .badParameter s else placed target (.page code) s

/-- The roles that may page (R170). -/
def pagerRole (s : State) : Bool := s.isRole .engineer || s.isRole .collector

/-- PAGE_STATION (R170). -/
def execPageStation (target code : Nat) (s : State) : Host.Outcome State Fault Refusal :=
  host 43 pagerRole (pageStationBody target code) s

/-! ### Frames -/

/-- A FAULT_REPORT: its entries, then the position of its sender (R57, R165). -/
def takeFaultReport (sender : Nat) (r : ReportBody) (s : State) : State :=
  match r with
  | .series ser part entries =>
    let s1 := entries.foldl (fun t e => applyCopy sender e t) s
    setFaultPos (faultAfterPart (s1.faultPosOf sender) ser part s.clock.elapsed) s1
  | .single counter entry =>
    let s1 := applyCopy sender entry s
    setFaultPos (faultAfterSingle (s1.faultPosOf sender) counter) s1

/-- FAULT_REPORT (R165). -/
def execFaultReport (h : FrameHeader) (r : ReportBody) (s : State) : Host.Outcome State Fault Refusal :=
  act (onFrame h (.faultReport r) (takeFaultReport h.sender r)) s

/-- FAULT_ACK (R160). -/
def execFaultAck (h : FrameHeader) (kind : FaultKind) (subject : Nat) (s : State) : Host.Outcome State Fault Refusal :=
  act (onFrame h (.faultAck kind subject) (ackFault kind subject)) s

/-- FAULT_CLEAR (R161). -/
def execFaultClear (h : FrameHeader) (kind : FaultKind) (subject : Nat) (s : State) :
    Host.Outcome State Fault Refusal :=
  act (onFrame h (.faultClear kind subject) (clearFault kind subject)) s

/-- The low 32 bits of the factory unique number (R189). -/
def restartNumber (s : State) : Nat := s.port.unique.toNat % 4294967296

/-- A RESTART that names the own number starts a remote restart (R169). Of two taken before the reset the later one's engineer
is named: log entry 63. -/
def takeRestart (sender number : Nat) (s : State) : State :=
  if number = restartNumber s then { s with faults := { s.faults with restartBy := some sender } } else s

/-- RESTART (R169). -/
def execRestart (h : FrameHeader) (number : Nat) (s : State) : Host.Outcome State Fault Refusal :=
  act (onFrame h (.restart number) (takeRestart h.sender number)) s

/-- PAGE (R170). -/
def execPage (h : FrameHeader) (code : Nat) (s : State) : Host.Outcome State Fault Refusal :=
  act (onFrame h (.page code) (postEvent (.paged h.sender code))) s

end Sys2Proof.Machine
end

