-- ==== Sys2Proof/Machine/LinkFamily.lean ====
section
/-! DEFINITION. The peer table, announces received, medium access and the receive path (Section 2). -/

namespace Sys2Proof.Machine

/-! ### READ_PEER (R30) -/

/-- Whole seconds of elapsed time since a reading, 0..4,294,967,295; a longer age is a free value. Log entry 18. -/
def State.ageOf (s : State) (reading : Nat) : Nat := fit32 ((s.clock.elapsed - reading) / 1000)

/-- The judgement of READ_PEER: the entry with the lowest number at or above the parameter; the readings are given as
ages. -/
def readPeerBody (station : Nat) (s : State) : Answer :=
  if 32 < station then refuse .badParameter s
  else
    match s.link.peers.find? (fun p => station ≤ p.station) with
    | none => refuse .notFound s
    | some p =>
      okay (.peer { p with lastHeard := 0, dormantHeard := none } (s.ageOf p.lastHeard) (p.dormantHeard.map s.ageOf)) s

/-- READ_PEER (R30). -/
def execReadPeer (station : Nat) (s : State) : Host.Outcome State Fault Refusal := host 7 anyRole (readPeerBody station) s

/-! ### Frames that reach no unit, and the receive path (R19 to R21) -/

/-- A complete frame given by its bytes is taken through the filters; one that passes them is not this command's. -/
def discardFrame (bytes : List Byte) (s : State) : State :=
  if s.canReceive then
    match filterBytes s.zoneNo s.own bytes with
    | .inl .sender => ownNumberHeard s
    | _ => s
  else s

/-- FRAME_DISCARDED (R20, R21). -/
def execFrameDiscarded (bytes : List Byte) (s : State) : Host.Outcome State Fault Refusal := act (discardFrame bytes) s

/-- RECEIVE_GAP_TIMEOUT: the frame in collection is abandoned and the path waits for quiet from its last byte (R19). Log
entry 43. -/
def execReceiveGapTimeout (s : State) : Host.Outcome State Fault Refusal :=
  act
    (fun t =>
      match t.link.path with
      | .collecting _ _ last => if t.gapOver then setPath (.waitQuiet last) t else t
      | _ => t) s

/-- A byte on LRX is part of another transmission, so LCD is high (Table 2.1); both pins are disregarded while the part
transmits (R18). Log entry 5. -/
def byteIn (b : Byte) (stopOk : Bool) (s : State) : State :=
  if s.link.line.isSome then s
  else
    let s1 := setLcd true s
    if s.setupDone && s.link.receiver then takeByte b stopOk s1 else s1

/-- BYTE_RECEIVED: a byte on LRX is taken while the link is on, the receiver on and nothing of ours on the line (R18,
R19). -/
def execByteReceived (b : Byte) (stopOk : Bool) (s : State) : Host.Outcome State Fault Refusal :=
  act (byteIn b stopOk) s

/-- LINE_QUIET: 3 ms have passed with no start bit and the path returns to idle (R19). -/
def execLineQuiet (s : State) : Host.Outcome State Fault Refusal :=
  act (fun t => if t.quietOver then setPath .idle t else t) s

/-! ### ANNOUNCE (R26, R28) -/

/-- The status that an announce gives its sender's entry (R28). -/
def announcedStatus (a : AnnounceBody) : PeerStatus := if a.dormant then .dormant else .live

/-- The quality recorded: NONE for a field above 3 (R26). -/
def recordedQuality (q : Option Nat) : Option Nat := q.filter (fun x => decide (x ≤ 3))

/-- The entry that an announce makes or overwrites (R26); an effective-from carried with an absent pending key is recorded
as absent. Log entry 44. -/
def announcedEntry (sender now : Nat) (a : AnnounceBody) (old : Option PeerEntry) : PeerEntry :=
  { station := sender, role := a.role, quality := recordedQuality a.quality, lastHeard := now
    dormantHeard := if a.dormant then some now else old.bind (·.dormantHeard)
    status := announcedStatus a, dormant := a.dormant, hostAwake := a.hostAwake, reports := a.reports
    active := a.active, pending := a.pending
    pendingEff := if a.pending.isSome then some a.pendingEff else none
    sections := a.sections, faultCtr := a.faultCtr, usageCtr := a.usageCtr, usageDay := a.usageDay, due := a.due
    round := a.round, collector := a.collector, roundState := a.roundState }

/-- The peer table takes the announce, and a changed status is told to the fault unit (R26, R28). -/
def takeEntry (sender : Nat) (a : AnnounceBody) (s : State) : State :=
  let old := s.peer sender
  let s1 := { s with link := { s.link with
    peers := insertPeer (announcedEntry sender s.clock.elapsed a old) s.link.peers } }
  match old with
  | none => s1
  | some p => if p.status = announcedStatus a then s1 else faultStatusNotice sender (announcedStatus a) s1

/-- An announce heard in a gathering window counts for the decision of R17. -/
def noteWindow (sender : Nat) (s : State) : State :=
  if s.inWindow then { s with link := { s.link with windowHeard := insertNat sender s.link.windowHeard } } else s

/-- The permit store's announce notice (R108, R123). -/
def permitAnnounceNotice (s : State) : State := judgeSettled (judgeSections s)

/-- An accepted announce: the peer table, then the five units in their order (R26). -/
def takeAnnounce (sender receptionMs : Nat) (a : AnnounceBody) (s : State) : State :=
  let s1 := noteWindow sender (judgeTime sender receptionMs a (takeEntry sender a s))
  let s2 := roundAnnounceNotice sender (replAnnounceNotice sender s1)
  permitAnnounceNotice (faultAnnounceNotice sender a.dormant s2)

/-- ANNOUNCE (R26): `receptionMs` is the time from the start of reception to its end. -/
def execAnnounce (h : FrameHeader) (receptionMs : Nat) (a : AnnounceBody) (s : State) :
    Host.Outcome State Fault Refusal :=
  act (filterFrame h (.announce a) (takeAnnounce h.sender receptionMs a)) s

/-! ### PEER_SILENCE (R28, R29) -/

/-- A peer entry falls silent. -/
def silentDue (s : State) (p : PeerEntry) : Bool :=
  s.power.state != .dormant && s.hasRun p.lastHeard 256000
    && (match p.status with
        | .live => true
        | .dormant =>
          (match p.dormantHeard with
            | some t => s.hasRun t 86400000
            | none => true)
        | .silent => false)

/-- The status of a station's entry becomes SILENT. -/
def makeSilent (station : Nat) (s : State) : State :=
  { s with link := { s.link with
      peers := s.link.peers.map fun p => if p.station == station then { p with status := .silent } else p } }

/-- PEER_SILENCE: the entry becomes SILENT, the station leaves the candidate lists, then the fault unit is told (R28, R39,
R164). That the station leaves at this row, and before the notice, is the model's choice: log entries 15 and 61. -/
def execPeerSilence (station : Nat) (s : State) : Host.Outcome State Fault Refusal :=
  act
    (fun t =>
      match t.peer station with
      | none => t
      | some p =>
        if silentDue t p then faultStatusNotice station .silent (dropCandidate station (makeSilent station t)) else t) s

/-! ### Medium access and transmissions (R32, R33) -/

/-- MEDIUM_IDLE: LCD goes low, and a frame that waits for it starts its backoff wait (R32). -/
def mediumIdleOp (s : State) : State :=
  let s1 := setLcd false s
  if s1.link.access == .waitIdle && s1.link.line.isNone && s1.inExchange then
    setAccess (.backoff s1.clock.elapsed) s1
  else s1

/-- MEDIUM_IDLE (R32). -/
def execMediumIdle (s : State) : Host.Outcome State Fault Refusal := act mediumIdleOp s

/-- BACKOFF_WAIT_EXPIRY: LCD is sampled when the wait has run (R15, R32). -/
def execBackoffWaitExpiry (lcd : Bool) (s : State) : Host.Outcome State Fault Refusal :=
  act (fun t => if t.backoffOver then expireBackoff (setLcd lcd t) else t) s

/-- FRAME_SENT: the last stop bit of an exchange frame has gone (R33). -/
def execFrameSent (lcd : Bool) (s : State) : Host.Outcome State Fault Refusal :=
  act (fun t => if t.frameOut then endFrame (setLcd lcd t) else t) s

/-- ANNOUNCE_ENDED: the last stop bit of the own announce has gone (R18, R32); the end that is the entry to DORMANT is
DORMANT_ENTRY's. -/
def execAnnounceEnded (lcd : Bool) (s : State) : Host.Outcome State Fault Refusal :=
  act (fun t => if t.announceOut && !t.entryDue then endAnnounce (setLcd lcd t) else t) s

end Sys2Proof.Machine
end

