-- ==== Sys2Proof/Machine/PermitFamily.lean ====
section
/-! DEFINITION. The commands and the frame of the permit store: checks, amendments, section loads, usage (Section 6). -/

namespace Sys2Proof.Machine

/-! ### CHECK_PERMIT (R112) -/

/-- The treatment reported with a check that applies: the ACTIVE set's for the record's class. -/
def checkTreat (s : State) (check : CheckResult) (p : Option PermitRec) : Option ClassEntry :=
  match p, s.tariff.active with
  | some r, some t => if checkApplies check then some (classEntry t r.cls) else none
  | _, _ => none

/-- The allowance reported under ALLOWANCE(k): the daily minutes, and the known usage with the minutes remaining, absent
while allowance use is unavailable. -/
def checkAllowance (s : State) (today : Nat) (p : Option PermitRec) (treat : Option ClassEntry) :
    Option (Nat × Option (Nat × Nat)) :=
  match p, treat with
  | some r, some c =>
    if c.kind == .allowance then
      let daily := r.allowance.getD 0
      let known := s.knownUsage r.number today daily
      some (daily, if s.unavailable.isSome then none else some (known, daily - known))
    else none
  | _, _ => none

/-- The judgement of CHECK_PERMIT. -/
def checkPermitBody (number : Nat) (s : State) : Answer :=
  if !permitNumberOk number then refuse .badParameter s
  else
    match s.today with
    | none => refuse .clockUnset s
    | some today =>
      let r := permitCheck s today number
      let i := number % 8
      let treat := checkTreat s r.1 r.2
      okay (.permit r.1 i (s.sectionKey i) (s.isBehind i) (r.2.map permitBytes) treat
        (checkAllowance s today r.2 treat)) s

/-- CHECK_PERMIT (R112). -/
def execCheckPermit (number : Nat) (s : State) : Host.Outcome State Fault Refusal :=
  host 23 anyRole (checkPermitBody number) s

/-! ### Amendments (R113, R115) -/

/-- The change that the data of AMEND_PERMIT names, if it is well formed (R113, step 1). -/
def amendChange : AmendParam → Option AmendChange
  | .add bs => ((permitOf bs).filter permitWf).map .add
  | .replace bs => ((permitOf bs).filter permitWf).map .replace
  | .status n (some st) => if permitNumberOk n then some (.status n st) else none
  | .status _ none | .undefinedOp => none

/-- A change to a held section under a new generation (R113, R115). -/
def amendSection (i : Nat) (c : AmendChange) (s : State) : Answer :=
  match s.sectionKey i with
  | none => refuse .notFound s
  | some k =>
    if 65535 ≤ k.gen then refuse .badParameter s
    else
      match applyChange (s.sectionAt i) c with
      | .error st => refuse st s
      | .ok p => okay (.sectionKey { gen := k.gen + 1, pub := s.own } p.records.length) (amendOwn i k c p s)

/-- The judgement of AMEND_PERMIT. -/
def amendPermitBody (op : AmendParam) (s : State) : Answer :=
  match amendChange op with
  | none => refuse .badParameter s
  | some c => amendSection ((changeNumber c).getD 0 % 8) c s

/-- AMEND_PERMIT (R113). -/
def execAmendPermit (op : AmendParam) (s : State) : Host.Outcome State Fault Refusal :=
  host 24 gatewayOnly (amendPermitBody op) s

/-- The judgement of CLOSE_SECTION. -/
def closeSectionBody (i : Nat) (s : State) : Answer :=
  if 7 < i then refuse .badParameter s else amendSection i .close s

/-- CLOSE_SECTION (R115). -/
def execCloseSection (i : Nat) (s : State) : Host.Outcome State Fault Refusal :=
  host 25 gatewayOnly (closeSectionBody i) s

/-! ### Section loads (R116, R117) -/

/-- The section draft becomes `d`. -/
def setSectionDraft (d : Option SectionDraft) (s : State) : State := { s with permits := { s.permits with draft := d } }

/-- The judgement of SECTION_LOAD_BEGIN. -/
def loadBeginBody (i : Nat) (s : State) : Answer :=
  if 7 < i then refuse .badParameter s
  else okay .nothing (setSectionDraft (some { index := i, records := [] }) s)

/-- SECTION_LOAD_BEGIN (R116). -/
def execSectionLoadBegin (i : Nat) (s : State) : Host.Outcome State Fault Refusal :=
  host 26 gatewayOnly (loadBeginBody i) s

/-- The number of the last record taken, 0 for none. -/
def lastNumber (rs : List PermitRec) : Nat := ((rs.getLast?).map (·.number)).getD 0

/-- A record may be appended to the section draft (R116). -/
def loadFits (d : SectionDraft) (r : PermitRec) : Bool :=
  permitWf r && r.number % 8 == d.index && lastNumber d.records < r.number && d.records.length < 160

/-- The judgement of SECTION_LOAD_RECORD. -/
def loadRecordBody (bs : List Byte) (s : State) : Answer :=
  match s.permits.draft with
  | none => refuse .notFound s
  | some d =>
    match (permitOf bs).filter (loadFits d) with
    | none => refuse .badParameter s
    | some r =>
      okay (.sectionCount (d.records.length + 1))
        (setSectionDraft (some { d with records := d.records ++ [r] }) s)

/-- SECTION_LOAD_RECORD (R116). -/
def execSectionLoadRecord (record : List Byte) (s : State) : Host.Outcome State Fault Refusal :=
  host 27 gatewayOnly (loadRecordBody record) s

/-- The highest generation held or advertised for section `i` (R117). -/
def highestSectionGen (s : State) (i : Nat) : Nat :=
  maxOf (genOf (s.sectionKey i) :: s.link.peers.map fun p => genOf (peerSection i p))

/-- The judgement of SECTION_LOAD_END. -/
def loadEndBody (closed : Bool) (s : State) : Answer :=
  match s.permits.draft with
  | none => refuse .notFound s
  | some d =>
    if 65535 ≤ highestSectionGen s d.index then refuse .badParameter s
    else
      let key : Key := { gen := highestSectionGen s d.index + 1, pub := s.own }
      okay (.sectionKey key d.records.length)
        (sectionNotice d.index (writeSection d.index key closed d.records (setSectionDraft none s)))

/-- SECTION_LOAD_END (R117). -/
def execSectionLoadEnd (closed : Bool) (s : State) : Host.Outcome State Fault Refusal :=
  host 28 gatewayOnly (loadEndBody closed) s

/-! ### READ_SECTION and READ_USAGE (R118, R124) -/

/-- The highest key advertised for section `i` and the lowest-numbered station advertising it. Log entry 38. -/
def advertisedSection (s : State) (i : Nat) : Option (Key × Nat) :=
  match highestKey (s.link.peers.map (peerSection i)) with
  | none => none
  | some k => (s.link.peers.find? fun p => peerSection i p == some k).map fun p => (k, p.station)

/-- The judgement of READ_SECTION. -/
def readSectionBody (i number : Nat) (s : State) : Answer :=
  if 7 < i ∨ 999999 < number then refuse .badParameter s
  else
    let p := s.sectionAt i
    okay
      (.sectionRead p.key p.closed p.records.length (p.behindSince.map fun t => (s.clock.elapsed - t) / 1000)
        (advertisedSection s i) ((p.records.find? fun r => number ≤ r.number).map permitBytes)) s

/-- READ_SECTION (R118). -/
def execReadSection (i number : Nat) (s : State) : Host.Outcome State Fault Refusal :=
  host 29 anyRole (readSectionBody i number) s

/-- The daily allowance that a saturated entry counts as used: that of the held record (R106, R119). Log entry 39. -/
def heldAllowance (s : State) (number : Nat) : Nat :=
  match findPermit number (s.sectionAt (number % 8)).records with
  | some r => r.allowance.getD 0
  | none => (Config.unheldAllowance number).toNat

/-- The judgement of READ_USAGE. -/
def readUsageBody (number : Nat) (s : State) : Answer :=
  if !permitNumberOk number then refuse .badParameter s
  else
    match s.today with
    | none => refuse .clockUnset s
    | some today =>
      okay
        (.usage s.unavailable s.permits.ownCtr s.permits.ownDay s.permits.usage.length
          ((s.usageOf number today).map fun e => (e, s.knownUsage number today (heldAllowance s number)))) s

/-- READ_USAGE (R124). -/
def execReadUsage (number : Nat) (s : State) : Host.Outcome State Fault Refusal :=
  host 30 anyRole (readUsageBody number) s

/-! ### USAGE frames (R57, R121) -/

/-- The record of a peer's usage position becomes `new`; settlement is judged where the position itself moves (R57, R123). -/
def moveUsagePos (old new : UsagePos) (s : State) : State :=
  if new.pos = old.pos then setUsagePos new s else judgeSettled (setUsagePos new s)

/-- A USAGE frame: its contributions, then the position of its sender, then settlement where the position moves. -/
def takeUsage (sender : Nat) (u : UsageBody) (s : State) : State :=
  match u with
  | .series ser part entries =>
    let s1 := entries.foldl (applyContrib sender ser.start) s
    moveUsagePos (s1.usagePosOf sender) (usageAfterPart (s1.usagePosOf sender) ser part s.clock.elapsed) s1
  | .single day counter permit minutes =>
    let s1 := applyContrib sender day s (permit, minutes)
    moveUsagePos (s1.usagePosOf sender) (usageAfterSingle (s1.usagePosOf sender) day counter) s1

/-- USAGE (R121). -/
def execUsage (h : FrameHeader) (u : UsageBody) (s : State) : Host.Outcome State Fault Refusal :=
  act (onFrame h (.usage u) (takeUsage h.sender u)) s

/-! ### A section behind for an hour (R109) -/

/-- Section `i` has been behind for 3,600 s and this passage has raised nothing yet. -/
def State.staleDue (s : State) (i : Nat) : Bool :=
  match (s.sectionAt i).behindSince with
  | some t => !(s.sectionAt i).staleRaised && s.hasRun t 3600000
  | none => false

/-- The passage of a section into the stale condition (R109). -/
def passStale (i : Nat) (s : State) : State :=
  let s1 := setSection i { s.sectionAt i with staleRaised := true } s
  if s.isMachine then raiseFault .permitStale 0 s1 else s1

/-- SECTION_BEHIND_EXPIRY (R109). -/
def execSectionBehindExpiry (i : Nat) (s : State) : Host.Outcome State Fault Refusal :=
  act (fun t => if t.staleDue i then passStale i t else t) s

end Sys2Proof.Machine
end

