-- ==== Sys2Proof/Machine/PortFamily.lean ====
section
/-! DEFINITION. Resets, transfers on the host port, and the commands of Section 11. -/

namespace Sys2Proof.Machine

/-! ### Resets -/

/-- POWER_ON (R190). -/
def execPowerOn (s : State) : Host.Outcome State Fault Refusal := .next (resetPart .powerOn s)

/-- RESET_N goes to a level: low holds the part in reset, and the reset takes effect when the pin returns high (Table 11.3,
R191). Log entry 10. -/
def execResetN (high : Bool) (s : State) : Host.Outcome State Fault Refusal :=
  .next
    (if high then
      (if s.port.resetHigh then s
        else
          let t := resetPart .resetN s
          setPort { t.port with resetHigh := true } t)
    else setPort { s.port with resetHigh := false } s)

/-- REMOTE_RESTART: the restart that an honoured RESTART has started is carried out (R169). -/
def execRemoteRestart (s : State) : Host.Outcome State Fault Refusal :=
  act (fun t => if t.faults.restartBy.isSome then resetPart .remoteRestart t else t) s

/-! ### Transfers (R183, R184) -/

/-- What a READ transfer shifts out and leaves. -/
def readOut (whole : Bool) (s : State) : State :=
  match s.port.buffer with
  | none => setPort { s.port with sdo := some (.whole noResponseBytes) } s
  | some r =>
    if whole then restEffect (setPort { s.port with buffer := none, sdo := some (.whole (responseFrame r)) } s)
    else setPort { s.port with sdo := some (.part (responseFrame r)) } s

/-- READ_TRANSFER: `whole` says that the whole response was clocked out (R183). -/
def execReadTransfer (whole : Bool) (s : State) : Host.Outcome State Fault Refusal := act (readOut whole) s

/-- A WRITE whose frame is unsound gets the BAD_FRAME response (R184). -/
def answerBadFrame (s : State) : State :=
  respond 0 (refuse .badFrame (setPort { s.port with badFrameSeen := true } s))

/-- BAD_FRAME_WRITE: a transfer that is neither a READ nor a sound WRITE (R184, R194); one that ends before its first byte is
such a transfer: log entry 73. -/
def execBadFrameWrite (bytes : List Byte) (s : State) : Host.Outcome State Fault Refusal :=
  act (fun t => if isRead bytes || writeSound bytes then t else onWrite answerBadFrame t) s

/-- OVERRUN_WRITE: a WRITE that finds the port busy (R184). -/
def execOverrunWrite (s : State) : Host.Outcome State Fault Refusal :=
  act (fun t => if t.portBusy then overrun t else t) s

/-- A command code that Table 12.8 defines. -/
def codeDefined (code : Nat) : Bool := 1 ≤ code && code ≤ 46

/-- UNDEFINED_COMMAND_CODE: a sound WRITE whose code is not defined (R184). -/
def execUndefinedCommandCode (code : Nat) (s : State) : Host.Outcome State Fault Refusal :=
  act (fun t => if codeDefined code then t else onWrite (fun u => respond code (refuse .badParameter u)) t) s

/-! ### Commands -/

/-- IDENTIFY (R189, R194). -/
def execIdentify (s : State) : Host.Outcome State Fault Refusal :=
  hostAny 1 (fun t => okay (.identity partCode revisionSignature t.port.unique t.port.assetTag) t) s

/-- READ_STATUS reports both flags and then clears them (R185). -/
def readStatusBody (s : State) : Answer :=
  okay
    (.status s.power.state (s.port.setup.map fun r => (r.zone, r.station, r.role)) s.zoneSec s.clock.quality
      s.port.events.length s.port.badFrameSeen s.port.overrunSeen s.port.resetCause)
    (setPort { s.port with badFrameSeen := false, overrunSeen := false } s)

/-- READ_STATUS (R185). -/
def execReadStatus (s : State) : Host.Outcome State Fault Refusal := hostAny 2 readStatusBody s

/-- The judgement of SETUP (R187). -/
def setupBody (p : SetupParams) (s : State) : Answer :=
  if s.setupDone then refuse .alreadySetUp s
  else
    match setupRecord p with
    | none => refuse .badParameter s
    | some r => okay (.setup (s.port.home != some (r.zone, r.station)) s.port.home) (carryOutSetup r s)

/-- SETUP (R187, R188). -/
def execSetup (p : SetupParams) (s : State) : Host.Outcome State Fault Refusal := hostAny 3 (setupBody p) s

/-- READ_EVENT removes and returns the oldest entry (R186). -/
def readEventBody (s : State) : Answer :=
  match s.port.events with
  | [] => refuse .notFound s
  | e :: rest => okay (.event e rest.length) (setPort { s.port with events := rest } s)

/-- READ_EVENT (R186). -/
def execReadEvent (s : State) : Host.Outcome State Fault Refusal := host 4 anyRole readEventBody s

/-- SET_ASSET_TAG writes the tag once (R189). -/
def setAssetTagBody (tag : List Byte) (s : State) : Answer :=
  if !assetTagOk tag then refuse .badParameter s
  else if s.port.assetTag.isSome then refuse .assetTagSet s
  else okay (.assetTag tag) (setPort { s.port with assetTag := some tag } s)

/-- SET_ASSET_TAG (R189). -/
def execSetAssetTag (tag : List Byte) (s : State) : Host.Outcome State Fault Refusal :=
  host 5 anyRole (setAssetTagBody tag) s

end Sys2Proof.Machine
end

