-- ==== Sys2Proof/Machine/PowerFamily.lean ====
section
/-! DEFINITION. The commands and events of the power unit (10.2, 10.3). -/

namespace Sys2Proof.Machine

/-- The judgement of REST: in AWAKE its effect waits for the read of the response (R177). -/
def restBody (s : State) : Answer :=
  if s.sales.sale.isSome then refuse .saleOpen s
  else if !s.port.events.isEmpty then refuse .eventsPending s
  else if s.power.state == .awake then okay .nothing { s with power := { s.power with restTaken := true } }
  else okay .nothing s

/-- REST (R177). -/
def execRest (s : State) : Host.Outcome State Fault Refusal := host 45 anyRole restBody s

/-- The whole seconds remaining of the 60 s of a supply warning. -/
def warningLeft (s : State) : Option Nat := s.power.warning.map fun t => (t + 60000 - s.clock.elapsed) / 1000

/-- The judgement of READ_POWER. -/
def readPowerBody (s : State) : Answer :=
  let p := s.power
  okay (.power p.state p.supply (warningLeft s) p.dormantDue p.wakeCause p.periods p.lastPeriod) s

/-- READ_POWER (R182). -/
def execReadPower (s : State) : Host.Outcome State Fault Refusal := host 46 anyRole readPowerBody s

/-- The pin WAKE_BUTTON is at a level. -/
def setButtonPin (level : Bool) (s : State) : State := { s with power := { s.power with buttonPin := level } }

/-- Two samples have found WAKE_BUTTON asserted after a released one, and the press has not been taken (R178). -/
def State.pressDue (s : State) : Bool := s.power.buttonRun == .press

/-- A press is taken (R178, R181). -/
def takePress (s : State) : State := wakeByButton { s with power := { s.power with buttonRun := .waiting } }

/-- WAKE_BUTTON_PRESS: the press that the samples have found is taken; elsewhere the pin goes to its other level (R178). Log
entry 6. -/
def execWakeButtonPress (s : State) : Host.Outcome State Fault Refusal :=
  act (fun t => if t.pressDue then takePress t else setButtonPin (!t.power.buttonPin) t) s

/-- The pin SUPPLY_LOW is at a level. -/
def setSupplyPin (level : Bool) (s : State) : State := { s with power := { s.power with supplyPin := level } }

/-- 16 consecutive samples have found SUPPLY_LOW at a level that is not the settled one (R179). -/
def State.supplyDue (s : State) (level : Bool) : Bool :=
  s.power.supplyRunCount == 16 && s.power.supplyRunLevel == level && s.power.supply != some level

/-- The settled level of SUPPLY_LOW becomes `level`. -/
def setSupplyLevel (level : Bool) (s : State) : State := { s with power := { s.power with supply := some level } }

/-- SUPPLY_LOW is taken as asserted (R179). -/
def supplyAsserted (s : State) : State :=
  match s.power.state with
  | .awake =>
    postEvent (.supplyLow .warning) { s with power := { s.power with warning := some s.clock.elapsed } }
  | .listening => setDormantDue s
  | .dormant => s

/-- The level asserted is taken where its samples have agreed; elsewhere the pin goes to it (R179). -/
def assertSupply (s : State) : State :=
  if s.supplyDue true then supplyAsserted (setSupplyLevel true s) else setSupplyPin true s

/-- SUPPLY_LOW_ASSERT (R179). Log entry 6. -/
def execSupplyLowAssert (s : State) : Host.Outcome State Fault Refusal := act assertSupply s

/-- The warning or the dormant entry due flag is withdrawn (R179). -/
def withdrawSupply (s : State) : State :=
  let s1 := { s with power := { s.power with warning := none, dormantDue := false } }
  if s.power.state == .awake then postEvent (.supplyLow .withdrawn) s1 else s1

/-- SUPPLY_LOW is taken as deasserted (R179). -/
def supplyDeasserted (s : State) : State :=
  if s.power.state == .dormant then exitDormant s
  else if s.power.warning.isSome || s.power.dormantDue then withdrawSupply s
  else s

/-- The level deasserted is taken where its samples have agreed; the first settled level after a reset changes nothing when
it is deasserted. Elsewhere the pin goes to it (R179). -/
def deassertSupply (s : State) : State :=
  if s.supplyDue false then
    (if s.power.supply == some true then supplyDeasserted (setSupplyLevel false s) else setSupplyLevel false s)
  else setSupplyPin false s

/-- SUPPLY_LOW_DEASSERT (R179). Log entry 6. -/
def execSupplyLowDeassert (s : State) : Host.Outcome State Fault Refusal := act deassertSupply s

/-- One sample of WAKE_BUTTON (R178). -/
def sampleButton (level : Bool) : ButtonRun → ButtonRun
  | .waiting => if level then .waiting else .released
  | .released => if level then .once else .released
  | .once => if level then .press else .released
  | .press => .press

/-- One sample of SUPPLY_LOW: the run of agreeing samples, up to 16 (R179). -/
def sampleSupply (p : Power) : Power :=
  { p with
    supplyRunLevel := p.supplyPin
    supplyRunCount :=
      if p.supplyRunCount != 0 && p.supplyRunLevel == p.supplyPin then min (p.supplyRunCount + 1) 16 else 1 }

/-- The power unit samples its two pins (R178, R179). -/
def samplePins (p : Power) : Power := sampleSupply { p with buttonRun := sampleButton p.buttonPin p.buttonRun }

/-- The pins as a reading of the elapsed-time counter leaves them: sampled every 64 ms from every reset. -/
def pinsAt (elapsed : Nat) (p : Power) : Power := if elapsed % 64 = 0 then samplePins p else p

/-- The 60 s of a supply warning have run. -/
def State.graceOver (s : State) : Bool :=
  match s.power.warning with
  | some t => s.hasRun t 60000
  | none => false

/-- AWAKE_GRACE_EXPIRY (R179). -/
def execAwakeGraceExpiry (s : State) : Host.Outcome State Fault Refusal :=
  act (fun t => if t.graceOver then setDormantDue t else t) s

/-- DORMANT_ENTRY: the announce with the dormant flag has ended, or none can be sent (R180). -/
def execDormantEntry (s : State) : Host.Outcome State Fault Refusal :=
  act
    (fun t =>
      if t.entryDue then enterDormant (if t.announceOut then endAnnounce t else t) else t) s

end Sys2Proof.Machine
end

