-- ==== Sys2Proof/Machine/ReplFamily.lean ====
section
/-! DEFINITION. The frames, the timeout and the command of the replication unit (Section 3). -/

namespace Sys2Proof.Machine

/-! ### READ_REPLICATION (R58) -/

/-- One row of the want list. -/
def replRow (s : State) (obj : ImageObj) : ReplRow :=
  match s.wantOf obj with
  | none =>
    { wanted := none, candidates := 0, lowest := none, excluded := 0, timeouts := 0, declined := s.declinedKey obj }
  | some e =>
    { wanted := some e.key, candidates := e.cands.length, lowest := e.cands.head?, excluded := e.excluded.length
      timeouts := e.timeouts, declined := s.declinedKey obj }

/-- The intake as the response gives it. -/
def intakeRow (i : Intake) : IntakeRow :=
  { phase := i.phase, obj := i.obj, key := i.key, provider := i.provider, next := i.next, count := i.info.map (·.count) }

/-- The advertised fault counter is ahead of the held position. -/
def faultsAhead (s : State) (p : PeerEntry) : Bool := (s.faultPosOf p.station).pos < p.faultCtr

/-- The advertised usage counter is ahead of the held position. Log entry 36. -/
def usageAhead (s : State) (p : PeerEntry) : Bool :=
  match s.usagePos p.station with
  | none => 0 < p.usageCtr
  | some (d, u) => (d < p.usageDay && 0 < p.usageCtr) || (d == p.usageDay && u < p.usageCtr)

/-- The object that a supply queue entry serves. -/
def supplyObject : SupplyItem → SupplyObject
  | .image obj _ => .image obj
  | .faults _ => .faults
  | .usage => .usage

/-- The judgement of READ_REPLICATION; of the supply's head it gives the requester, the object and the next index. -/
def readReplicationBody (s : State) : Answer :=
  okay
    (.replication (allObjects.map (replRow s)) (s.repl.intake.map intakeRow) s.repl.supply.length
      (s.repl.supply.head?.map fun e => (e.requester, supplyObject e.item, e.next)) (s.link.peers.countP (faultsAhead s))
      (s.link.peers.countP (usageAhead s))) s

/-- READ_REPLICATION (R58). -/
def execReadReplication (s : State) : Host.Outcome State Fault Refusal := host 8 anyRole readReplicationBody s

/-! ### Frames -/

/-- A REQUEST is taken (R49, R56). -/
def takeRequest (sender : Nat) (r : RequestBody) (s : State) : State :=
  match r with
  | .image obj key start => requestImage sender obj key start s
  | .faults c => enterSupply (freshSupply sender (.faults c) 0) s
  | .usage => enterSupply (freshSupply sender .usage 0) s

/-- REQUEST (R49). -/
def execRequest (h : FrameHeader) (r : RequestBody) (s : State) : Host.Outcome State Fault Refusal :=
  act (onFrame h (.request r) (takeRequest h.sender r)) s

/-- A FRAGMENT is judged against the intake (R43). -/
def judgeFragment (sender : Nat) (f : FragmentBody) (s : State) : State :=
  match s.repl.intake with
  | none => s
  | some i => if acceptsFragment i sender f then takeFragment i f s else s

/-- FRAGMENT (R43). -/
def execFragment (h : FrameHeader) (f : FragmentBody) (s : State) : Host.Outcome State Fault Refusal :=
  act (onFrame h (.fragment f) (judgeFragment h.sender f)) s

/-- The intake's provider answers that it does not hold the key (R45). -/
def takeNotHeld (sender : Nat) (obj : ImageObj) (key : Key) (s : State) : State :=
  match s.repl.intake with
  | none => s
  | some i => if i.provider = sender ∧ i.obj = obj ∧ i.key = key then excludeProvider i s else s

/-- NOT_HELD (R45). -/
def execNotHeld (h : FrameHeader) (obj : ImageObj) (key : Key) (s : State) : Host.Outcome State Fault Refusal :=
  act (onFrame h (.notHeld obj key) (takeNotHeld h.sender obj key)) s

/-- The want entry raised by a SUPERSEDED: its candidates are the sender and the LIVE peers advertising the key (R45). -/
def raisedWant (s : State) (sender : Nat) (obj : ImageObj) (key : Key) (e : WantEntry) : WantEntry :=
  { e with
    key := key, pendingOnly := s.pendingOnly obj key false, cands := insertNat sender (s.candidates obj key [])
    excluded := [], timeouts := 0 }

/-- The intake's provider answers with a newer key, which is tested as an advertised active key (R45). Log entry 54. -/
def takeSuperseded (sender : Nat) (obj : ImageObj) (key : Key) (s : State) : State :=
  match s.repl.intake with
  | none => s
  | some i =>
    if i.provider = sender ∧ i.obj = obj then
      if Key.higher key i.key && s.qualifies obj key then
        updateIntake (mapWant obj (raisedWant s sender obj key) s)
      else excludeProvider i s
    else s

/-- SUPERSEDED (R45). -/
def execSuperseded (h : FrameHeader) (obj : ImageObj) (key : Key) (s : State) : Host.Outcome State Fault Refusal :=
  act (onFrame h (.superseded obj key) (takeSuperseded h.sender obj key)) s

/-- AMENDMENT (R54, R114). -/
def execAmendment (h : FrameHeader) (i : Nat) (old new : Key) (change : AmendChange) (s : State) :
    Host.Outcome State Fault Refusal :=
  act (onFrame h (.amendment i old new change) (amendFromFrame h.sender i old new change)) s

/-! ### The progress timeout -/

/-- The intake has made no progress for 3 s (R44). -/
def State.intakeStalled (s : State) : Bool :=
  match s.repl.intake with
  | some i => i.phase == .receiving && s.hasRun i.progress 3000
  | none => false

/-- INTAKE_PROGRESS_TIMEOUT (R44). -/
def execIntakeProgressTimeout (s : State) : Host.Outcome State Fault Refusal :=
  act
    (fun t =>
      match t.repl.intake with
      | some i => if t.intakeStalled then countFailure i t else t
      | none => t) s

end Sys2Proof.Machine
end

