-- ==== Sys2Proof/Machine/RoundFamily.lean ====
section
/-! DEFINITION. The commands, frames and timer of the round unit (Section 8). -/

namespace Sys2Proof.Machine

/-! ### The collector's commands (R139, R140, R142) -/

/-- The round counter raised by one, from 65,535 to 1. -/
def nextRound (n : Nat) : Nat := if n = 65535 then 1 else n + 1

/-- The round held is closed: the context IDLE with its number and collector kept, the frame placed (R140). -/
def closeOwnRound (s : State) : State :=
  place .other 0 (.roundClose s.rounds.ctx.round)
    (setCtx { s.rounds.ctx with state := .idle, visitRecord := none, visitStart := none } s)

/-- A new round: counter, empty sheet with its header, and context, in one record write (R139). -/
def newRound (opened : Option Nat) (s : State) : State :=
  let n := nextRound s.rounds.counter
  { s with rounds := { s.rounds with
      counter := n, sheet := [], sheetRound := n, sheetOpened := opened
      ctx := { round := n, collector := some s.own, state := .opened, visitRecord := none, visitStart := none } } }

/-- The judgement of ROUND_OPEN. -/
def roundOpenBody (s : State) : Answer :=
  if s.clock.zone.isNone then refuse .clockUnset s
  else
    let s1 := newRound s.zoneSec (if s.rounds.ctx.state == .opened then closeOwnRound s else s)
    okay (.roundPlaced s1.rounds.ctx.round s1.canPlace) (place .other 0 (.roundOpen s1.rounds.ctx.round) s1)

/-- ROUND_OPEN as a command (R139). -/
def execRoundOpenCommand (s : State) : Host.Outcome State Fault Refusal := host 33 collectorOnly roundOpenBody s

/-- The judgement of ROUND_VISIT. -/
def roundVisitBody (station : Nat) (s : State) : Answer :=
  if s.rounds.ctx.state == .idle then refuse .roundNone s
  else if !stationOk station || station == s.own then refuse .badParameter s
  else placed station (.roundVisit s.rounds.ctx.round) s

/-- ROUND_VISIT as a command (R140). -/
def execRoundVisitCommand (station : Nat) (s : State) : Host.Outcome State Fault Refusal :=
  host 34 collectorOnly (roundVisitBody station) s

/-- The judgement of ROUND_CLOSE. -/
def roundCloseBody (s : State) : Answer :=
  if s.rounds.ctx.state == .idle then refuse .roundNone s
  else okay (.roundPlaced s.rounds.ctx.round s.canPlace) (closeOwnRound s)

/-- ROUND_CLOSE as a command (R140). -/
def execRoundCloseCommand (s : State) : Host.Outcome State Fault Refusal := host 35 collectorOnly roundCloseBody s

/-- The judgement of READ_SHEET. The round is open where the context is not IDLE, whatever round the context holds: log entry
82. -/
def readSheetBody (index : Nat) (s : State) : Answer :=
  if 31 < index then refuse .badParameter s
  else
    let r := s.rounds
    okay (.sheet r.sheetRound r.sheetOpened (r.ctx.state != .idle) r.sheet.length r.sheet[index]?) s

/-- READ_SHEET (R142). -/
def execReadSheet (index : Nat) (s : State) : Host.Outcome State Fault Refusal :=
  host 36 collectorOnly (readSheetBody index) s

/-! ### READ_ROUND (R154) -/

/-- The whole seconds left of the visit period, rounded down: absent outside VISITED, 0 when it has run out (R154). Log entry
58. -/
def visitLeft (s : State) : Option Nat :=
  if s.rounds.ctx.state == .visited then
    s.rounds.ctx.visitStart.map fun t => (t + 600000 - s.clock.elapsed) / 1000
  else none

/-- The judgement of READ_ROUND. -/
def readRoundBody (s : State) : Answer :=
  okay
    (.round { s.rounds.ctx with visitStart := none } (visitLeft s) (s.rounds.log.map fun r => (r.data, r.due))
      s.rounds.dueList (if s.isRole .collector then some s.rounds.counter else none)) s

/-- READ_ROUND (R154). -/
def execReadRound (s : State) : Host.Outcome State Fault Refusal := host 37 anyRole readRoundBody s

/-! ### Frames -/

/-- ROUND_OPEN as a frame (R143). -/
def execRoundOpenFrame (h : FrameHeader) (round : Nat) (s : State) : Host.Outcome State Fault Refusal :=
  act (onFrame h (.roundOpen round) (atMachine (takeRoundOpen round h.sender))) s

/-- ROUND_VISIT as a frame (R145). -/
def execRoundVisitFrame (h : FrameHeader) (round : Nat) (s : State) : Host.Outcome State Fault Refusal :=
  act (onFrame h (.roundVisit round) (atMachine (takeVisit round h.sender))) s

/-- A ROUND_CLOSE is taken where it names the context's round and comes from its collector (R144). -/
def takeClose (round collector : Nat) (s : State) : State :=
  if holdsRound s.rounds.ctx round collector then closeRound s else s

/-- ROUND_CLOSE as a frame (R144). -/
def execRoundCloseFrame (h : FrameHeader) (round : Nat) (s : State) : Host.Outcome State Fault Refusal :=
  act (onFrame h (.roundClose round) (atMachine (takeClose round h.sender))) s

/-- COLLECTION_REPORT (R141). -/
def execCollectionReport (h : FrameHeader) (d : CollectionData) (s : State) : Host.Outcome State Fault Refusal :=
  act (onFrame h (.collectionReport d) (fun t => if t.isRole .collector then takeReport h.sender d t else t)) s

/-- COLLECTION_ACK (R151). -/
def execCollectionAck (h : FrameHeader) (first last : Nat) (s : State) : Host.Outcome State Fault Refusal :=
  act (onFrame h (.collectionAck first last) (atMachine (takeAck h.sender first last))) s

/-- VISIT_PERIOD_EXPIRY (R145). -/
def execVisitPeriodExpiry (s : State) : Host.Outcome State Fault Refusal := act expireVisit s

end Sys2Proof.Machine
end

