-- ==== Sys2Proof/Machine/Walk.lean ====
section
/-! DEFINITION. The walk (5.1 to 5.4): from a start time, a tariff set and a treatment to the steps sold and an expiry. -/

namespace Sys2Proof.Machine

/-- What a walk is asked: an amount, requested paid minutes, or an allowance request with the remaining minutes. -/
inductive Ask where
  | amount (a : Nat)
  | duration (r : Nat)
  | allowance (r m : Nat)
  deriving DecidableEq, Repr

/-- What a walk sees: the start minute from the epoch, the treatments from it up to the stop point, and whether the stop is
a clearway stop. -/
structure View where
  start : Nat
  minutes : List Treatment
  clearway : Bool
  deriving DecidableEq, Repr

/-- The horizon in minutes: 7 days (R82). -/
def horizonMinutes : Nat := 10080

/-- The treatments of some minutes from one onward (R82). -/
def treatsFrom (t : TariffSet) (minute : Nat) : Nat → List Treatment
  | 0 => []
  | n + 1 => treatmentAt t minute :: treatsFrom t (minute + 1) n

/-- What the walk sees from a zone time; `none` where the start minute is NO_STAY (R83). -/
def viewFrom (t : TariffSet) (zoneSec : Nat) : Option View :=
  let start := zoneSec / 60
  let all := treatsFrom t start horizonMinutes
  if treatmentAt t start == .noStay then none
  else
    let seen := all.takeWhile (· != .noStay)
    some { start := start, minutes := seen, clearway := decide (seen.length < horizonMinutes) }

/-- A minute is charged, by whatever ladder. -/
def isCharged : Treatment → Bool
  | .charged _ => true
  | _ => false

/-- The charged minutes available, C (R83). -/
def View.charged (v : View) : Nat := v.minutes.countP isCharged

/-- The first charged minute, as an offset and the ladder its day-part names (R83, R84). -/
def firstCharged : Nat → List Treatment → Option (Nat × Nat)
  | _, [] => none
  | i, .charged k :: _ => some (i, k)
  | i, _ :: rest => firstCharged (i + 1) rest

/-- The offset just after the minute that consumes the `n`th paid minute, if that many are charged (R86). -/
def consumed : Nat → Nat → List Treatment → Option Nat
  | _, _, [] => none
  | i, n, x :: rest =>
    if isCharged x then (if n ≤ 1 then some (i + 1) else consumed (i + 1) (n - 1) rest) else consumed (i + 1) n rest

/-- A minute from the epoch as a zone time in seconds. -/
def minuteTime (m : Nat) : Nat := fitTime (m * 60)

/-- The expiry of some paid minutes and the horizon flag (R86). -/
def View.expiry (v : View) (paid : Nat) : Nat × Bool :=
  match consumed 0 paid v.minutes with
  | some off => (minuteTime (v.start + off), false)
  | none => (minuteTime (v.start + horizonMinutes), true)

/-- A step count of a ladder is sellable (R85). -/
def sellable (v : View) (l : Ladder) (s : Nat) : Bool :=
  withinLength l s && priceOf l s ≤ 65535
    && (if v.clearway then minutesOf l s ≤ v.charged else minutesOf l (s - 1) < v.charged)

/-- The largest `n`, at most `s + fuel`, such that every count after `s` up to `n` satisfies `p`. -/
def upTo (p : Nat → Bool) (s : Nat) : Nat → Nat
  | 0 => s
  | fuel + 1 => if p (s + 1) then upTo p (s + 1) fuel else s

/-- The largest sellable count, smax (R85). -/
def smax (v : View) (l : Ladder) : Nat := upTo (sellable v l) 0 horizonMinutes

/-- The largest sellable count whose price is not above an amount (R87). -/
def stepsForAmount (v : View) (l : Ladder) (a : Nat) : Nat := upTo (fun s => priceOf l s ≤ a) 0 (smax v l)

/-- The number of sellable counts that do not yet reach the requested minutes (R88). -/
def stepsShort (v : View) (l : Ladder) (r : Nat) : Nat := upTo (fun s => minutesOf l s < r) 0 (smax v l)

/-- The result of a walk that sells steps or grants minutes. -/
def soldResult (t : TariffSet) (v : View) (treat : Option ClassEntry) (ladder first steps paid price excess : Nat)
    (nextStep : Option Nat) (covers : Option Bool) (expiry : Nat × Bool) : QuoteResult :=
  { key := t.key, treatment := treat, ladder := ladder, start := minuteTime v.start
    paidFrom := minuteTime (v.start + first), steps := steps, paidMinutes := paid, price := price, excess := excess
    nextStep := nextStep, expiry := expiry.1, covers := covers, horizon := expiry.2 }

/-- The walk BY_AMOUNT on ladder `k` (R87). -/
def walkAmount (t : TariffSet) (v : View) (treat : Option ClassEntry) (first k a : Nat) : QuoteOutcome :=
  let l := ladderAt t k
  let top := smax v l
  if top = 0 then .nothingToSell
  else if a < priceOf l 1 then .notEnough
  else
    let s := stepsForAmount v l a
    let paid := minutesOf l s
    let more := if s + 1 ≤ top then some (priceOf l (s + 1) - a) else none
    .sold (soldResult t v treat k first s paid (priceOf l s) (a - priceOf l s) more none (v.expiry paid))

/-- The walk BY_DURATION on ladder `k` (R88). -/
def walkDuration (t : TariffSet) (v : View) (treat : Option ClassEntry) (first k r : Nat) : QuoteOutcome :=
  let l := ladderAt t k
  let top := smax v l
  if top = 0 then .nothingToSell
  else
    let short := stepsShort v l r
    let s := min (short + 1) top
    let paid := minutesOf l s
    .sold (soldResult t v treat k first s paid (priceOf l s) 0 none (some (decide (short < top))) (v.expiry paid))

/-- The walk under EXEMPT (R89): the run of charged minutes from the first. -/
def walkExempt (t : TariffSet) (v : View) (treat : Option ClassEntry) (first k : Nat) : QuoteOutcome :=
  let off := first + ((v.minutes.drop first).takeWhile isCharged).length
  let toHorizon := !v.clearway && off == horizonMinutes
  .sold (soldResult t v treat k first 0 0 0 0 none none (minuteTime (v.start + off), toHorizon))

/-- The walk under ALLOWANCE(k) (R90). -/
def walkAllowance (t : TariffSet) (v : View) (treat : Option ClassEntry) (first k r m : Nat) : QuoteOutcome :=
  if m = 0 then .allowanceExhausted
  else
    let bound := min r (min m v.charged)
    let granted :=
      match capMinutes (ladderAt t k) with
      | none => bound
      | some c => min bound c
    .sold (soldResult t v treat k first 0 granted 0 0 none (some (granted == r)) (v.expiry granted))

/-- The walk on a ladder, by amount or by duration. -/
def walkSteps (t : TariffSet) (v : View) (treat : Option ClassEntry) (first k : Nat) : Ask → QuoteOutcome
  | .amount a => walkAmount t v treat first k a
  | .duration r | .allowance r _ => walkDuration t v treat first k r

/-- The walk (R82 to R90): from a zone time under a set, with the treatment of a permit class or none. -/
def walk (t : TariffSet) (zoneSec : Nat) (treat : Option ClassEntry) (ask : Ask) : QuoteOutcome :=
  match viewFrom t zoneSec with
  | none => .noStayNow
  | some v =>
    match firstCharged 0 v.minutes with
    | none => .nothingToSell
    | some (first, k) =>
      match treat with
      | none => walkSteps t v treat first k ask
      | some c =>
        match c.kind with
        | .plain => walkSteps t v treat first k ask
        | .ladder => walkSteps t v treat first c.k ask
        | .exempt => walkExempt t v treat first k
        | .allowance =>
          match ask with
          | .allowance r m => walkAllowance t v treat first c.k r m
          | .amount r | .duration r => walkAllowance t v treat first c.k r 0

end Sys2Proof.Machine
end

