-- ==== Sys2Proof/Machine/SaleFamily.lean ====
section
/-! DEFINITION. QUOTE and the open sale, from SALE_OPEN to its commit, cancellation or abandonment (Section 5). -/

namespace Sys2Proof.Machine

/-! ### QUOTE (R91) -/

/-- The refusal status of an outcome that is not SOLD. -/
def outcomeStatus : QuoteOutcome → Status
  | .sold _ => .ok
  | .noStayNow => .noStayNow
  | .nothingToSell => .nothingToSell
  | .notEnough => .notEnough
  | .allowanceExhausted => .allowanceExhausted
  | .allowanceUnavailable => .allowanceUnavailable

/-- The parameters of QUOTE are in range: mode, amount or minutes, class (R91). -/
def quoteParamsOk (mode : Option QuoteMode) (value : Nat) (cls : ClassParam) : Bool :=
  (match mode with
    | none => false
    | some .byAmount => value ≤ 65535
    | some .byDuration => 1 ≤ value && value ≤ 10080)
    && cls != .undefinedClass

/-- The treatment of a class parameter under a set. -/
def paramTreat (t : TariffSet) : ClassParam → Option ClassEntry
  | .named c => some (classEntry t c)
  | .absent | .undefinedClass => none

/-- A treatment is ALLOWANCE(k). -/
def isAllowance (c : Option ClassEntry) : Bool := c.map (·.kind) == some .allowance

/-- A class treated by ALLOWANCE is asked for by amount, which R91 refuses. -/
def allowanceByAmount (active : Option TariffSet) (mode : Option QuoteMode) (cls : ClassParam) : Bool :=
  mode == some .byAmount
    && (match active with
        | some t => isAllowance (paramTreat t cls)
        | none => false)

/-- What QUOTE asks of the walk. -/
def quoteAsk (mode : Option QuoteMode) (value : Nat) (treat : Option ClassEntry) : Ask :=
  if isAllowance treat then .allowance value 1440
  else
    match mode with
    | some .byDuration => .duration value
    | _ => .amount value

/-- The answer of QUOTE from an outcome. -/
def quoteAnswer (o : QuoteOutcome) (s : State) : Answer :=
  match o with
  | .sold r => okay (.quote r) s
  | _ => refuse (outcomeStatus o) s

/-- The judgement of QUOTE. -/
def quoteBody (mode : Option QuoteMode) (value : Nat) (cls : ClassParam) (s : State) : Answer :=
  if !quoteParamsOk mode value cls || allowanceByAmount s.tariff.active mode cls then refuse .badParameter s
  else
    match s.zoneSec, s.tariff.active with
    | none, _ => refuse .clockUnset s
    | some _, none => refuse .noTariff (reraiseMissing s)
    | some z, some t => quoteAnswer (walk t z (paramTreat t cls) (quoteAsk mode value (paramTreat t cls))) s

/-- QUOTE (R91). -/
def execQuote (mode : Option QuoteMode) (value : Nat) (cls : ClassParam) (s : State) :
    Host.Outcome State Fault Refusal :=
  host 15 anyRole (quoteBody mode value cls) s

/-! ### The open sale and its requote (R94, R105) -/

/-- The sale record becomes `r`. -/
def setSale (r : Sale) (s : State) : State := { s with sales := { s.sales with sale := some r } }

/-- The minutes remaining of an applied allowance: the allowance less the known usage of the day (R90). -/
def remaining (s : State) (p : AppliedPermit) (zoneSec : Nat) : Nat :=
  p.allowance.getD 0 - s.knownUsage p.number (zoneSec / 86400) (p.allowance.getD 0)

/-- The requote under an applied permit. -/
def requotePermit (s : State) (t : TariffSet) (zoneSec : Nat) (r : Sale) (p : AppliedPermit) : QuoteOutcome :=
  if p.treat.kind == .allowance then
    match r.requested with
    | none => .nothingToSell
    | some m =>
      if s.unavailable.isSome then .allowanceUnavailable
      else walk t zoneSec (some p.treat) (.allowance m (remaining s p zoneSec))
  else walk t zoneSec (some p.treat) (.amount r.payment)

/-- The requote of an open sale from the current zone time under the pinned set (R94). -/
def requote (s : State) (r : Sale) : QuoteOutcome :=
  match s.pinnedSet, s.zoneSec with
  | some t, some z =>
    (match r.permit with
      | none => walk t z none (.amount r.payment)
      | some p => requotePermit s t z r p)
  | _, _ => .nothingToSell

/-- The record with its current quote made afresh. -/
def requoted (s : State) (r : Sale) : Sale := { r with quote := requote s r }

/-- A sale command on the open sale, whose last-event time becomes now; NO_SALE where none is open (R92, R94). -/
def onSale (body : Sale → State → Answer) (s : State) : Answer :=
  match s.sales.sale with
  | none => refuse .noSale s
  | some r =>
    let r1 := { r with lastEvent := s.clock.elapsed }
    body r1 (setSale r1 s)

/-- A sale event is taken: the requote, and the answer with the current quote (R94). -/
def taken (r : Sale) (s : State) : Answer :=
  let r1 := requoted s r
  okay (.quoted r1.quote) (setSale r1 s)

/-! ### SALE_OPEN (R93) -/

/-- A new sale record. -/
def newSale (pin : Key) (now : Nat) : Sale :=
  { pin := pin, escrow := zeroCounts, coinTotal := 0, payment := 0, card := none, permit := none, requested := none
    quote := .nothingToSell, openedAt := now, lastEvent := now }

/-- The sale is opened: the pin, the record and the sale-open mark, the first requote, and the answer with the pinned key and
the current quote (R72, R93, R190). -/
def openSale (pin : Key) (s : State) : Answer :=
  let s1 := { s with tariff := { s.tariff with pin := some pin }, sales := { s.sales with openMark := true } }
  let r := requoted s1 (newSale pin s.clock.elapsed)
  okay (.sale pin r.quote) (setSale r s1)

/-- The judgement of SALE_OPEN, in the order of R93. That it takes no notice of the power state, so that a sale can stand open in
LISTENING or DORMANT, is the model's choice: log entry 89. -/
def saleOpenBody (s : State) : Answer :=
  if s.clock.zone.isNone then refuse .clockUnset s
  else if s.sales.sale.isSome then refuse .saleOpen s
  else
    match slotKey s.tariff.active with
    | none => refuse .noTariff (reraiseMissing s)
    | some k => if s.doorOpen then refuse .cashBlocked s else openSale k s

/-- SALE_OPEN (R93). -/
def execSaleOpen (s : State) : Host.Outcome State Fault Refusal := host 16 machineOnly saleOpenBody s

/-! ### Payment (R95, R96) -/

/-- An EXEMPT or ALLOWANCE permit is applied. -/
def takesNoPayment (r : Sale) : Bool :=
  match r.permit with
  | some p => p.treat.kind == .exempt || p.treat.kind == .allowance
  | none => false

/-- Cash is blocked for coins (R95). -/
def State.cashBlocked (s : State) : Bool := s.doorOpen || s.boxAbsent || s.faultStands .tamper 0

/-- A refusal with BOX_FULL raises the fault while its entry is CLEARED or absent (R127). -/
def refuseBoxFull (s : State) : Answer := refuse .boxFull (raiseBoxFull (!s.faultStands .boxFull 0) s)

/-- A count rises by one at an index. -/
def countCoin (index : Nat) (counts : List Nat) : List Nat := counts.modify index (· + 1)

/-- The judgement of SALE_COIN. -/
def saleCoinBody (index : Nat) (r : Sale) (s : State) : Answer :=
  match s.denoms[index]? with
  | none => refuse .badParameter s
  | some value =>
    if takesNoPayment r then refuse .coinsNotAllowed s
    else if s.cashBlocked then refuse .cashBlocked s
    else if s.capacity < s.cash.coinTotal + r.coinTotal + 1 then refuseBoxFull s
    else if 60 ≤ r.coinTotal ∨ 65535 < r.payment + value then refuse .badParameter s
    else
      taken
        { r with escrow := countCoin index r.escrow, coinTotal := r.coinTotal + 1, payment := r.payment + value } s

/-- SALE_COIN (R95). -/
def execSaleCoin (index : Nat) (s : State) : Host.Outcome State Fault Refusal :=
  host 17 machineOnly (onSale (saleCoinBody index)) s

/-- The judgement of SALE_CARD. -/
def saleCardBody (amount : Nat) (r : Sale) (s : State) : Answer :=
  if amount = 0 ∨ 65535 < amount then refuse .badParameter s
  else if takesNoPayment r then refuse .coinsNotAllowed s
  else if r.card.isSome then refuse .paymentPresent s
  else if 65535 < r.payment + amount then refuse .badParameter s
  else taken { r with card := some amount, payment := r.payment + amount } s

/-- SALE_CARD (R96). -/
def execSaleCard (amount : Nat) (s : State) : Host.Outcome State Fault Refusal :=
  host 18 machineOnly (onSale (saleCardBody amount)) s

/-! ### SALE_PERMIT and SALE_DURATION (R97, R98) -/

/-- The permit as the sale records it. -/
def appliedPermit (p : PermitRec) (treat : ClassEntry) (check : CheckResult) : AppliedPermit :=
  { number := p.number, cls := p.cls, treat := treat, check := check
    allowance := if treat.kind == .allowance then some (p.allowance.getD 0) else none }

/-- A sale event taken that reports a permit check. -/
def takenPermit (check : CheckResult) (r : Sale) (s : State) : Answer :=
  let r1 := requoted s r
  okay (.salePermit check r1.quote) (setSale r1 s)

/-- A valid permit offered to a sale. -/
def applyPermit (p : PermitRec) (check : CheckResult) (treat : ClassEntry) (r : Sale) (s : State) : Answer :=
  if (treat.kind == .exempt || treat.kind == .allowance) && (0 < r.coinTotal || r.card.isSome) then
    refuse .paymentPresent s
  else takenPermit check { r with permit := some (appliedPermit p treat check) } s

/-- The treatment of a class under the pinned set. -/
def pinnedTreat (s : State) (c : PermitClass) : ClassEntry :=
  (s.pinnedSet.map fun t => classEntry t c).getD { kind := .plain, k := 0 }

/-- The judgement of SALE_PERMIT. -/
def salePermitBody (number : Nat) (r : Sale) (s : State) : Answer :=
  if r.permit.isSome || !permitNumberOk number then refuse .badParameter s
  else
    match permitCheck s ((s.today).getD 0) number with
    | (check, some p) =>
      if checkApplies check then applyPermit p check (pinnedTreat s p.cls) r s else takenPermit check r s
    | (check, none) => takenPermit check r s

/-- SALE_PERMIT (R97). -/
def execSalePermit (number : Nat) (s : State) : Host.Outcome State Fault Refusal :=
  host 19 machineOnly (onSale (salePermitBody number)) s

/-- The judgement of SALE_DURATION. -/
def saleDurationBody (minutes : Nat) (r : Sale) (s : State) : Answer :=
  if !isAllowance (r.permit.map (·.treat)) || minutes < 1 || 1440 < minutes then refuse .badParameter s
  else taken { r with requested := some minutes } s

/-- SALE_DURATION (R98). -/
def execSaleDuration (minutes : Nat) (s : State) : Host.Outcome State Fault Refusal :=
  host 20 machineOnly (onSale (saleDurationBody minutes)) s

/-! ### SALE_COMMIT (R99 to R101) -/

/-- The kind of the journal record (R100). -/
def saleKind (r : Sale) : JournalKind :=
  match r.permit with
  | none => .paid
  | some p =>
    match p.treat.kind with
    | .exempt => .permitUse
    | .allowance => .allowanceUse
    | .plain | .ladder => .paid

/-- The granted minutes of an allowance sale. -/
def grantedOf (r : Sale) (q : QuoteResult) : Option Nat :=
  if saleKind r == .allowanceUse then some q.paidMinutes else none

/-- The check result of the applied permit was STALE_VALID. -/
def saleStale (r : Sale) : Bool := r.permit.map (·.check) == some .staleValid

/-- The journal record that the sale unit offers; the cash unit gives it its sequence and segment (R100, R129). -/
def saleRecord (zoneSec : Nat) (r : Sale) (q : QuoteResult) : JournalRec :=
  { seq := 0, time := zoneSec, kind := saleKind r, key := r.pin, ladder := q.ladder, amount := q.price
    coins := if 0 < r.coinTotal then some r.escrow else none, card := r.card, start := q.start, expiry := q.expiry
    granted := grantedOf r q, permit := r.permit.map (·.number), stale := saleStale r, segment := 0 }

/-- The ticket (R101). -/
def ticketOf (seq : Nat) (r : Sale) (q : QuoteResult) : Ticket :=
  { seq := seq, start := q.start, paidFrom := q.paidFrom, expiry := q.expiry, paid := q.price, excess := q.excess
    permit := r.permit.map (·.number), key := r.pin, kind := saleKind r, stale := saleStale r, horizon := q.horizon
    granted := grantedOf r q, covers := if saleKind r == .allowanceUse then q.covers else none }

/-- The usage of an allowance commit (R100, R120). -/
def commitUsage (zoneSec : Nat) (r : Sale) (q : QuoteResult) (s : State) : State :=
  match r.permit, grantedOf r q with
  | some p, some m => addOwnUsage p.number (zoneSec / 86400) m s
  | _, _ => s

/-- A commit that passes: journal and tally, usage, release, ticket (R100). -/
def commitSale (zoneSec : Nat) (r : Sale) (q : QuoteResult) (s : State) : Answer :=
  okay (.ticket (ticketOf s.cash.nextSeq r q))
    (endSale (commitUsage zoneSec r q (takeOffer (saleRecord zoneSec r q) r.escrow s)))

/-- The box or the round stands against a commit (R99). -/
def commitBlocked (r : Sale) (s : State) : Bool :=
  s.rounds.ctx.state == .removed || (0 < r.coinTotal && s.boxAbsent)

/-- The permit store refuses to make the usage entry that an allowance commit needs (R99, R123). -/
def usageRefused (zoneSec : Nat) (r : Sale) (s : State) : Bool :=
  match r.permit with
  | some p => p.treat.kind == .allowance && s.usageBlocked p.number (zoneSec / 86400)
  | none => false

/-- The judgement of a commit from its requote (R99). -/
def judgeCommit (zoneSec : Nat) (r : Sale) (s : State) : Answer :=
  match r.quote with
  | .noStayNow => refuse .noStayNow s
  | .nothingToSell => refuse .nothingToSell s
  | .notEnough => refuse .notEnough s
  | .allowanceUnavailable => refuse (if commitBlocked r s then .cashBlocked else .allowanceUnavailable) s
  | .allowanceExhausted =>
    refuse
      (if commitBlocked r s then .cashBlocked
        else if usageRefused zoneSec r s then .allowanceUnavailable
        else .allowanceExhausted) s
  | .sold q =>
    if commitBlocked r s then refuse .cashBlocked s
    else if usageRefused zoneSec r s then refuse .allowanceUnavailable s
    else if journalFull s.cash then refuse .journalFull (raiseJournalFull s)
    else commitSale zoneSec r q s

/-- The judgement of SALE_COMMIT: the requote first. -/
def saleCommitBody (r : Sale) (s : State) : Answer :=
  let r1 := requoted s r
  judgeCommit ((s.zoneSec).getD 0) r1 (setSale r1 s)

/-- SALE_COMMIT (R99, R100). -/
def execSaleCommit (s : State) : Host.Outcome State Fault Refusal := host 21 machineOnly (onSale saleCommitBody) s

/-! ### Ending without a commit (R102, R103) -/

/-- SALE_CANCEL returns what the sale held. -/
def saleCancelBody (r : Sale) (s : State) : Answer :=
  okay (.cancelled r.escrow r.coinTotal r.card (r.permit.map (·.number))) (endSale s)

/-- SALE_CANCEL (R102). -/
def execSaleCancel (s : State) : Host.Outcome State Fault Refusal := host 22 machineOnly (onSale saleCancelBody) s

/-- A duration of the open sale has run. -/
def saleOver (start : Sale → Nat) (duration : Nat) (s : State) : Bool :=
  match s.sales.sale with
  | some r => s.hasRun (start r) duration
  | none => false

/-- SALE_INACTIVITY_EXPIRY: 120 s since the last event (R103). -/
def execSaleInactivityExpiry (s : State) : Host.Outcome State Fault Refusal :=
  act (fun t => if saleOver (·.lastEvent) 120000 t then abandonSale .inactivity t else t) s

/-- SALE_LIFETIME_EXPIRY: 600 s since SALE_OPEN (R103). -/
def execSaleLifetimeExpiry (s : State) : Host.Outcome State Fault Refusal :=
  act (fun t => if saleOver (·.openedAt) 600000 t then abandonSale .lifetime t else t) s

end Sys2Proof.Machine
end

