-- ==== Sys2Proof/Machine/SenseFamily.lean ====
section
/-! DEFINITION. The sense groups: samples, settled states and their changes (10.1). -/

namespace Sys2Proof.Machine

/-- Group `g`. -/
def State.groupAt (s : State) (g : Nat) : SenseGroup := s.sense.groups[g]?.getD SenseGroup.afterReset

/-- Group `g` becomes `x`. -/
def setGroup (g : Nat) (x : SenseGroup) (s : State) : State :=
  { s with sense := { s.sense with groups := s.sense.groups.set g x } }

/-- The group is sampled: its enable is set (R171). -/
def isEnabled (x : SenseGroup) : Bool := x.settled != .disabled

/-- The settings of a group, zeros before Setup. -/
def settingsOf (x : SenseGroup) : SenseSettings :=
  x.settings.getD { enable := false, input := 0, period := 0, debounce := 0, activeHigh := false }

/-- The sample period in milliseconds. -/
def periodMs (x : SenseGroup) : Nat := (settingsOf x).period * 64

/-- The end of a sample period of an enabled group (R172). -/
def State.sampleDue (s : State) (g : Nat) : Bool :=
  isEnabled (s.groupAt g) && s.hasRun (s.groupAt g).lastSample (periodMs (s.groupAt g))

/-- The run after a sample at a level (R172). The run goes by the count of samples, whatever the pin did between them: log
entry 78. -/
def sampled (level : Bool) (x : SenseGroup) : SenseGroup :=
  { x with
    runLevel := level
    runCount := if x.runCount != 0 && x.runLevel == level then min (x.runCount + 1) (settingsOf x).debounce else 1
    lastSample := x.lastSample + periodMs x }

/-- The pin of group `g` that its input select names (R171). -/
def pinOf (g : Nat) (x : SenseGroup) : Nat := 3 * g + (settingsOf x).input

/-- One sample of a group. -/
def takeSample (g : Nat) (level : Bool) (s : State) : State :=
  let x := s.groupAt g
  let s1 := setGroup g (sampled level x) s
  { s1 with sense := { s1.sense with pins := s1.sense.pins.set (pinOf g x) level } }

/-- SENSE_SAMPLE: the selected pin of an enabled group is found at a level at the end of a sample period (R172). -/
def execSenseSample (group : Nat) (level : Bool) (s : State) : Host.Outcome State Fault Refusal :=
  act (fun t => if t.sampleDue group then takeSample group level t else t) s

/-- The condition that a complete run shows, through the active level (R172). The count of agreeing samples alone decides, so
that a pulse shorter than R172's debounce count times sample period can be accepted: log entry 78. -/
def runCondition (x : SenseGroup) : Option Settled :=
  if isEnabled x && x.runCount != 0 && (settingsOf x).debounce ≤ x.runCount then
    some (if x.runLevel == (settingsOf x).activeHigh then .active else .inactive)
  else none

/-- The condition to which an UNSETTLED group first settles now (R173). -/
def firstCondition (x : SenseGroup) : Option Settled := if x.settled == .unsettled then runCondition x else none

/-- The condition to which a settled group changes now (R174). -/
def changedCondition (x : SenseGroup) : Option Settled :=
  if x.settled == .unsettled then none else (runCondition x).filter (fun c => c != x.settled)

/-- The round unit takes a first-settled notice of DOOR or BOX (R148, R173). -/
def roundFirstSettled (group : Nat) (s : State) : State :=
  if group ≤ 1 && s.isMachine && s.groupKnown 0 && s.groupKnown 1 then judgeRemoved s else s

/-- A group first settles: no change is reported; TILT found upright clears its fault (R173). -/
def firstSettle (group : Nat) (c : Settled) (s : State) : State :=
  let s1 := roundFirstSettled group (setGroup group { s.groupAt group with settled := c } s)
  if group = 2 ∧ c = .inactive then clearFault .tilt 0 s1 else s1

/-- FIRST_SETTLED (R173). -/
def execFirstSettled (group : Nat) (s : State) : Host.Outcome State Fault Refusal :=
  act
    (fun t =>
      match firstCondition (t.groupAt group) with
      | some c => firstSettle group c t
      | none => t) s

/-- A change is handed on to the unit of its group (R174). -/
def handChange (group : Nat) (c : Settled) (s : State) : State :=
  match group with
  | 0 => atMachine doorChange s
  | 1 => atMachine boxChange s
  | 2 => if c == .active then raiseFault .tilt 0 s else clearFault .tilt 0 s
  | _ => s

/-- A group changes: its count, SENSE_CHANGED, then the unit it is handed to (R174). -/
def changeGroup (group : Nat) (c : Settled) (s : State) : State :=
  let x := s.groupAt group
  let s1 := setGroup group { x with settled := c, changes := countUp x.changes } s
  handChange group c (postEvent (.senseChanged group (c == .active) s.zoneSec) s1)

/-- SENSE_GROUP_CHANGE (R174). -/
def execSenseGroupChange (group : Nat) (s : State) : Host.Outcome State Fault Refusal :=
  act
    (fun t =>
      match changedCondition (t.groupAt group) with
      | some c => changeGroup group c t
      | none => t) s

/-- A group as READ_SENSE gives it. -/
def senseRow (x : SenseGroup) : SenseRow :=
  { settings := x.settings, settled := x.settled, runLevel := x.runLevel, runCount := x.runCount, changes := x.changes }

/-- READ_SENSE (R175). -/
def execReadSense (s : State) : Host.Outcome State Fault Refusal :=
  host 44 anyRole (fun t => okay (.sense (t.sense.groups.map senseRow)) t) s

end Sys2Proof.Machine
end

