-- ==== Sys2Proof/Machine/TariffFamily.lean ====
section
/-! DEFINITION. The commands of the tariff store: reading a held set, the draft, and publishing (4.9, 4.10). -/

namespace Sys2Proof.Machine

/-! ### READ_TARIFF (R75) -/

/-- The set of a slot. -/
def slotSet (t : Tariff) : TariffSlot → Option TariffSet
  | .active => t.active
  | .pending => t.pending
  | .retired => t.retired

/-- A band as READ_TARIFF gives it. Log entry 34. -/
def bandEntry (l : Ladder) (r : Nat) : TariffEntry :=
  .band (bandBytes (bandAt l r)) (baseTime l r) (basePrice l r) (decide (r ≤ lastBand l))

/-- An entry of a part in its layout. -/
def partBytes (t : TariffSet) (part : TariffPart) (index : Nat) : List Byte :=
  match part with
  | .header => if index = 0 then setHeaderBytes t else ladderHeaderBytes (ladderAt t (index - 1))
  | .ladder0 => bandBytes (bandAt (ladderAt t 0) index)
  | .ladder1 => bandBytes (bandAt (ladderAt t 1) index)
  | .ladder2 => bandBytes (bandAt (ladderAt t 2) index)
  | .ladder3 => bandBytes (bandAt (ladderAt t 3) index)
  | .dayParts => (t.dayParts[index]?.map dayPartBytes).getD []
  | .classes => (t.classes[index]?.map classEntryBytes).getD []
  | .calendar => (t.calendar[index]?.map calEntryBytes).getD []

/-- An entry of a part with the figures READ_TARIFF adds. -/
def tariffEntry (t : TariffSet) (part : TariffPart) (index : Nat) : TariffEntry :=
  match ladderIndex part with
  | some k => bandEntry (ladderAt t k) index
  | none =>
    if part == .header && index != 0 then
      .ladderHeader (partBytes t part index) (ladderFigures (ladderAt t (index - 1)))
    else .plain (partBytes t part index)

/-- The judgement of READ_TARIFF. -/
def readTariffBody (slot : Option TariffSlot) (part : Option TariffPart) (index : Nat) (s : State) : Answer :=
  match slot, part with
  | some sl, some p =>
    if partSize p ≤ index then refuse .badParameter s
    else
      match slotSet s.tariff sl with
      | none => refuse .notFound s
      | some t => okay (.tariff t.key t.effectiveFrom t.reference (tariffEntry t p index)) s
  | _, _ => refuse .badParameter s

/-- READ_TARIFF (R75). -/
def execReadTariff (slot : Option TariffSlot) (part : Option TariffPart) (index : Nat) (s : State) :
    Host.Outcome State Fault Refusal :=
  host 9 anyRole (readTariffBody slot part index) s

/-! ### The draft (R76 to R79) -/

/-- The draft becomes `d`. -/
def setDraft (d : Option Draft) (s : State) : State := setTariff { s.tariff with draft := d } s

/-- A draft whose every field has its empty value (R76); a NONE class and an unused calendar entry hold 0 beside. Log entry
50. -/
def emptySet : TariffSet :=
  { key := none, effectiveFrom := 0, reference := 0, ladders := List.replicate 4 blankLadder
    dayParts := List.replicate 12 { mask := 0#8, start := 0, stop := 0, treat := .free }
    classes := List.replicate 6 { kind := .plain, k := 0 }
    calendar := List.replicate 16 { day := 0, kind := none } }

/-- A draft just begun. -/
def beginDraft (t : TariffSet) : Draft := { tset := t, part := .header, index := 0 }

/-- A draft begun from a slot. -/
def beginFrom (t : Option TariffSet) (s : State) : Answer :=
  match t with
  | none => refuse .notFound s
  | some t => okay (.draftBegun t.key (some t.effectiveFrom)) (setDraft (some (beginDraft t)) s)

/-- The judgement of TARIFF_DRAFT_BEGIN. -/
def draftBeginBody (source : Option DraftSource) (s : State) : Answer :=
  match source with
  | none => refuse .badParameter s
  | some .active => beginFrom s.tariff.active s
  | some .pending => beginFrom s.tariff.pending s
  | some .empty => okay (.draftBegun none none) (setDraft (some (beginDraft emptySet)) s)

/-- TARIFF_DRAFT_BEGIN (R76). -/
def execTariffDraftBegin (source : Option DraftSource) (s : State) : Host.Outcome State Fault Refusal :=
  host 10 gatewayOnly (draftBeginBody source) s

/-- A draft command while the draft is present (R76). -/
def withDraft (body : Draft → State → Answer) (s : State) : Answer :=
  match s.tariff.draft with
  | none => refuse .notFound s
  | some d => body d s

/-- The judgement of TARIFF_DRAFT_SELECT. -/
def draftSelectBody (part : Option TariffPart) (d : Draft) (s : State) : Answer :=
  match part with
  | none => refuse .badParameter s
  | some p => okay (.draftPart (partSize p)) (setDraft (some { d with part := p, index := 0 }) s)

/-- TARIFF_DRAFT_SELECT (R77). -/
def execTariffDraftSelect (part : Option TariffPart) (s : State) : Host.Outcome State Fault Refusal :=
  host 11 gatewayOnly (withDraft (draftSelectBody part)) s

/-- The bytes that one entry of a part takes. -/
def entryLength (part : TariffPart) (index : Nat) : Nat :=
  match part with
  | .header => if index = 0 then 16 else 4
  | .ladder0 | .ladder1 | .ladder2 | .ladder3 => 5
  | .dayParts => 6
  | .classes => 2
  | .calendar => 3

/-- A set with ladder `k` changed. -/
def setLadder (k : Nat) (f : Ladder → Ladder) (t : TariffSet) : TariffSet :=
  { t with ladders := t.ladders.set k (f (ladderAt t k)) }

/-- A ladder with band `r` replaced. -/
def setBand (r : Nat) (b : Band) (l : Ladder) : Ladder := { l with bands := l.bands.set r b }

/-- A draft entry written; `none` where an encoding names no value, a part size or a zero byte of the set header among them
(R78, R193). Entry 0 of HEADER gives the tariff reference alone (R78). Log entry 22. -/
def writeEntry (part : TariffPart) (index : Nat) (bs : List Byte) (t : TariffSet) : Option TariffSet :=
  match part with
  | .header =>
    if index = 0 then
      if bytesAt bs 9 7 = setHeaderTail then some { t with reference := fieldAt bs 7 2 } else none
    else some (setLadder (index - 1) (fun l => ladderHeaderOf bs l.bands) t)
  | .ladder0 => some (setLadder 0 (setBand index (bandOf bs)) t)
  | .ladder1 => some (setLadder 1 (setBand index (bandOf bs)) t)
  | .ladder2 => some (setLadder 2 (setBand index (bandOf bs)) t)
  | .ladder3 => some (setLadder 3 (setBand index (bandOf bs)) t)
  | .dayParts => (dayPartOf bs).map fun d => { t with dayParts := t.dayParts.set index d }
  | .classes => (classEntryOf bs).map fun c => { t with classes := t.classes.set index c }
  | .calendar => (calEntryOf bs).map fun c => { t with calendar := t.calendar.set index c }

/-- The entry index after one more, returning to 0 at the size of the part. -/
def nextIndex (d : Draft) : Nat := if d.index + 1 < partSize d.part then d.index + 1 else 0

/-- The judgement of TARIFF_DRAFT_WRITE. -/
def draftWriteBody (entry : List Byte) (d : Draft) (s : State) : Answer :=
  if entry.length ≠ entryLength d.part d.index then refuse .badParameter s
  else
    match writeEntry d.part d.index entry d.tset with
    | none => refuse .badParameter s
    | some t => okay (.draftIndex (nextIndex d)) (setDraft (some { d with tset := t, index := nextIndex d }) s)

/-- TARIFF_DRAFT_WRITE (R78). -/
def execTariffDraftWrite (entry : List Byte) (s : State) : Host.Outcome State Fault Refusal :=
  host 12 gatewayOnly (withDraft (draftWriteBody entry)) s

/-- TARIFF_DRAFT_READ returns the entry at the index and advances it (R79). -/
def draftReadBody (d : Draft) (s : State) : Answer :=
  okay (.draftEntry d.index (partBytes d.tset d.part d.index)) (setDraft (some { d with index := nextIndex d }) s)

/-- TARIFF_DRAFT_READ (R79). -/
def execTariffDraftRead (s : State) : Host.Outcome State Fault Refusal :=
  host 13 gatewayOnly (withDraft draftReadBody) s

/-! ### TARIFF_PUBLISH (R80, R81) -/

/-- The highest generation held in a slot or advertised by a peer entry (R80). -/
def highestTariffGen (s : State) : Nat :=
  maxOf
    ([genOf (slotKey s.tariff.active), genOf (slotKey s.tariff.pending), genOf (slotKey s.tariff.retired)]
      ++ s.link.peers.flatMap fun p => [genOf p.active, genOf p.pending])

/-- A publish that passes: the new key, the install, the holdings notice (R81). -/
def publish (effectiveFrom zoneSec : Nat) (d : Draft) (s : State) : Answer :=
  let key : Key := { gen := highestTariffGen s + 1, pub := s.own }
  let new := { d.tset with key := some key, effectiveFrom := effectiveFrom }
  let slot : TariffSlot := if effectiveFrom ≤ zoneSec then .active else .pending
  let s1 := setTariff { installAt slot new s.tariff with draft := some { d with tset := new } } s
  okay (.published key slot) (clearMissing (holdingsNotice s1))

/-- The judgement of TARIFF_PUBLISH. -/
def publishBody (effectiveFrom : Nat) (d : Draft) (s : State) : Answer :=
  if 4294967295 < effectiveFrom then refuse .badParameter s
  else
    match s.zoneSec with
    | none => refuse .clockUnset s
    | some z =>
      match validate d.tset with
      | some (check, part, index) => (.invalidTariff, .invalidTariff check (some (part, index)), s)
      | none =>
        if 65535 ≤ highestTariffGen s then (.invalidTariff, .invalidTariff .generation none, s)
        else publish effectiveFrom z d s

/-- TARIFF_PUBLISH (R80, R81). -/
def execTariffPublish (effectiveFrom : Nat) (s : State) : Host.Outcome State Fault Refusal :=
  host 14 gatewayOnly (withDraft (publishBody effectiveFrom)) s

end Sys2Proof.Machine
end

