-- ==== Sys2Proof/Machine/Dispatch.lean ====
section
/-! DEFINITION. The dispatch: one arm per command, each a direct call of its meaning. -/

namespace Sys2Proof.Machine

/-- The effect of a command on everything but the queue. -/
def exec (i : Instr) (s : State) : Host.Outcome State Fault Refusal :=
  match i with
  | .powerOn => Sys2Proof.Machine.execPowerOn s
  | .resetN high => Sys2Proof.Machine.execResetN high s
  | .remoteRestart => Sys2Proof.Machine.execRemoteRestart s
  | .readTransfer whole => Sys2Proof.Machine.execReadTransfer whole s
  | .badFrameWrite bytes => Sys2Proof.Machine.execBadFrameWrite bytes s
  | .overrunWrite => Sys2Proof.Machine.execOverrunWrite s
  | .undefinedCommandCode code => Sys2Proof.Machine.execUndefinedCommandCode code s
  | .identify => Sys2Proof.Machine.execIdentify s
  | .readStatus => Sys2Proof.Machine.execReadStatus s
  | .setup p => Sys2Proof.Machine.execSetup p s
  | .readEvent => Sys2Proof.Machine.execReadEvent s
  | .setAssetTag tag => Sys2Proof.Machine.execSetAssetTag tag s
  | .setTime seconds => Sys2Proof.Machine.execSetTime seconds s
  | .readPeer station => Sys2Proof.Machine.execReadPeer station s
  | .readReplication => Sys2Proof.Machine.execReadReplication s
  | .readTariff slot part index => Sys2Proof.Machine.execReadTariff slot part index s
  | .tariffDraftBegin source => Sys2Proof.Machine.execTariffDraftBegin source s
  | .tariffDraftSelect part => Sys2Proof.Machine.execTariffDraftSelect part s
  | .tariffDraftWrite entry => Sys2Proof.Machine.execTariffDraftWrite entry s
  | .tariffDraftRead => Sys2Proof.Machine.execTariffDraftRead s
  | .tariffPublish effectiveFrom => Sys2Proof.Machine.execTariffPublish effectiveFrom s
  | .quote mode value cls => Sys2Proof.Machine.execQuote mode value cls s
  | .saleOpen => Sys2Proof.Machine.execSaleOpen s
  | .saleCoin index => Sys2Proof.Machine.execSaleCoin index s
  | .saleCard amount => Sys2Proof.Machine.execSaleCard amount s
  | .salePermit number => Sys2Proof.Machine.execSalePermit number s
  | .saleDuration minutes => Sys2Proof.Machine.execSaleDuration minutes s
  | .saleCommit => Sys2Proof.Machine.execSaleCommit s
  | .saleCancel => Sys2Proof.Machine.execSaleCancel s
  | .checkPermit number => Sys2Proof.Machine.execCheckPermit number s
  | .amendPermit op => Sys2Proof.Machine.execAmendPermit op s
  | .closeSection n => Sys2Proof.Machine.execCloseSection n s
  | .sectionLoadBegin n => Sys2Proof.Machine.execSectionLoadBegin n s
  | .sectionLoadRecord record => Sys2Proof.Machine.execSectionLoadRecord record s
  | .sectionLoadEnd closed => Sys2Proof.Machine.execSectionLoadEnd closed s
  | .readSection n number => Sys2Proof.Machine.execReadSection n number s
  | .readUsage number => Sys2Proof.Machine.execReadUsage number s
  | .readTally => Sys2Proof.Machine.execReadTally s
  | .readJournal sequence => Sys2Proof.Machine.execReadJournal sequence s
  | .roundOpenCommand => Sys2Proof.Machine.execRoundOpenCommand s
  | .roundVisitCommand station => Sys2Proof.Machine.execRoundVisitCommand station s
  | .roundCloseCommand => Sys2Proof.Machine.execRoundCloseCommand s
  | .readSheet index => Sys2Proof.Machine.execReadSheet index s
  | .readRound => Sys2Proof.Machine.execReadRound s
  | .raiseFault kind => Sys2Proof.Machine.execRaiseFault kind s
  | .ackFault owner kind subject => Sys2Proof.Machine.execAckFault owner kind subject s
  | .clearFault owner kind subject => Sys2Proof.Machine.execClearFault owner kind subject s
  | .readFaults owner kind subject => Sys2Proof.Machine.execReadFaults owner kind subject s
  | .restartStation target number => Sys2Proof.Machine.execRestartStation target number s
  | .pageStation target code => Sys2Proof.Machine.execPageStation target code s
  | .readSense => Sys2Proof.Machine.execReadSense s
  | .rest => Sys2Proof.Machine.execRest s
  | .readPower => Sys2Proof.Machine.execReadPower s
  | .frameDiscarded bytes => Sys2Proof.Machine.execFrameDiscarded bytes s
  | .receiveGapTimeout => Sys2Proof.Machine.execReceiveGapTimeout s
  | .announce h receptionMs a => Sys2Proof.Machine.execAnnounce h receptionMs a s
  | .request h r => Sys2Proof.Machine.execRequest h r s
  | .fragment h f => Sys2Proof.Machine.execFragment h f s
  | .notHeld h obj key => Sys2Proof.Machine.execNotHeld h obj key s
  | .superseded h obj key => Sys2Proof.Machine.execSuperseded h obj key s
  | .amendment h n old new change => Sys2Proof.Machine.execAmendment h n old new change s
  | .usage h u => Sys2Proof.Machine.execUsage h u s
  | .faultReport h r => Sys2Proof.Machine.execFaultReport h r s
  | .faultAck h kind subject => Sys2Proof.Machine.execFaultAck h kind subject s
  | .faultClear h kind subject => Sys2Proof.Machine.execFaultClear h kind subject s
  | .roundOpenFrame h round => Sys2Proof.Machine.execRoundOpenFrame h round s
  | .roundVisitFrame h round => Sys2Proof.Machine.execRoundVisitFrame h round s
  | .roundCloseFrame h round => Sys2Proof.Machine.execRoundCloseFrame h round s
  | .collectionReport h d => Sys2Proof.Machine.execCollectionReport h d s
  | .collectionAck h first last => Sys2Proof.Machine.execCollectionAck h first last s
  | .restart h target => Sys2Proof.Machine.execRestart h target s
  | .page h code => Sys2Proof.Machine.execPage h code s
  | .cycleStartMark lcd => Sys2Proof.Machine.execCycleStartMark lcd s
  | .ownSlotMark => Sys2Proof.Machine.execOwnSlotMark s
  | .exchangePeriodMark lcd => Sys2Proof.Machine.execExchangePeriodMark lcd s
  | .endOfExchangeMark => Sys2Proof.Machine.execEndOfExchangeMark s
  | .mediumIdle => Sys2Proof.Machine.execMediumIdle s
  | .backoffWaitExpiry lcd => Sys2Proof.Machine.execBackoffWaitExpiry lcd s
  | .frameSent lcd => Sys2Proof.Machine.execFrameSent lcd s
  | .qualityAgeExpiry => Sys2Proof.Machine.execQualityAgeExpiry s
  | .dayRollover => Sys2Proof.Machine.execDayRollover s
  | .changeover => Sys2Proof.Machine.execChangeover s
  | .intakeProgressTimeout => Sys2Proof.Machine.execIntakeProgressTimeout s
  | .peerSilence station => Sys2Proof.Machine.execPeerSilence station s
  | .sectionBehindExpiry n => Sys2Proof.Machine.execSectionBehindExpiry n s
  | .saleInactivityExpiry => Sys2Proof.Machine.execSaleInactivityExpiry s
  | .saleLifetimeExpiry => Sys2Proof.Machine.execSaleLifetimeExpiry s
  | .visitPeriodExpiry => Sys2Proof.Machine.execVisitPeriodExpiry s
  | .senseSample group level => Sys2Proof.Machine.execSenseSample group level s
  | .firstSettled group => Sys2Proof.Machine.execFirstSettled group s
  | .senseGroupChange group => Sys2Proof.Machine.execSenseGroupChange group s
  | .wakeButtonPress => Sys2Proof.Machine.execWakeButtonPress s
  | .supplyLowAssert => Sys2Proof.Machine.execSupplyLowAssert s
  | .supplyLowDeassert => Sys2Proof.Machine.execSupplyLowDeassert s
  | .awakeGraceExpiry => Sys2Proof.Machine.execAwakeGraceExpiry s
  | .dormantEntry => Sys2Proof.Machine.execDormantEntry s
  | .byteReceived b stopOk => Sys2Proof.Machine.execByteReceived b stopOk s
  | .lineQuiet => Sys2Proof.Machine.execLineQuiet s
  | .announceEnded lcd => Sys2Proof.Machine.execAnnounceEnded lcd s

end Sys2Proof.Machine
end

