-- ==== Sys2Proof/Machine/Internal.lean ====
section
/-! DEFINITION. What the block does by itself while no command waits: the row that is due now, or one millisecond more.
Log entries 1 and 2. -/

namespace Sys2Proof.Machine

/-! ### The frame in the waiting place (R19, R23) -/

/-- The row of a frame that passed the filters; an announce carries the length of its reception (R8). -/
def frameCommand (h : FrameHeader) (receptionMs : Nat) : FrameBody → Instr
  | .announce a => .announce h receptionMs a
  | .request r => .request h r
  | .fragment f => .fragment h f
  | .notHeld obj key => .notHeld h obj key
  | .superseded obj key => .superseded h obj key
  | .amendment i old new change => .amendment h i old new change
  | .usage u => .usage h u
  | .faultReport r => .faultReport h r
  | .faultAck kind subject => .faultAck h kind subject
  | .faultClear kind subject => .faultClear h kind subject
  | .roundOpen n => .roundOpenFrame h n
  | .roundVisit n => .roundVisitFrame h n
  | .roundClose n => .roundCloseFrame h n
  | .collectionReport d => .collectionReport h d
  | .collectionAck first last => .collectionAck h first last
  | .restart n => .restart h n
  | .page code => .page h code

/-- The row that a complete frame is: the frame it carries, or FRAME_DISCARDED (R20). -/
def receivedCommand (s : State) (r : Received) : Instr :=
  match filterBytes s.zoneNo s.own r.bytes with
  | .inl _ => .frameDiscarded r.bytes
  | .inr (h, body) => frameCommand h (r.finish - r.start) body

/-- The receive path hands its waiting frame over. -/
def beginHanding (s : State) : State := { s with link := { s.link with waiting := none, handing := true } }

/-- The receive path has handed its frame over. -/
def endHanding (s : State) : State := { s with link := { s.link with handing := false } }

/-! ### Rows that are due -/

/-- A row, where it is due. -/
def dueIf (due : Bool) (i : Instr) : Option Instr := if due then some i else none

/-- The ends of transmissions and of gaps on the line that are due, in the order of log entry 2. -/
def State.dueOnLine (s : State) : Option Instr :=
  (dueIf s.frameOut (.frameSent s.link.lcd)).or
    ((dueIf s.entryDue .dormantEntry).or
      ((dueIf s.announceOut (.announceEnded s.link.lcd)).or
        ((dueIf s.gapOver .receiveGapTimeout).or (dueIf s.quietOver .lineQuiet))))

/-- The calendar rows and marks that are due, in the order of log entry 2. -/
def State.dueOnClock (s : State) : Option Instr :=
  (dueIf s.changeoverDue .changeover).or
    ((dueIf s.rolloverDue .dayRollover).or
      ((dueIf (s.markDue .endOfExchange) .endOfExchangeMark).or
        ((dueIf (s.markDue .cycleStart) (.cycleStartMark s.link.lcd)).or
          ((dueIf (s.markDue .ownSlot) .ownSlotMark).or
            (dueIf (s.markDue .exchangeStart) (.exchangePeriodMark s.link.lcd))))))

/-- The durations of Table 1.1 that have run, in the order of log entry 2: of a sale's two, inactivity before lifetime. -/
def State.dueOnTimers (s : State) : Option Instr :=
  (dueIf s.backoffOver (.backoffWaitExpiry s.link.lcd)).or
    ((dueIf s.ageOver .qualityAgeExpiry).or
      ((dueIf s.intakeStalled .intakeProgressTimeout).or
        (((s.link.peers.find? (silentDue s)).map fun p => .peerSilence p.station).or
          (((List.range 8).find? s.staleDue).map .sectionBehindExpiry |>.or
            ((dueIf (saleOver (·.lastEvent) 120000 s) .saleInactivityExpiry).or
              ((dueIf (saleOver (·.openedAt) 600000 s) .saleLifetimeExpiry).or
                ((dueIf s.visitOver .visitPeriodExpiry).or (dueIf s.graceOver .awakeGraceExpiry))))))))

/-- The level of the pin that a sense group samples. -/
def State.pinLevel (s : State) (g : Nat) : Bool := (s.sense.pins[pinOf g (s.groupAt g)]?).getD false

/-- What is due for the sense groups: a settlement, a change, then a sample, each of the lowest group first. Log entry 2. -/
def State.dueOnSense (s : State) : Option Instr :=
  (((List.range 4).find? fun g => (firstCondition (s.groupAt g)).isSome).map .firstSettled).or
    ((((List.range 4).find? fun g => (changedCondition (s.groupAt g)).isSome).map .senseGroupChange).or
      (((List.range 4).find? s.sampleDue).map fun g => .senseSample g (s.pinLevel g)))

/-- A level of SUPPLY_LOW, then a press, that the samples have found (R178, R179). Log entry 2. -/
def State.dueOnPower (s : State) : Option Instr :=
  (dueIf (s.supplyDue true) .supplyLowAssert).or
    ((dueIf (s.supplyDue false) .supplyLowDeassert).or
      (dueIf s.pressDue .wakeButtonPress))

/-- The first row that is due now, in a fixed order (log entry 2). -/
def State.nextDue (s : State) : Option Instr :=
  s.dueOnLine.or (s.dueOnClock.or (s.dueOnTimers.or (s.dueOnSense.or s.dueOnPower)))

/-! ### One millisecond more (R2, R5, R178, R179) -/

/-- A millisecond passes, and the power unit samples its pins where one is due. -/
def tick (s : State) : State :=
  let c := tickClock s.clock
  { s with clock := c, power := pinsAt c.elapsed s.power }

end Sys2Proof.Machine
end

