-- ==== Sys2Proof/Machine/Idle.lean ====
section
/-! DEFINITION. A step on an empty queue: the block goes on by itself. Log entry 1. -/

namespace Sys2Proof.Machine

/-- What the block does with the frame in its waiting place: the frame's own row, taken from the receive path (R23). -/
def handOver (r : Received) (s : State) : Host.Outcome State Fault Refusal :=
  match exec (receivedCommand s r) (beginHanding s) with
  | .next t => .next (endHanding t)
  | .fault f => .fault f
  | .refused f => .refused f

/-- A step on an empty queue: a restart in progress, the waiting frame, the first row that is due, or one millisecond
more; nothing while RESET_N is low. -/
def idleStep (s : State) : Host.Outcome State Fault Refusal :=
  if s.port.resetHigh then
    if s.faults.restartBy.isSome then exec .remoteRestart s
    else
      match s.link.waiting with
      | some r => handOver r s
      | none =>
        match s.nextDue with
        | some i => exec i s
        | none => .next (tick s)
  else .next s

end Sys2Proof.Machine
end

