-- ==== Sys2Proof/Safety.lean ====
section
/-! DEFINITION. The words the statements are made of: when the port takes a request and how a command is answered, when a frame
is honoured, and the invariants that every step keeps. -/

namespace Sys2Proof.Machine

/-! ### Requests and answers -/

/-- The port takes a request: RESET_N is high, no response is unread and no restart is in progress (R169, R183, R191). -/
def State.takesRequest (s : State) : Bool := s.port.resetHigh && !s.portBusy

/-- The port takes a request of a command open to some stations: Setup is done and the role is one of them. -/
def State.openTo (roles : State → Bool) (s : State) : Bool := s.takesRequest && s.setupDone && roles s

/-- The command acts and nothing else does: the next state is `u`, put in order. -/
def acts (i : Instr) (s u : State) : Prop := exec i s = .next (settle u)

/-- The command is answered: the response stands in the buffer of the state `u` that the command leaves. -/
def answers (i : Instr) (s : State) (code : Nat) (st : Status) (r : Result) (u : State) : Prop :=
  acts i s (respond code (st, r, u))

/-- The command code of a host command (Table 12.8). -/
def hostCode : Instr → Option Nat
  | .identify => some 1 | .readStatus => some 2 | .setup _ => some 3 | .readEvent => some 4 | .setAssetTag _ => some 5
  | .setTime _ => some 6 | .readPeer _ => some 7 | .readReplication => some 8 | .readTariff _ _ _ => some 9
  | .tariffDraftBegin _ => some 10 | .tariffDraftSelect _ => some 11 | .tariffDraftWrite _ => some 12
  | .tariffDraftRead => some 13 | .tariffPublish _ => some 14 | .quote _ _ _ => some 15 | .saleOpen => some 16
  | .saleCoin _ => some 17 | .saleCard _ => some 18 | .salePermit _ => some 19 | .saleDuration _ => some 20
  | .saleCommit => some 21 | .saleCancel => some 22 | .checkPermit _ => some 23 | .amendPermit _ => some 24
  | .closeSection _ => some 25 | .sectionLoadBegin _ => some 26 | .sectionLoadRecord _ => some 27
  | .sectionLoadEnd _ => some 28 | .readSection _ _ => some 29 | .readUsage _ => some 30 | .readTally => some 31
  | .readJournal _ => some 32 | .roundOpenCommand => some 33 | .roundVisitCommand _ => some 34
  | .roundCloseCommand => some 35 | .readSheet _ => some 36 | .readRound => some 37 | .raiseFault _ => some 38
  | .ackFault _ _ _ => some 39 | .clearFault _ _ _ => some 40 | .readFaults _ _ _ => some 41
  | .restartStation _ _ => some 42 | .pageStation _ _ => some 43 | .readSense => some 44 | .rest => some 45
  | .readPower => some 46
  | _ => none

/-- The commands taken before Setup (R187). -/
def beforeSetup : Instr → Bool
  | .identify | .readStatus | .setup _ => true
  | _ => false

/-- The stations that a host command is open to. -/
def hostRoles : Instr → State → Bool
  | .tariffDraftBegin _ | .tariffDraftSelect _ | .tariffDraftWrite _ | .tariffDraftRead | .tariffPublish _
  | .amendPermit _ | .closeSection _ | .sectionLoadBegin _ | .sectionLoadRecord _ | .sectionLoadEnd _
  | .ackFault _ _ _ => gatewayOnly
  | .saleOpen | .saleCoin _ | .saleCard _ | .salePermit _ | .saleDuration _ | .saleCommit | .saleCancel => machineOnly
  | .roundOpenCommand | .roundVisitCommand _ | .roundCloseCommand | .readSheet _ => collectorOnly
  | .restartStation _ _ => engineerOnly
  | .pageStation _ _ => pagerRole
  | .clearFault owner _ _ => clearRole owner
  | _ => anyRole

/-- A transfer of the host port: a command, or one of the four rows that are transfers but no command (R183, R184). -/
def isTransfer (i : Instr) : Bool :=
  (hostCode i).isSome
    || match i with
      | .readTransfer _ | .badFrameWrite _ | .overrunWrite | .undefinedCommandCode _ => true
      | _ => false

/-! ### Resets -/

/-- `t` is `s` after a reset: the nonvolatile records of `s`, what is no state of the part (the levels of its pins, the
queue of commands), and every other piece of state at its value after reset (11.6); where the level of RESET_N then stands is
said beside it. Log entries 7 and 32. -/
structure afterReset (cause : ResetCause) (s t : State) : Prop where
  clock : t.clock =
    { elapsed := 0, zone := none, quality := none, ageStart := none, rolloverDay := s.clock.rolloverDay
      marksGiven := [], draws := s.clock.draws }
  link : t.link =
    { tx := [], line := none, access := .off, lcd := s.link.lcd, path := .idle, waiting := none, handing := false
      receiver := false, heldOn := false, addressedAt := none, windowHeard := [], changedAt := none
      peers := [], lastDuplicate := none }
  repl : t.repl = { want := [], declined := [], intake := none, supply := [] }
  tariff : t.tariff = { s.tariff with retired := none, pin := none, draft := none }
  sales : t.sales = { sale := none, openMark := false }
  permits : t.permits =
    { s.permits with
      sections := s.permits.sections.map fun p => { p with behindSince := none, staleRaised := false }
      draft := none, usage := ownUsageOnly s.own s.permits.usage, lostDay := none, settled := false, cycleMarks := 0
      positions := [] }
  cash : t.cash = s.cash
  rounds : t.rounds =
    { s.rounds with
      ctx := { s.rounds.ctx with
        state := if s.rounds.ctx.state = .visited then .opened else s.rounds.ctx.state
        visitStart := none }
      log := s.rounds.log.map fun r => { r with due := false, held := false }
      dueList := [] }
  faults : t.faults =
    { s.faults with
      table := s.faults.table.filter (·.owner == s.own), positions := [], observed := [], restartBy := none }
  sense : t.sense = { s.sense with groups := s.sense.groups.map fun _ => SenseGroup.afterReset }
  power : t.power =
    { state := .awake, warning := none, dormantDue := false, dormantSince := none, wakeCause := .reset, recorded := none
      periods := 0, supply := none, lastPeriod := none, restTaken := false, supplyPin := s.power.supplyPin
      supplyRunLevel := false, supplyRunCount := 0, buttonPin := s.power.buttonPin, buttonRun := .waiting }
  port : t.port =
    { s.port with
      buffer := none, badFrameSeen := false, overrunSeen := false, events := [], resetCause := cause, setup := none
      sdo := none, resetHigh := t.port.resetHigh }
  queue : t.pending = s.pending

/-! ### Frames -/

/-- A frame reaches the filters and passes them (R19, R20). -/
def State.passes (h : FrameHeader) (body : FrameBody) (s : State) : Bool :=
  s.port.resetHigh && s.canReceive && (filterStep s.zoneNo s.own h body).isNone

/-- A frame passes the filters and finds a place (R20, R23). -/
def State.accepts (h : FrameHeader) (body : FrameBody) (s : State) : Bool := s.passes h body && s.hasPlace

/-- A frame other than an announce is honoured: accepted, from a station with an entry, in a role it trusts (R22). -/
def State.honours (h : FrameHeader) (body : FrameBody) (s : State) : Bool :=
  s.accepts h body && ((s.peer h.sender).map fun p => senderTrusted body p.role) == some true

/-- The state in which the owning unit takes an honoured frame: noted for R17, its sender heard (R17, R22). -/
def heard (h : FrameHeader) (s : State) : State := noteHeard h.sender (noteAddressed h s)

/-- The frame that a command of a received frame carries by content (log entry 8). -/
def carriedFrame : Instr → Option (FrameHeader × FrameBody)
  | .announce h _ a => some (h, .announce a)
  | .request h r => some (h, .request r)
  | .fragment h f => some (h, .fragment f)
  | .notHeld h obj key => some (h, .notHeld obj key)
  | .superseded h obj key => some (h, .superseded obj key)
  | .amendment h i old new change => some (h, .amendment i old new change)
  | .usage h u => some (h, .usage u)
  | .faultReport h r => some (h, .faultReport r)
  | .faultAck h kind subject => some (h, .faultAck kind subject)
  | .faultClear h kind subject => some (h, .faultClear kind subject)
  | .roundOpenFrame h n => some (h, .roundOpen n)
  | .roundVisitFrame h n => some (h, .roundVisit n)
  | .roundCloseFrame h n => some (h, .roundClose n)
  | .collectionReport h d => some (h, .collectionReport d)
  | .collectionAck h first last => some (h, .collectionAck first last)
  | .restart h n => some (h, .restart n)
  | .page h code => some (h, .page code)
  | _ => none

/-- A frame is an announce. -/
def isAnnounce : FrameBody → Bool
  | .announce _ => true
  | _ => false

/-! ### Rows that are due -/

/-- A run of agreeing samples of an enabled group is complete (R172). -/
def runComplete (x : SenseGroup) : Prop :=
  x.settled ≠ .disabled ∧ x.runCount ≠ 0 ∧ (settingsOf x).debounce ≤ x.runCount

/-- The condition that the level of a run shows, through the active level (R172). -/
def runShows (x : SenseGroup) : Settled := if x.runLevel = (settingsOf x).activeHigh then .active else .inactive

/-- A row that comes by itself is due: the instant it stands for has come, its duration has run, or the samples have found what
it reports. The operands are those of the instant: the level of LCD, the station, the section, the group, the level of its pin.
Log entry 2. -/
def rowDue (s : State) : Instr → Prop
  | .frameSent lcd =>
    lcd = s.link.lcd ∧ ∃ start f rest, s.link.line = some (.exchange start) ∧ s.link.tx = f :: rest
      ∧ start + lineMs (frameLength f.body) ≤ s.clock.elapsed
  | .dormantEntry =>
    s.power.dormantDue = true
      ∧ (s.clock.zone = none ∨ s.setupDone = false
          ∨ ∃ start a, s.link.line = some (.announce start a) ∧ a.dormant = true ∧ start + lineMs 64 ≤ s.clock.elapsed)
  | .announceEnded lcd =>
    lcd = s.link.lcd ∧ ∃ start a, s.link.line = some (.announce start a) ∧ start + lineMs 64 ≤ s.clock.elapsed
  | .receiveGapTimeout => ∃ bytes start last, s.link.path = .collecting bytes start last ∧ last + 4 ≤ s.clock.elapsed
  | .lineQuiet => ∃ since, s.link.path = .waitQuiet since ∧ since + 3 ≤ s.clock.elapsed
  | .changeover => ∃ z t, s.zoneSec = some z ∧ s.tariff.pending = some t ∧ t.effectiveFrom ≤ z
  | .dayRollover => ∃ d, s.today = some d ∧ s.clock.rolloverDay < d
  | .endOfExchangeMark => s.markDue .endOfExchange = true
  | .cycleStartMark lcd => lcd = s.link.lcd ∧ s.markDue .cycleStart = true
  | .ownSlotMark => s.markDue .ownSlot = true
  | .exchangePeriodMark lcd => lcd = s.link.lcd ∧ s.markDue .exchangeStart = true
  | .backoffWaitExpiry lcd =>
    lcd = s.link.lcd ∧ ∃ start f rest, s.link.access = .backoff start ∧ s.link.tx = f :: rest
      ∧ start + backoffMs s.own f.attempt ≤ s.clock.elapsed
  | .qualityAgeExpiry =>
    ∃ q t, s.clock.quality = some q ∧ s.clock.ageStart = some t ∧ 1 ≤ q ∧ t + 21600000 ≤ s.clock.elapsed
  | .intakeProgressTimeout =>
    ∃ i, s.repl.intake = some i ∧ i.phase = .receiving ∧ i.progress + 3000 ≤ s.clock.elapsed
  | .peerSilence n =>
    s.power.state ≠ .dormant ∧ ∃ p ∈ s.link.peers, p.station = n ∧ p.lastHeard + 256000 ≤ s.clock.elapsed
      ∧ (p.status = .live
          ∨ (p.status = .dormant ∧ ∀ t, p.dormantHeard = some t → t + 86400000 ≤ s.clock.elapsed))
  | .sectionBehindExpiry i =>
    i < 8 ∧ (s.sectionAt i).staleRaised = false
      ∧ ∃ t, (s.sectionAt i).behindSince = some t ∧ t + 3600000 ≤ s.clock.elapsed
  | .saleInactivityExpiry => ∃ r, s.sales.sale = some r ∧ r.lastEvent + 120000 ≤ s.clock.elapsed
  | .saleLifetimeExpiry => ∃ r, s.sales.sale = some r ∧ r.openedAt + 600000 ≤ s.clock.elapsed
  | .visitPeriodExpiry =>
    s.rounds.ctx.state = .visited ∧ s.doorOpen = false
      ∧ ∃ t, s.rounds.ctx.visitStart = some t ∧ t + 600000 ≤ s.clock.elapsed
  | .awakeGraceExpiry => ∃ t, s.power.warning = some t ∧ t + 60000 ≤ s.clock.elapsed
  | .firstSettled g => g < 4 ∧ runComplete (s.groupAt g) ∧ (s.groupAt g).settled = .unsettled
  | .senseGroupChange g =>
    g < 4 ∧ runComplete (s.groupAt g) ∧ (s.groupAt g).settled ≠ .unsettled
      ∧ (s.groupAt g).settled ≠ runShows (s.groupAt g)
  | .senseSample g level =>
    g < 4 ∧ (s.groupAt g).settled ≠ .disabled ∧ (s.groupAt g).lastSample + periodMs (s.groupAt g) ≤ s.clock.elapsed
      ∧ level = (s.sense.pins[3 * g + (settingsOf (s.groupAt g)).input]?).getD false
  | .supplyLowAssert =>
    s.power.supplyRunCount = 16 ∧ s.power.supplyRunLevel = true ∧ s.power.supply ≠ some true
  | .supplyLowDeassert =>
    s.power.supplyRunCount = 16 ∧ s.power.supplyRunLevel = false ∧ s.power.supply ≠ some false
  | .wakeButtonPress => s.power.buttonRun = .press
  | _ => False

/-- The place of a row among those that fall due at one instant. Log entry 2. -/
def dueRank : Instr → Nat
  | .frameSent _ => 0 | .dormantEntry => 1 | .announceEnded _ => 2 | .receiveGapTimeout => 3 | .lineQuiet => 4
  | .changeover => 5 | .dayRollover => 6 | .endOfExchangeMark => 7 | .cycleStartMark _ => 8 | .ownSlotMark => 9
  | .exchangePeriodMark _ => 10 | .backoffWaitExpiry _ => 11 | .qualityAgeExpiry => 12 | .intakeProgressTimeout => 13
  | .peerSilence _ => 14 | .sectionBehindExpiry _ => 15 | .saleInactivityExpiry => 16 | .saleLifetimeExpiry => 17
  | .visitPeriodExpiry => 18 | .awakeGraceExpiry => 19 | .firstSettled _ => 20 | .senseGroupChange _ => 21
  | .senseSample _ _ => 22 | .supplyLowAssert => 23 | .supplyLowDeassert => 24 | .wakeButtonPress => 25
  | _ => 26

/-- The station, the section or the group of a row, by which log entry 2 orders the rows of one kind: the lowest first. -/
def dueNumber : Instr → Nat
  | .peerSilence n => n
  | .sectionBehindExpiry i => i
  | .firstSettled g => g
  | .senseGroupChange g => g
  | .senseSample g _ => g
  | _ => 0

/-! ### Layouts -/

/-- A band that its 5 bytes can carry (Table 12.6). -/
def Band.fits (b : Band) : Bool := b.minutes < 32768 && fitsBytes 2 b.price && fitsBytes 1 b.steps

/-- A ladder of eight bands that its layouts can carry. -/
def Ladder.fits (l : Ladder) : Bool :=
  l.uMinutes < 32768 && fitsBytes 2 l.uPrice && l.bands.length == 8 && l.bands.all Band.fits

/-- A day-part that its 6 bytes can carry. -/
def DayPart.fits (d : DayPart) : Bool :=
  fitsBytes 2 d.start && fitsBytes 2 d.stop
    && (match d.treat with
        | .charged k => k < 240
        | _ => true)

/-- A set that the 324 bytes of its image can carry (Table 12.6). -/
def TariffSet.fits (t : TariffSet) : Bool :=
  Key.fitsOpt t.key && fitsBytes 4 t.effectiveFrom && fitsBytes 2 t.reference
    && t.ladders.length == 4 && t.ladders.all Ladder.fits
    && t.dayParts.length == 12 && t.dayParts.all DayPart.fits
    && t.classes.length == 6 && t.classes.all (fun c => fitsBytes 1 c.k)
    && t.calendar.length == 16 && t.calendar.all (fun c => fitsBytes 2 c.day)

/-- A section that its image can carry. -/
def sectionFits (p : PermitSection) : Bool :=
  Key.fitsOpt p.key && fitsBytes 2 p.records.length && p.records.all PermitRec.fits

/-! ### The zone clock -/

/-- A mark is noted as given. -/
def markGiven (m : Mark) (s : State) : State :=
  { s with clock := { s.clock with marksGiven := m :: s.clock.marksGiven } }

/-- The day rollover to day `d`: the rollover day, the store without the days before it, no USAGE entry of another day in the
supply queue (R12, R56, R122). -/
def rolledOver (d : Nat) (s : State) : State :=
  dropOldUsage
    (noteIf (s.permits.ownCtr ≠ 0)
      { s with
        clock := { s.clock with rolloverDay := d }
        permits := { s.permits with
          usage := s.permits.usage.filter (fun e => d ≤ e.day)
          ownCtr := 0, ownDay := d
          lostDay := s.permits.lostDay.filter (fun x => d ≤ x) } })

/-! ### Tariff sets -/

/-- The changeover to the PENDING set `p`: the slots, TARIFF_CHANGED, the holdings notice, TARIFF_MISSING (R13, R71, R72,
R74). -/
def changedOver (p : TariffSet) (s : State) : State :=
  clearMissing (holdingsNotice
    (postEvent (.tariffChanged p.key p.reference (slotKey s.tariff.active) true (keepsOld s.tariff))
      { s with tariff := { s.tariff with
        active := some p, pending := none
        retired := if keepsOld s.tariff then s.tariff.active else s.tariff.retired } }))

/-- The set that a publish makes of a draft: the next generation, the own number, the effective-from given (R80). -/
def publishedSet (effectiveFrom : Nat) (d : Draft) (s : State) : TariffSet :=
  { d.tset with key := some ⟨highestTariffGen s + 1, s.own⟩, effectiveFrom := effectiveFrom }

/-! ### The open sale -/

/-- A sale command that is refused moves the last-event time of the sale `r` and nothing else (R94). -/
def touched (r : Sale) (s : State) : State :=
  { s with sales := { s.sales with sale := some { r with lastEvent := s.clock.elapsed } } }

/-- The sale goes on with the record `r`, its last-event time now and its quote made afresh (R94). -/
def saleGoesOn (r : Sale) (s : State) : State :=
  { s with sales := { s.sales with sale := some { r with lastEvent := s.clock.elapsed, quote := requote s r } } }

/-! ### Invariants -/

/-- The zone clock's fields belong together: quality and its timer exist while zone time is set, each in its range (R2, R4,
R5). -/
structure ClockInv (c : Clock) : Prop where
  elapsed : c.elapsed < 2 ^ 48
  quality : c.quality.isSome = c.zone.isSome
  timer : c.ageStart.isSome = c.zone.isSome
  zoneRange : ∀ z, c.zone = some z → z ≤ zoneMax
  qualityRange : ∀ q, c.quality = some q → q ≤ 3

/-- The newest entry of a full host event queue is its QUEUE_OVERRUN (R186). -/
def EventsInv (q : List EventEntry) : Prop :=
  q.length ≤ 32 ∧ (q.length = 32 → ∃ name count t, q.getLast? = some ⟨.queueOverrun name count, t⟩)

/-- The tariff slots beside the pin: a set in ACTIVE or PENDING has a key, and of the two PENDING's is the higher (R68); only a
part that is set up and holds an ACTIVE set has a pin; RETIRED is occupied exactly while the pin is not the ACTIVE key, by the
set that the pin names, whose key is lower than ACTIVE's (R68, R72). -/
structure SlotsInv (setup : Option SetupRecord) (t : Tariff) : Prop where
  activeKey : ∀ x, t.active = some x → x.key.isSome = true
  pendingKey : ∀ x, t.pending = some x → x.key.isSome = true
  order : ∀ a p, slotKey t.active = some a → slotKey t.pending = some p → Key.higher p a = true
  pinned : t.pin.isSome = true → setup.isSome = true ∧ t.active.isSome = true
  occupied : t.retired.isSome = true ↔ t.pin.isSome = true ∧ t.pin ≠ slotKey t.active
  retiredKey : t.retired.isSome = true → slotKey t.retired = t.pin
  retiredLower : ∀ r a, slotKey t.retired = some r → slotKey t.active = some a → Key.higher a r = true

/-- An open sale, the sale-open mark and the pin stand and fall together (R72, R73, R190), and the tariff slots stand as the
pin has them (R68, R72). -/
structure SaleInv (s : State) : Prop where
  mark : s.sales.openMark = s.sales.sale.isSome
  pin : s.tariff.pin.isSome = s.sales.sale.isSome
  slots : SlotsInv s.port.setup s.tariff

/-- The peer table: empty before Setup; after it one entry at most for each of the other stations 1 to 32, in the order of
their numbers, 31 at most (R27). -/
def PeersInv (setup : Option SetupRecord) (l : List PeerEntry) : Prop :=
  match setup with
  | none => l = []
  | some r =>
    (1 ≤ r.station ∧ r.station ≤ 32) ∧ l.length ≤ 31 ∧ l.Pairwise (fun a b => a.station < b.station)
      ∧ ∀ p ∈ l, 1 ≤ p.station ∧ p.station ≤ 32 ∧ p.station ≠ r.station

/-- The fault table: 64 entries at most, in the order of their keys (R155, R168). -/
def FaultsInv (t : List FaultEntry) : Prop := t.length ≤ 64 ∧ t.Pairwise (fun a b => faultBefore a b = true)

/-- The records of a section: 160 at most, in strictly ascending number (R107). -/
def RecordsInv (rs : List PermitRec) : Prop := rs.length ≤ 160 ∧ rs.Pairwise (fun a b => a.number < b.number)

/-- Every section holds such records (R107). -/
def SectionsInv (l : List PermitSection) : Prop := ∀ p ∈ l, RecordsInv p.records

/-- A section draft holds such records (R116). -/
def DraftInv (d : Option SectionDraft) : Prop := ∀ x, d = some x → RecordsInv x.records

/-- Every protected span is that of a record of the log, in the same order (R133, R134, R146). -/
def SpansInv (spans : List Span) (log : List LogRec) : Prop :=
  spans.map (fun sp => (sp.firstSeg, sp.lastSeg)) = log.map (fun r => (r.data.firstSeg, r.data.lastSeg))

/-- The journal holds the records of R128, one of each held sequence, the oldest first; `next` is the next sequence. -/
def JournalInv (journal : List JournalRec) (next : Nat) : Prop :=
  1 ≤ next ∧ journal.map (·.seq) = List.range' (max 1 (next - 2048)) (min 2048 (next - 1))

/-- The queues, the tables, the stores, the journal, the log and the sheet stay within their places (R27, R31, R38, R49, R107,
R116, R119, R128, R133, R141, R146, R155, R186). -/
structure BoundsInv (s : State) : Prop where
  tx : s.link.tx.length ≤ 8
  events : EventsInv s.port.events
  supply : s.repl.supply.length ≤ 4
  journal : JournalInv s.cash.journal s.cash.nextSeq
  log : s.rounds.log.length ≤ 4
  sheet : s.rounds.sheet.length ≤ 32
  peers : PeersInv s.port.setup s.link.peers
  want : s.repl.want.length ≤ 9
  faults : FaultsInv s.faults.table
  usage : s.permits.usage.length ≤ 96
  sections : SectionsInv s.permits.sections
  draft : DraftInv s.permits.draft
  spans : SpansInv s.cash.spans s.rounds.log

end Sys2Proof.Machine
end

