-- ==== Sys2Proof/Certificates/Slice0/Obligations.lean ====
section
/-! DEFINITION. The statements for the provers. A statement of a command's effect gives the whole next state: `answers i s
code status result u` and `acts i s u` say that `exec` answers next with the response in the buffer of `u`, put in order. -/

open Sys2Proof Sys2Proof.Machine

/-! ### Steps, time and reset -/

/-- A step takes the command at the front of the queue and runs it with the rest of the queue. -/
def Obligations.StepTakesFront : Prop :=
  ∀ (c : Instr) (rest : List Instr) (s : State), s.pending = c :: rest → step s = exec c { s with pending := rest }

/-- What a step does on an empty queue (the model's choice, log entries 1 and 2): nothing while RESET_N is low; else a restart
in progress, else the frame in the waiting place, else the row that is due, else one millisecond more. In that millisecond the
elapsed-time counter rises by one, zone time by one short of the end of its range, quality, its age timer and the rollover day
stay (R2, R5), and at every 64th reading the power unit samples its two pins (R178, R179); past the counter's range its reading
is a free value (log entry 4). The frame in the waiting place is run as the row of the frame it carries, an announce with the
length of its reception, or as a discarded frame; its place is free from then on, and it is handed over no longer once it has
been taken (R8, R19, R20, R23). The row that is due is one whose instant has come, whose duration has run, or whose samples
have found what it reports, as `rowDue` lists them, the first of these in the order of log entry 2: by kind, and within one
kind the lowest station, section or group, the peer table being in the order of its stations (StepKeepsBounds); and there is
one wherever such a row is (R3, R6, R12 to R14, R19, R28, R32, R44, R103, R109, R145, R172 to R174, R178 to R180). The level of
LCD in a row, what the rows of the two power pins take, the whole milliseconds of the line and when an entry to DORMANT is due
are the model's choice (log entries 5, 6, 11, 12, 65). -/
def Obligations.EmptyQueueStep : Prop :=
  (∀ s : State, s.pending = [] →
    (s.port.resetHigh = false → step s = .next s)
      ∧ (s.port.resetHigh = true →
          (s.faults.restartBy.isSome = true → step s = exec .remoteRestart s)
            ∧ (s.faults.restartBy = none →
                (∀ r, s.link.waiting = some r → step s = handOver r s)
                  ∧ (s.link.waiting = none →
                      (∀ i, s.nextDue = some i → step s = exec i s)
                        ∧ (s.nextDue = none → step s = .next
                            { s with
                              clock := tickClock s.clock
                              power := if (tickClock s.clock).elapsed % 64 = 0 then samplePins s.power else s.power })))))
    ∧ (∀ c : Clock,
    (tickClock c).quality = c.quality ∧ (tickClock c).ageStart = c.ageStart
      ∧ (tickClock c).rolloverDay = c.rolloverDay
      ∧ (c.elapsed < 2 ^ 48 - 1 → (tickClock c).elapsed = c.elapsed + 1)
      ∧ (c.zone = none → (tickClock c).zone = none)
      ∧ (∀ z, c.zone = some z → z < zoneMax → (tickClock c).zone = some (z + 1))
      ∧ (∀ z, c.zone = some z → zoneMax ≤ z → (tickClock c).zone = some z))
    ∧ (∀ (r : Received) (s : State), ∃ i t,
        (∀ st, filterBytes s.zoneNo s.own r.bytes = .inl st → i = .frameDiscarded r.bytes)
          ∧ (∀ h body, filterBytes s.zoneNo s.own r.bytes = .inr (h, body) →
              carriedFrame i = some (h, body) ∧ ∀ a, body = .announce a → i = .announce h (r.finish - r.start) a)
          ∧ exec i { s with link := { s.link with waiting := none, handing := true } } = .next t
          ∧ handOver r s = .next { t with link := { t.link with handing := false } })
    ∧ (∀ (s : State) (i : Instr), s.nextDue = some i →
        rowDue s i ∧ (∀ j, rowDue s j → dueRank i ≤ dueRank j)
          ∧ (((∃ n, i = .peerSilence n) → s.link.peers.Pairwise fun a b => a.station < b.station) →
              ∀ j, rowDue s j → dueRank j = dueRank i → dueNumber i ≤ dueNumber j))
    ∧ ∀ s : State, s.nextDue = none → ∀ i, ¬ rowDue s i

/-- What the part holds right after reset, a factory part after its first POWER_ON (log entries 5, 7): zone time unset, the
link off and its lists empty, the slots and sections empty, no sale, empty accounts with sequence 1 next, no round, no faults,
AWAKE with both power pins low and no sample taken, no response, no events, no Setup, no home, no tag, and an empty queue. -/
def Obligations.ResetValues : Prop :=
  let s := State.reset
  (s.clock.elapsed = 0 ∧ s.clock.zone = none ∧ s.clock.quality = none ∧ s.clock.rolloverDay = 0)
    ∧ (s.link.tx = [] ∧ s.link.line = none ∧ s.link.receiver = false ∧ s.link.peers = [] ∧ s.link.waiting = none)
    ∧ (s.repl.want = [] ∧ s.repl.declined = [] ∧ s.repl.intake = none ∧ s.repl.supply = [])
    ∧ (s.tariff.active = none ∧ s.tariff.pending = none ∧ s.tariff.retired = none ∧ s.tariff.pin = none
        ∧ s.tariff.draft = none)
    ∧ (s.sales.sale = none ∧ s.sales.openMark = false)
    ∧ (s.permits.sections = List.replicate 8 PermitSection.never ∧ s.permits.usage = [] ∧ s.permits.ownCtr = 0
        ∧ s.permits.settled = false ∧ s.permits.draft = none)
    ∧ (s.cash.counts = List.replicate 8 0 ∧ s.cash.coinTotal = 0 ∧ s.cash.totalValue = 0 ∧ s.cash.journal = []
        ∧ s.cash.nextSeq = 1 ∧ s.cash.openSeg = none ∧ s.cash.spans = [] ∧ s.cash.lastSeg = 0)
    ∧ (s.rounds.ctx = RoundCtx.idle ∧ s.rounds.log = [] ∧ s.rounds.sheet = [] ∧ s.rounds.counter = 0)
    ∧ (s.faults.table = [] ∧ s.faults.counter = 0 ∧ s.faults.restartBy = none)
    ∧ (s.sense.groups.length = 4 ∧ ∀ g ∈ s.sense.groups, g.settled = .disabled ∧ g.changes = 0)
    ∧ (s.power.state = .awake ∧ s.power.wakeCause = .reset ∧ s.power.periods = 0 ∧ s.power.supply = none
        ∧ s.power.dormantDue = false ∧ s.power.warning = none ∧ s.power.supplyPin = false ∧ s.power.supplyRunCount = 0
        ∧ s.power.buttonPin = false ∧ s.power.buttonRun = .waiting)
    ∧ (s.port.buffer = none ∧ s.port.events = [] ∧ s.port.badFrameSeen = false ∧ s.port.overrunSeen = false
        ∧ s.port.setup = none ∧ s.port.home = none ∧ s.port.assetTag = none ∧ s.port.resetCause.kind = .powerOn)
    ∧ s.pending = []

/-- The state right after reset meets every invariant. -/
def Obligations.ResetMeetsInvariants : Prop :=
  ClockInv State.reset.clock ∧ SaleInv State.reset ∧ BoundsInv State.reset

/-- No command stops the block, and none touches the queue of commands. -/
def Obligations.EveryCommandCompletes : Prop :=
  ∀ (i : Instr) (s : State), ∃ t, exec i s = .next t ∧ t.pending = s.pending

/-- What is put in order after a command: an owed report is placed, the hold of R17 is judged, the receiver follows Table 1.4,
medium access begins. It reaches no further than that: every other field stands, the log keeps its records, and the transmit
queue gains at most one COLLECTION_REPORT. The first owed report goes to the round's collector while it is LIVE, in an
exchange period and with none in the queue; where the queue refuses it, it waits for the next mark (R150). A LISTENING
station's receiver is held on in an exchange period once a condition of R17 holds; the receiver is on at an AWAKE station, at
a LISTENING one while zone time is unset or the hold stands, and off in DORMANT and before Setup, a frame in collection being
received to its end (R16, R17). The head frame's backoff starts on an idle line, and waits for one on a busy line (R31, R32).
A frame for the own number counts from the start of the previous exchange period, 28 s before the current zone cycle, and a
change of an own counter from the start of the previous cycle (R17). That this is done after each command, one report at a
time, the wait for quiet on a busy line, an absent key or position that counts as different, that an announced active key is
held against the ACTIVE slot alone and a pending one against the PENDING slot alone, and where a cycle starts after a step of
zone time, are the model's choice (log entries 13, 16, 20, 33, 48, 68). -/
def Obligations.PutInOrderFrame : Prop :=
  (∀ s : State, settle s = startAccess (refreshReceiver (holdReceiver (placeReports s))))
    ∧ (∀ s : State, ∃ (tx : List TxFrame) (access : Access) (path : RxPath) (receiver heldOn : Bool) (log : List LogRec),
    settle s =
        { s with
          link := { s.link with tx := tx, access := access, path := path, receiver := receiver, heldOn := heldOn }
          rounds := { s.rounds with log := log } }
      ∧ log.map (·.data) = s.rounds.log.map (·.data) ∧ log.map (·.due) = s.rounds.log.map (·.due)
      ∧ (tx = s.link.tx
          ∨ ∃ r c, r ∈ s.rounds.log ∧ r.due = true
              ∧ tx = s.link.tx ++ [{ dest := c, body := .collectionReport r.data, attempt := 0
                                     placer := .report r.data.firstSeg r.data.lastSeg }]))
    ∧ (∀ s : State,
        (s.receiverDue = true ↔
            s.setupDone = true
              ∧ (s.power.state = .awake
                  ∨ (s.power.state = .listening ∧ (s.clock.zone = none ∨ s.link.heldOn = true))))
          ∧ (s.holdsReceiver = true ↔
              s.repl.want ≠ [] ∨ s.repl.supply ≠ [] ∨ s.link.tx ≠ []
                ∨ (∃ p ∈ s.link.peers, p.station ∈ s.link.windowHeard ∧ announcedDiffers s p = true)
                ∨ (s.rounds.log ≠ [] ∧ ∃ p ∈ s.link.peers, p.role = .collector ∧ p.roundState = .opened)
                ∨ s.sinceCycle 28000 s.link.addressedAt = true ∨ (s.isMachine = true ∧ s.rounds.ctx.state ≠ .idle)
                ∨ s.sinceCycle 32000 s.link.changedAt = true)
          ∧ (∀ back reading, s.sinceCycle back reading = true ↔
              ∃ t z, reading = some t ∧ s.clock.zone = some z ∧ s.clock.elapsed ≤ t + z % 32000 + back)
          ∧ (∀ p, announcedDiffers s p = true ↔
              p.active ≠ slotKey s.tariff.active ∨ p.pending ≠ slotKey s.tariff.pending
                ∨ (∃ i, i < 8 ∧ peerSection i p ≠ s.sectionKey i) ∨ p.faultCtr ≠ (s.faultPosOf p.station).pos
                ∨ s.usagePos p.station ≠ some (p.usageDay, p.usageCtr))
          ∧ (s.power.state = .listening → s.inExchange = true → s.holdsReceiver = true →
              holdReceiver s = { s with link := { s.link with heldOn := true } })
          ∧ (s.power.state ≠ .listening ∨ s.inExchange = false ∨ s.holdsReceiver = false → holdReceiver s = s)
          ∧ (s.receiverDue = true →
              (s.link.receiver = true → refreshReceiver s = s)
                ∧ (s.link.receiver = false →
                    refreshReceiver s =
                      { s with link := { s.link with
                        receiver := true, path := if s.link.lcd then .waitQuiet s.clock.elapsed else .idle } }))
          ∧ (s.receiverDue = false →
              (∀ bytes start last, s.link.path = .collecting bytes start last → refreshReceiver s = s)
                ∧ ((∀ bytes start last, s.link.path ≠ .collecting bytes start last) →
                    refreshReceiver s = { s with link := { s.link with receiver := false, path := .idle } })))
    ∧ (∀ s : State,
        (s.inExchange = true → s.mayTransmit = true → s.link.line = none → s.link.tx ≠ [] →
            s.link.access = .off ∨ s.link.access = .waitIdle →
              startAccess s =
                { s with link := { s.link with
                  access := if s.link.lcd then .waitIdle else .backoff s.clock.elapsed } })
          ∧ (s.inExchange = false ∨ s.mayTransmit = false ∨ s.link.line.isSome = true ∨ s.link.tx = []
                ∨ (s.link.access ≠ .off ∧ s.link.access ≠ .waitIdle) →
              startAccess s = s))
    ∧ ∀ s : State,
        (s.mayReport = true ↔
            s.inExchange = true ∧ s.rounds.ctx.state ≠ .idle
              ∧ (∃ c, s.rounds.ctx.collector = some c ∧ s.live c = true)
              ∧ ∀ f ∈ s.link.tx, ∀ first last, f.placer ≠ .report first last)
          ∧ (s.mayReport = false ∨ (∀ r ∈ s.rounds.log, r.due = false) → placeReports s = s)
          ∧ ∀ (before after : List LogRec) (r : LogRec) (c : Nat), s.rounds.log = before ++ r :: after →
              (∀ x ∈ before, x.due = false) → r.due = true → s.rounds.ctx.collector = some c → s.mayReport = true →
                (r.held = true → placeReports s = s)
                  ∧ (r.held = false →
                      (s.canPlace = true →
                          placeReports s =
                            { s with link := { s.link with
                              tx := s.link.tx ++
                                [{ dest := c, body := .collectionReport r.data, attempt := 0
                                   placer := .report r.data.firstSeg r.data.lastSeg }] } })
                        ∧ (s.canPlace = false →
                            placeReports s =
                              { s with rounds := { s.rounds with
                                log := s.rounds.log.map fun x =>
                                  if x.data.firstSeg == r.data.firstSeg && x.data.lastSeg == r.data.lastSeg then
                                    { x with held := true }
                                  else x } }))

/-- Zone time, quality and the age timer stay in their ranges and stand or fall together, whatever a step does. -/
def Obligations.StepKeepsClock : Prop :=
  ∀ s t : State, ClockInv s.clock → step s = .next t → ClockInv t.clock

/-- An open sale, the sale-open mark and the pin stand and fall together, whatever a step does, and the tariff slots stand as
the pin has them: a set in ACTIVE or PENDING has a key, and of the two PENDING's is the higher; a part with a pin is set up and
holds an ACTIVE set; RETIRED is occupied exactly while the pin is not the ACTIVE key, by the set of the pinned key, which is
lower than the ACTIVE one (R68, R72, R73). -/
def Obligations.StepKeepsSale : Prop := ∀ s t : State, SaleInv s → step s = .next t → SaleInv t

/-- The transmit queue keeps to 8 frames, the host event queue to 32 with its QUEUE_OVERRUN, the supply queue to 4, the
collection log to 4 and the sheet to 32; the peer table holds stations other than the own, once each and in order, 31 at most;
the want list keeps to 9, the fault table to 64 in key order, the usage table to 96, and each section and section draft to 160
records in ascending number; the journal holds one record of each held sequence, the oldest first, 2,048 at most; and every
protected span is that of a record of the log, whatever a step does (R27, R31, R38, R49, R107, R116, R119, R128, R133, R141,
R146, R155, R168, R186). -/
def Obligations.StepKeepsBounds : Prop := ∀ s t : State, BoundsInv s → step s = .next t → BoundsInv t

/-! ### Resets, transfers and the host port -/

/-- POWER_ON, and REMOTE_RESTART where a restart is in progress, complete: every record the spec keeps through a reset is
kept, every other piece of state takes its value after reset, field by field, and the reset-cause record names the reset, the
power state before it, a lost sale and the requesting ENGINEER (R2, R21, R27, R34, R48, R52, R68, R107, R109, R116, R119,
R121, R123, R138, R152, R156, R164, R169, R171, R176, R178, R179, R183 to R187, R190). That the queue of commands and the
levels of the pins stand through a reset is the model's choice (log entries 5, 32). -/
def Obligations.ResetsKeepNonvolatile : Prop :=
  ∀ s : State,
    (∃ t, exec .powerOn s = .next t
        ∧ afterReset { kind := .powerOn, powerBefore := none, saleLost := s.sales.openMark, engineer := none } s t
        ∧ t.port.resetHigh = s.port.resetHigh)
      ∧ (s.port.resetHigh = true → s.faults.restartBy.isSome = true →
          ∃ t, exec .remoteRestart s = .next t
            ∧ afterReset
                { kind := .remoteRestart, powerBefore := some s.power.state, saleLost := s.sales.openMark
                  engineer := s.faults.restartBy } s t
            ∧ t.port.resetHigh = true)

/-- RESET_N: a low level changes nothing but the pin; the return high is the reset, with the cause RESET_N (Table 11.3). A
high level on a part that is not held, and every other command on a part that is held, changes nothing (the model's choice,
log entry 10); the queue of commands and the levels of the pins stand through the reset (log entries 5, 32). -/
def Obligations.ResetNPin : Prop :=
  ∀ s : State,
    exec (.resetN false) s = .next { s with port := { s.port with resetHigh := false } }
      ∧ (s.port.resetHigh = false →
          ∃ t, exec (.resetN true) s = .next t
            ∧ afterReset
                { kind := .resetN, powerBefore := some s.power.state, saleLost := s.sales.openMark, engineer := none } s t
            ∧ t.port.resetHigh = true)
      ∧ (s.port.resetHigh = true → exec (.resetN true) s = .next s)
      ∧ (s.port.resetHigh = false → ∀ i, i ≠ .powerOn → (∀ level, i ≠ .resetN level) → exec i s = .next s)

/-- While RESET_N is low, the part takes no transfer. HOSTPWR is asserted, READY and ATTN are low, and LTX is at the idle
level (R191). -/
def Obligations.HeldInReset : Prop :=
  ∀ s : State, s.port.resetHigh = false →
    (∀ i, isTransfer i = true → exec i s = .next s)
      ∧ s.hostpwr = true ∧ s.ready = false ∧ s.attn = false ∧ s.ltxIdle = true

/-- A READ transfer: the no-response frame while no response waits; the whole response, and the buffer empty after it; or part
of the response, which stays (R183); the effect of a REST that waited for its response is stated with REST. What goes out is
bytes: the status, the command code, the length of the result fields, the fields and a check byte that brings the sum of all to
0 modulo 256; the statuses are numbered in the order of Table 11.1; IDENTIFY's fields are its two codes, the unique number, the
tag's length and its characters (R194). A WRITE that finds the port busy, with an unread response or with a restart in
progress, is discarded: it sets the overrun flag and does nothing else, whatever it carried (R169, R184). The layouts of the
fields beyond IDENTIFY are the model's choice (log entry 53). -/
def Obligations.ReadsAndOverruns : Prop :=
  (∀ s : State, s.port.resetHigh = true →
    (∀ whole, s.port.buffer = none →
        acts (.readTransfer whole) s { s with port := { s.port with sdo := some (.whole noResponseBytes) } })
      ∧ (∀ r, s.port.buffer = some r → s.power.restTaken = false →
          acts (.readTransfer true) s
            { s with port := { s.port with buffer := none, sdo := some (.whole (responseFrame r)) } })
      ∧ (∀ r, s.port.buffer = some r →
          acts (.readTransfer false) s { s with port := { s.port with sdo := some (.part (responseFrame r)) } }))
    ∧ (∀ s : State, s.port.resetHigh = true → s.portBusy = true →
    (∀ i c, hostCode i = some c → acts i s { s with port := { s.port with overrunSeen := true } })
      ∧ (∀ bytes, isRead bytes = false → writeSound bytes = false →
          acts (.badFrameWrite bytes) s { s with port := { s.port with overrunSeen := true } })
      ∧ (∀ code, codeDefined code = false →
          acts (.undefinedCommandCode code) s { s with port := { s.port with overrunSeen := true } })
      ∧ acts .overrunWrite s { s with port := { s.port with overrunSeen := true } })
    ∧ (∀ (r : Response) (body : List Byte),
        body = be 1 (statusCode r.status) ++ be 1 r.code ++ be 2 (resultBytes r.result).length ++ resultBytes r.result →
          responseFrame r = body ++ [checkByte body] ∧ ((responseFrame r).map (·.toNat)).sum % 256 = 0)
    ∧ noResponseBytes = [0xFF#8, 0#8, 0#8, 0#8, 0x01#8]
    ∧ (∀ (n : Nat) (x : Status), statusCode x = n ↔
        [Status.ok, .notSetUp, .alreadySetUp, .badFrame, .badParameter, .roleRefused, .clockUnset, .noTariff, .noStayNow,
          .nothingToSell, .notEnough, .noSale, .saleOpen, .cashBlocked, .boxFull, .coinsNotAllowed, .paymentPresent,
          .journalFull, .allowanceExhausted, .allowanceUnavailable, .invalidTariff, .sectionClosed, .sectionFull,
          .revokedFinal, .notFound, .tableFull, .roundNone, .eventsPending, .assetTagSet][n]? = some x)
    ∧ (∀ (p v : Nat) (u : BitVec 48),
        resultBytes (.identity p v u none) = be 2 p ++ be 2 v ++ be 6 u.toNat ++ [0#8]
          ∧ ∀ tag, resultBytes (.identity p v u (some tag)) = be 2 p ++ be 2 v ++ be 6 u.toNat ++ be 1 tag.length ++ tag)

/-- A WRITE that is not sound is answered BAD_FRAME with code 0 and sets the bad-frame flag; a sound one whose code Table 12.8
does not define is answered BAD_PARAMETER with its code (R184). A transfer is a READ by its type byte H'5A, and a sound WRITE
where its type byte H'A5 is followed by the code, a length of at most 1,024, that many bytes and a check byte, which bring the
sum after the type byte to 0 modulo 256 (R194). That a transfer without any byte is not sound either, and so is answered
BAD_FRAME, is the model's reading (log entry 73). A request is taken in every power state (log entry 9). -/
def Obligations.UnsoundWritesAnswered : Prop :=
  (∀ s : State, s.takesRequest = true →
    (∀ bytes, isRead bytes = false → writeSound bytes = false →
        answers (.badFrameWrite bytes) s 0 .badFrame .nothing
          { s with port := { s.port with badFrameSeen := true } })
      ∧ (∀ code, code = 0 ∨ 46 < code → answers (.undefinedCommandCode code) s code .badParameter .nothing s))
    ∧ ∀ bytes : List Byte,
        (isRead bytes = true ↔ ∃ rest, bytes = 0x5A#8 :: rest)
          ∧ (writeSound bytes = true ↔
              ∃ rest, bytes = 0xA5#8 :: rest ∧ fieldAt rest 1 2 ≤ 1024 ∧ rest.length = 4 + fieldAt rest 1 2
                ∧ (rest.map (·.toNat)).sum % 256 = 0)

/-- Before Setup every command but IDENTIFY, READ_STATUS and SETUP is answered NOT_SET_UP; after it a command at a station of
a role it is not open to is answered ROLE_REFUSED. Neither changes anything else (Table 11.1, R187). The codes 1 to 46 and the
roles are those of Table 12.8: codes 10 to 14, 24 to 28 and 39 are open to GATEWAY; 16 to 22 to FIXED and GATEWAY; 33 to 36 to
COLLECTOR; 42 to ENGINEER; 43 to ENGINEER and COLLECTOR; 40 to all for an own entry and to ENGINEER for another owner's; the
others to all. That the host's CLEAR_FAULT is judged for the role before its range is the model's choice (log entry 40). A
request is taken in every power state (log entry 9). -/
def Obligations.SetupAndRoleFirst : Prop :=
  (∀ (i : Instr) (c : Nat) (s : State), hostCode i = some c → beforeSetup i = false → s.takesRequest = true →
    (s.setupDone = false → answers i s c .notSetUp .nothing s)
      ∧ (s.setupDone = true → hostRoles i s = false → answers i s c .roleRefused .nothing s))
    ∧ (∀ i : Instr, hostCode i =
        match i with
        | .identify => some 1
        | .readStatus => some 2
        | .setup _ => some 3
        | .readEvent => some 4
        | .setAssetTag _ => some 5
        | .setTime _ => some 6
        | .readPeer _ => some 7
        | .readReplication => some 8
        | .readTariff _ _ _ => some 9
        | .tariffDraftBegin _ => some 10
        | .tariffDraftSelect _ => some 11
        | .tariffDraftWrite _ => some 12
        | .tariffDraftRead => some 13
        | .tariffPublish _ => some 14
        | .quote _ _ _ => some 15
        | .saleOpen => some 16
        | .saleCoin _ => some 17
        | .saleCard _ => some 18
        | .salePermit _ => some 19
        | .saleDuration _ => some 20
        | .saleCommit => some 21
        | .saleCancel => some 22
        | .checkPermit _ => some 23
        | .amendPermit _ => some 24
        | .closeSection _ => some 25
        | .sectionLoadBegin _ => some 26
        | .sectionLoadRecord _ => some 27
        | .sectionLoadEnd _ => some 28
        | .readSection _ _ => some 29
        | .readUsage _ => some 30
        | .readTally => some 31
        | .readJournal _ => some 32
        | .roundOpenCommand => some 33
        | .roundVisitCommand _ => some 34
        | .roundCloseCommand => some 35
        | .readSheet _ => some 36
        | .readRound => some 37
        | .raiseFault _ => some 38
        | .ackFault _ _ _ => some 39
        | .clearFault _ _ _ => some 40
        | .readFaults _ _ _ => some 41
        | .restartStation _ _ => some 42
        | .pageStation _ _ => some 43
        | .readSense => some 44
        | .rest => some 45
        | .readPower => some 46
        | _ => none)
    ∧ (∀ i : Instr, beforeSetup i = true ↔ hostCode i = some 1 ∨ hostCode i = some 2 ∨ hostCode i = some 3)
    ∧ (∀ (i : Instr) (c : Nat) (s : State), hostCode i = some c →
        (hostRoles i s = true ↔
          (c ∈ [10, 11, 12, 13, 14, 24, 25, 26, 27, 28, 39] → s.isRole .gateway = true)
            ∧ (16 ≤ c → c ≤ 22 → s.isRole .fixed = true ∨ s.isRole .gateway = true)
            ∧ (33 ≤ c → c ≤ 36 → s.isRole .collector = true)
            ∧ (c = 42 → s.isRole .engineer = true)
            ∧ (c = 43 → s.isRole .engineer = true ∨ s.isRole .collector = true)
            ∧ ∀ owner kind subject, i = .clearFault owner kind subject →
                owner = s.own ∨ owner < 1 ∨ 32 < owner ∨ s.isRole .engineer = true))
    ∧ ∀ (s : State) (q : Role), s.isRole q = true ↔ ∃ r, s.port.setup = some r ∧ r.role = q

/-- SETUP: refused when Setup is done, then for a parameter outside the ranges of Table 11.2; taken, it records the parameters,
and where the home is new or changed it first discards the stores of the old home (R187, R188). The units then take its
completion in their order: the sense groups their settings, the want list its judgement, an empty ACTIVE slot its
TARIFF_MISSING, a rollover that a reset interrupted its end and the sections their judgement, PERMIT_STALE being cleared where
none is behind, the mixed denominations flag and BOX_FULL, a context that does not fit the role its IDLE, every record of the
log its report-due mark, and a REMOVED round its judgement where DOOR and BOX are known (R37, R74, R108, R109, R122, R125,
R127, R138, R148, R152, R171, R187). A COLLECTOR's own context is kept in whatever state (the model's choice, log entry 19).
The clock, the sale unit, the tariff store and the port's Setup record, home and buffer stay as they are. A request is taken in
every power state (log entry 9). -/
def Obligations.SetupTaken : Prop :=
  (∀ (p : SetupParams) (s : State), s.takesRequest = true →
    (s.setupDone = true → answers (.setup p) s 3 .alreadySetUp .nothing s)
      ∧ (s.setupDone = false →
          (setupRecord p = none → answers (.setup p) s 3 .badParameter .nothing s)
            ∧ (∀ r, setupRecord p = some r →
                (s.port.home = some (r.zone, r.station) →
                    answers (.setup p) s 3 .ok (.setup false s.port.home)
                      (completeSetup { s with port := { s.port with setup := some r } }))
                  ∧ (s.port.home ≠ some (r.zone, r.station) →
                      answers (.setup p) s 3 .ok (.setup true s.port.home)
                        (completeSetup
                          (noteIf (s.permits.ownCtr ≠ 0)
                            { s with
                              tariff := { s.tariff with active := none, pending := none }
                              permits := { s.permits with
                                sections := List.replicate 8 PermitSection.never
                                usage := removeContribs s.own (fun _ => true) s.permits.usage
                                ownCtr := 0, ownDay := s.clock.rolloverDay }
                              faults := { s.faults with table := s.faults.table.filter (·.owner != s.own) }
                              port := { s.port with home := some (r.zone, r.station), setup := some r } }))))))
    ∧ (∀ s : State,
    (completeSetup s).clock = s.clock ∧ (completeSetup s).sales = s.sales ∧ (completeSetup s).tariff = s.tariff
      ∧ (completeSetup s).port.setup = s.port.setup ∧ (completeSetup s).port.home = s.port.home
      ∧ (completeSetup s).port.buffer = s.port.buffer)
    ∧ (∀ (r : SetupRecord) (s : State), s.port.setup = some r →
        completeSetup s =
          roundSetup (cashSetup (permitSetup (raiseMissing (updateIntake (judgeWant none
            { s with sense := { s.sense with
              groups := r.sense.map fun g =>
                { settings := some g, settled := if g.enable then .unsettled else .disabled, runLevel := false
                  runCount := 0, changes := 0, lastSample := s.clock.elapsed } } }))))))
    ∧ (∀ s : State,
        (s.isMachine = true → s.tariff.active = none → raiseMissing s = raiseFault .tariffMissing 0 s)
          ∧ (s.isMachine = false ∨ s.tariff.active.isSome = true → raiseMissing s = s)
          ∧ (s.permits.ownDay < s.clock.rolloverDay →
              permitSetup s =
                clearStale (judgeSections
                  (noteIf (s.permits.ownCtr ≠ 0)
                    { s with permits := { s.permits with
                      usage := s.permits.usage.filter (fun e => s.clock.rolloverDay ≤ e.day)
                      ownCtr := 0, ownDay := s.clock.rolloverDay
                      lostDay := s.permits.lostDay.filter (fun x => s.clock.rolloverDay ≤ x) } })))
          ∧ (s.clock.rolloverDay ≤ s.permits.ownDay → permitSetup s = clearStale (judgeSections s))
          ∧ (s.someBehind = true → clearStale s = s)
          ∧ (s.someBehind = false → clearStale s = clearFault .permitStale 0 s))
    ∧ (∀ s u : State,
        (∀ o vs, s.cash.openSeg = some o → s.cash.values = some vs → vs ≠ s.denoms →
              u = { s with cash := { s.cash with mixed := true } }) →
          (s.cash.openSeg = none ∨ s.cash.values = none ∨ s.cash.values = some s.denoms → u = s) →
            cashSetup s = raiseBoxFull (decide (s.capacity ≤ s.cash.coinTotal)) u)
    ∧ (∀ (p : SetupParams) (r : SetupRecord), setupRecord p = some r ↔
        (1 ≤ p.zone ∧ p.zone ≤ 4095 ∧ 1 ≤ p.station ∧ p.station ≤ 32 ∧ p.denomCount ≤ 8
            ∧ p.denoms.length = p.denomCount ∧ (∀ v ∈ p.denoms, 1 ≤ v ∧ v ≤ 65535)
            ∧ 100 ≤ p.capacity ∧ p.capacity ≤ 4000 ∧ p.sense.length = 4
            ∧ ∀ g ∈ p.sense, g.input ≤ 2 ∧ 1 ≤ g.period ∧ g.period ≤ 255 ∧ 1 ≤ g.debounce ∧ g.debounce ≤ 15)
          ∧ ∃ role, p.role = some role
              ∧ r =
                  { zone := p.zone, station := p.station, role := role, denoms := p.denoms, capacity := p.capacity
                    sense := p.sense })
    ∧ ∀ (r : SetupRecord) (s u : State), s.port.setup = some r →
        (contextUnfit s = true ↔
            (s.isMachine = true
                ∧ (s.rounds.ctx.collector = some r.station
                    ∨ (s.rounds.ctx.state = .idle ∧ (s.rounds.ctx.round ≠ 0 ∨ s.rounds.ctx.collector ≠ none))))
              ∨ (r.role = .collector ∧ s.rounds.ctx.collector ≠ some r.station) ∨ r.role = .engineer)
          ∧ (u =
              { s with rounds := { s.rounds with
                ctx := if contextUnfit s then RoundCtx.idle else s.rounds.ctx
                log := s.rounds.log.map fun x => { x with due := true } } } →
              (s.isMachine = true → s.groupKnown 0 = true → s.groupKnown 1 = true → roundSetup s = judgeRemoved u)
                ∧ (s.isMachine = false ∨ s.groupKnown 0 = false ∨ s.groupKnown 1 = false → roundSetup s = u))

/-- IDENTIFY gives the part code D240H, the revision signature 0103H, the unique number and the tag and changes nothing;
READ_STATUS gives the power state, the Setup identity, zone time and quality, the depth of the event queue, both flags and the
reset cause, and clears both flags; READ_EVENT returns the oldest entry and removes it; SET_ASSET_TAG judges the tag, 1 to 12
printable characters, then refuses where one is set, else writes it (R185, R186, R189). A request is taken in every power
state (log entry 9). -/
def Obligations.IdentityStatusEventsAndTag : Prop :=
  (∀ s : State, s.takesRequest = true →
    answers .identify s 1 .ok (.identity 0xD240 0x0103 s.port.unique s.port.assetTag) s
      ∧ answers .readStatus s 2 .ok
          (.status s.power.state (s.port.setup.map fun r => (r.zone, r.station, r.role)) s.zoneSec s.clock.quality
            s.port.events.length s.port.badFrameSeen s.port.overrunSeen s.port.resetCause)
          { s with port := { s.port with badFrameSeen := false, overrunSeen := false } })
    ∧ (∀ s : State, s.openTo anyRole = true →
    (s.port.events = [] → answers .readEvent s 4 .notFound .nothing s)
      ∧ (∀ e rest, s.port.events = e :: rest →
          answers .readEvent s 4 .ok (.event e rest.length) { s with port := { s.port with events := rest } })
      ∧ (∀ tag, assetTagOk tag = false → answers (.setAssetTag tag) s 5 .badParameter .nothing s)
      ∧ (∀ tag, assetTagOk tag = true →
          (s.port.assetTag.isSome = true → answers (.setAssetTag tag) s 5 .assetTagSet .nothing s)
            ∧ (s.port.assetTag = none →
                answers (.setAssetTag tag) s 5 .ok (.assetTag tag)
                  { s with port := { s.port with assetTag := some tag } })))
    ∧ ∀ tag : List Byte,
        assetTagOk tag = true ↔ 1 ≤ tag.length ∧ tag.length ≤ 12 ∧ ∀ b ∈ tag, 33 ≤ b.toNat ∧ b.toNat ≤ 126

/-- What the host event queue keeps of an event: under 31 entries it is added at the tail; the 32nd place takes QUEUE_OVERRUN
with the event's name and count 1; a full queue counts on, to 65,535 at most. The entry takes the zone time of the posting
(R186). The power unit judges the class of every event as offered, whatever the queue keeps of it: one of the wake class makes
a LISTENING station whose dormant entry due flag is clear AWAKE with the event's name as cause, and the first one offered in
DORMANT is recorded; nothing else changes (R178, R181, Table 10.3). -/
def Obligations.EventQueueOverrun : Prop :=
  (∀ (e : Event) (time : Option Nat) (q : List EventEntry),
    (q.length < 31 → offerEvent e time q = q ++ [⟨e, time⟩])
      ∧ (q.length = 31 → offerEvent e time q = q ++ [⟨.queueOverrun (eventName e) 1, time⟩])
      ∧ (∀ pre name count t, q = pre ++ [⟨.queueOverrun name count, t⟩] → q.length = 32 → count ≤ 65535 →
          offerEvent e time q = pre ++ [⟨.queueOverrun name (min 65535 (count + 1)), t⟩]))
    ∧ (∀ e : Event, wakeClass e = true ↔
        (∃ n c, e = .visit n c) ∨ (∃ n c, e = .paged n c)
          ∨ (∃ a n g c t v f, e = .collectionTaken a n g c t v f) ∨ (∃ c x t d p k, e = .saleAbandoned c x t d p k)
          ∨ ∃ o j f, e = .faultChanged o .tamper j .raise f)
    ∧ ∀ (e : Event) (s t : State),
        t = { s with port := { s.port with
          events := offerEvent e (s.clock.zone.map fun z => z / 1000) s.port.events } } →
          (wakeClass e = false ∨ s.power.state = .awake ∨ (s.power.state = .listening ∧ s.power.dormantDue = true) →
              postEvent e s = t)
            ∧ (wakeClass e = true → s.power.state = .listening → s.power.dormantDue = false →
                postEvent e s = { t with power := { s.power with state := .awake, wakeCause := .event (eventName e) } })
            ∧ (wakeClass e = true → s.power.state = .dormant →
                (s.power.recorded.isSome = true → postEvent e s = t)
                  ∧ (s.power.recorded = none →
                      postEvent e s = { t with power := { s.power with recorded := some (eventName e) } }))
/-! ### The zone clock -/

/-- SET_TIME completes at every station that is set up and takes the request: a count above the range is refused; else quality
becomes 3, the age timer starts, zone time becomes that second with all that a step of zone time brings, and the response gives
zone time and quality as they were (R6, R7). A step to a time gives its marks afresh, holds the receiver on in a gathering
window and in the exchange period it stays in, then makes the changeover and the day rollover that are due at that time (R10,
R12, R13, R14, R16, R17, R71, R122). A count above the range refused as BAD_PARAMETER, a step over a cycle start that begins
the cycle's gathering window for R17, and the receiver's hold after a step or first setting into an exchange period, are the
model's choice (log entries 21, 45, 83). A request is taken in every power state (log entry 9). -/
def Obligations.SetTimeTaken : Prop :=
  (∀ (n : Nat) (s : State), s.openTo anyRole = true →
    (4294967295 < n → answers (.setTime n) s 6 .badParameter .nothing s)
      ∧ (n ≤ 4294967295 →
          answers (.setTime n) s 6 .ok (.time s.zoneSec s.clock.quality)
            (setZone (n * 1000)
              { s with clock := { s.clock with quality := some 3, ageStart := some s.clock.elapsed } })))
    ∧ (∀ (new : Nat) (s m c : State),
        m =
          { s with
            clock := { s.clock with
              zone := some new, marksGiven := if s.clock.zone = some new then s.clock.marksGiven else [] }
            link :=
              if cycleSkipped s.clock.zone new then
                { s.link with
                  heldOn := decide (new % 32000 < 4000) || (s.inExchange && s.link.heldOn), windowHeard := [] }
              else
                { s.link with heldOn := decide (new % 32000 < 4000) || (s.inExchange && s.link.heldOn) } } →
          ((∀ p, s.tariff.pending = some p → p.effectiveFrom ≤ new / 1000 → c = changedOver p m)
              ∧ ((∀ p, s.tariff.pending = some p → new / 1000 < p.effectiveFrom) → c = m)) →
            (s.clock.rolloverDay < new / 86400000 → setZone new s = rolledOver (new / 86400000) c)
              ∧ (new / 86400000 ≤ s.clock.rolloverDay → setZone new s = c))
    ∧ ∀ (old : Option Nat) (new : Nat),
        cycleSkipped old new = true ↔ ∃ z, old = some z ∧ z / 32000 ≠ new / 32000 ∧ new % 32000 ≠ 0

/-- What an accepted announce's time does (Table 1.2), as the whole next state: nothing where its quality is absent or above
3; adopted from unset; adopted from a higher quality where it differs by more than 1 s or is higher by more than one; a
refresh where it is higher by one and does not differ; a step on equal quality from a lower station; else nothing. Each
adoption, and no other outcome, posts TIME_ADOPTED with the sender, the outcome, the new quality, the new zone time in seconds
and the step in seconds rounded toward zero, absent from unset, after the step has taken effect with its changeover and
rollover; the event is of the hold class (R8, R9, R10). -/
def Obligations.AnnouncedTimeJudged : Prop :=
  (∀ (sender ms new : Nat) (a : AnnounceBody) (s : State), new = senderTime a ms →
    ((a.quality = none ∨ ∃ q, a.quality = some q ∧ 3 < q) → judgeTime sender ms a s = s)
      ∧ (a.zoneSec * 1000 + a.zoneMs + ms ≤ zoneMax → new = a.zoneSec * 1000 + a.zoneMs + ms)
      ∧ ∀ q, a.quality = some q → q ≤ 3 →
          (s.clock.zone = none →
              judgeTime sender ms a s =
                postEvent (.timeAdopted sender .fromUnset (q - 1) (new / 1000) none)
                  (setZone new
                    { s with clock := { s.clock with quality := some (q - 1), ageStart := some s.clock.elapsed } }))
            ∧ ∀ old p, s.clock.zone = some old → s.clock.quality = some p →
                (p < q → p + 1 < q ∨ old + 1000 < new ∨ new + 1000 < old →
                    judgeTime sender ms a s =
                      postEvent
                        (.timeAdopted sender .fromHigher (q - 1) (new / 1000)
                          (some (((new : Int) - (old : Int)).tdiv 1000)))
                        (setZone new
                          { s with clock := { s.clock with
                            quality := some (q - 1), ageStart := some s.clock.elapsed } }))
                  ∧ (q = p + 1 → new ≤ old + 1000 → old ≤ new + 1000 →
                      judgeTime sender ms a s =
                        setZone new { s with clock := { s.clock with ageStart := some s.clock.elapsed } })
                  ∧ (q = p → sender < s.own → old + 1000 < new ∨ new + 1000 < old →
                      judgeTime sender ms a s =
                        postEvent
                          (.timeAdopted sender .equalStep p (new / 1000)
                            (some (((new : Int) - (old : Int)).tdiv 1000)))
                          (setZone new s))
                  ∧ (q < p → judgeTime sender ms a s = s)
                  ∧ (q = p → s.own ≤ sender ∨ (new ≤ old + 1000 ∧ old ≤ new + 1000) → judgeTime sender ms a s = s))
    ∧ (∀ (sender q seconds : Nat) (o : AdoptOutcome) (step : Option Int),
        wakeClass (.timeAdopted sender o q seconds step) = false)
    ∧ ∀ (new : Nat) (s m : State), m = moveZone new s →
        setZone new s = makeRollover (if m.changeoverDue then makeChangeover m else m)

/-- QUALITY_AGE_EXPIRY: at a quality above 0 whose age timer has run 6 h, the quality drops by one and the timer restarts
(R6). DAY_ROLLOVER and CHANGEOVER, where due: the rollover day becomes today, the permit store clears the days before it, and
a usage stream fixed for another day leaves the supply queue, the entry that so becomes the head being served; the PENDING set
becomes ACTIVE (R12, R13, R56, R71, R122). Where not due, each row changes nothing but what every command puts in order (log
entry 3). -/
def Obligations.AgeRolloverAndChangeover : Prop :=
  (∀ (q start : Nat) (s : State), s.port.resetHigh = true → s.clock.quality = some q → s.clock.ageStart = some start →
    (1 ≤ q → start + 21600000 ≤ s.clock.elapsed →
        acts .qualityAgeExpiry s
          { s with clock := { s.clock with quality := some (q - 1), ageStart := some s.clock.elapsed } })
      ∧ (q = 0 ∨ s.clock.elapsed < start + 21600000 → acts .qualityAgeExpiry s s))
    ∧ (∀ s : State, s.port.resetHigh = true →
    (∀ d, s.today = some d → s.clock.rolloverDay < d →
        acts .dayRollover s
          (dropOldUsage
            (noteIf (s.permits.ownCtr ≠ 0)
              { s with
                clock := { s.clock with rolloverDay := d }
                permits := { s.permits with
                  usage := s.permits.usage.filter (fun e => d ≤ e.day)
                  ownCtr := 0, ownDay := d
                  lostDay := s.permits.lostDay.filter (fun x => d ≤ x) } })))
      ∧ (s.rolloverDue = false → acts .dayRollover s s)
      ∧ (s.changeoverDue = false → acts .changeover s s)
      ∧ (∀ p, s.tariff.pending = some p → s.changeoverDue = true →
          acts .changeover s
            (clearMissing (holdingsNotice
              (postEvent
                (.tariffChanged p.key p.reference (slotKey s.tariff.active) true (keepsOld s.tariff))
                { s with
                  tariff := { s.tariff with
                    active := some p, pending := none
                    retired := if keepsOld s.tariff then s.tariff.active else s.tariff.retired } })))))
    ∧ (∀ s : State,
        (s.rolloverDue = true ↔ ∃ d, s.today = some d ∧ s.clock.rolloverDay < d)
          ∧ (s.changeoverDue = true ↔
              ∃ z t, s.zoneSec = some z ∧ s.tariff.pending = some t ∧ t.effectiveFrom ≤ z))
    ∧ (∀ (keep : SupplyEntry → Bool) (s : State),
        (∀ e, keep e = true ↔ (e.item = .usage → ∀ ser, e.series = some ser → ser.start = s.permits.ownDay)) →
          ∀ q, q = s.repl.supply.filter keep →
            (q.head? = s.repl.supply.head? → dropOldUsage s = { s with repl := { s.repl with supply := q } })
              ∧ (q = [] → dropOldUsage s = { s with repl := { s.repl with supply := [] } })
              ∧ ∀ e rest, q = e :: rest → s.repl.supply.head? ≠ some e →
                  dropOldUsage s =
                    serve { s with repl := { s.repl with
                      supply := { e with series := e.series.or (s.fixedSeries e) } :: rest } })
    ∧ ∀ (p : Prop) (_ : Decidable p) (s : State),
        noteIf p s = if p then { s with link := { s.link with changedAt := some s.clock.elapsed } } else s

/-- The four marks, each given once at its instant of the zone cycle and not otherwise (R14): the end of an exchange period
ends the receiver's hold and holds the head frame's access (R15, R17); the cycle start turns the receiver on, forgets the
declined keys and counts toward settlement (R16, R40, R123); the own slot sends the announce while the line is free (R24); the
start of an exchange period decides the hold, begins medium access afresh with attempt 0 but for a frame on the line, tries the
refused placements of the intake and the supply again and frees the held reports (R15, R17, R32, R42, R50, R150). A mark is due
exactly while zone time is set and stands at its place of the 32 s cycle, Setup is done, and it has not been given there;
giving it notes that and nothing else, and the next millisecond of zone time forgets what was given, which stands while zone
time does: unset, or at the end of its range (R5, R14). The announce carries the station's state as Table 2.3 lists it,
discards a frame in collection, pauses a backoff, and enters the own due figure in the zone due list from 75 on, in its place:
by figure, the highest first, and by station number, the lowest first, among equals (R18, R24, R25, R153). That the rows act
only where due, their order at one instant, the LCD operand, the pause, a slot given again while the announce is on the line,
that an entry to DORMANT at the slot waits neither for the read of a REST's response nor for a restart in progress, the order
of the two retries, that a frame waiting for an idle line is held as one in its backoff, and that a mark given again begins a
running backoff afresh are the model's choice (log entries 2, 3, 5, 24, 42, 47, 72, 75, 79, 84). -/
def Obligations.MarksGiven : Prop :=
  (∀ s : State, s.port.resetHigh = true →
    (s.markDue .endOfExchange = true →
        acts .endOfExchangeMark s
          { markGiven .endOfExchange s with link := { s.link with
            heldOn := false, access := if s.link.access = .off then .off else .held } })
      ∧ (s.markDue .cycleStart = true → ∀ lcd,
          acts (.cycleStartMark lcd) s
            (judgeSettled
              { markGiven .cycleStart s with
                link := { s.link with lcd := lcd, heldOn := true, windowHeard := [] }
                repl := { s.repl with declined := [] }
                permits := { s.permits with cycleMarks := min 2 (s.permits.cycleMarks + 1) } }))
      ∧ (s.markDue .ownSlot = true →
          (s.mayTransmit = true → s.link.line = none →
              acts .ownSlotMark s (sendAnnounce (s.clock.zone.getD 0) (markGiven .ownSlot s)))
            ∧ (s.mayTransmit = false ∨ s.link.line.isSome = true →
                acts .ownSlotMark s
                  (if s.power.dormantDue then enterDormant (markGiven .ownSlot s) else markGiven .ownSlot s)))
      ∧ (s.markDue .exchangeStart = true → ∀ lcd u,
          u =
            serve (requestIntake
              { markGiven .exchangeStart s with
                link := { s.link with
                  lcd := lcd, heldOn := s.power.state == .awake || s.holdsReceiver, access := .off
                  tx := if headOnLine s.link then s.link.tx else headAttempt 0 s.link.tx } }) →
            acts (.exchangePeriodMark lcd) s
              { u with rounds := { u.rounds with log := u.rounds.log.map fun r => { r with held := false } } })
      ∧ (∀ f rest, headAttempt 0 [] = [] ∧ headAttempt 0 (f :: rest) = { f with attempt := 0 } :: rest)
      ∧ (s.markDue .endOfExchange = false → acts .endOfExchangeMark s s)
      ∧ (s.markDue .cycleStart = false → ∀ lcd, acts (.cycleStartMark lcd) s s)
      ∧ (s.markDue .ownSlot = false → acts .ownSlotMark s s)
      ∧ (s.markDue .exchangeStart = false → ∀ lcd, acts (.exchangePeriodMark lcd) s s))
    ∧ (∀ (m : Mark) (s : State),
        s.markDue m = true ↔
          ∃ z, s.clock.zone = some z ∧ s.setupDone = true ∧ m ∉ s.clock.marksGiven
            ∧ z % 32000 =
              (match m with
                | .endOfExchange => 0
                | .cycleStart => 0
                | .ownSlot => (s.own - 1) * 125
                | .exchangeStart => 4000))
    ∧ (∀ (m : Mark) (s : State),
        markGiven m s = { s with clock := { s.clock with marksGiven := m :: s.clock.marksGiven } }
          ∧ (markGiven m s).markDue m = false
          ∧ ∀ m', m' ≠ m → (markGiven m s).markDue m' = s.markDue m')
    ∧ (∀ c : Clock,
        (∀ z, c.zone = some z → z < zoneMax → (tickClock c).marksGiven = [])
          ∧ (∀ z, c.zone = some z → zoneMax ≤ z → (tickClock c).marksGiven = c.marksGiven)
          ∧ (c.zone = none → (tickClock c).marksGiven = c.marksGiven))
    ∧ (∀ l : Link, headOnLine l = true ↔ ∃ start, l.line = some (.exchange start))
    ∧ (∀ (z : Nat) (s : State),
        sendAnnounce z s =
            { s with
              link := { s.link with
                line := some (.announce s.clock.elapsed (ownAnnounce s z))
                path :=
                  (match s.link.path with
                    | .collecting _ _ _ => .idle
                    | p => p)
                access :=
                  (match s.link.access with
                    | .backoff start => .paused (s.clock.elapsed - start)
                    | a => a) }
              rounds := { s.rounds with dueList := updateDue s.own s.dueFigure s.rounds.dueList } })
    ∧ (∀ (z : Nat) (r : SetupRecord) (s : State), s.port.setup = some r →
        ownAnnounce s z =
          { role := r.role, zoneSec := z / 1000, zoneMs := z % 1000, quality := s.clock.quality
            dormant := s.power.dormantDue, hostAwake := s.power.state == .awake
            reports := s.isMachine && !s.rounds.log.isEmpty
            active := s.tariff.active.bind (·.key), pending := s.tariff.pending.bind (·.key)
            pendingEff :=
              (match s.tariff.pending with
                | none => 0
                | some p => p.effectiveFrom)
            sections := s.permits.sections.map (·.key), faultCtr := s.faults.counter
            usageCtr := s.permits.ownCtr, usageDay := s.permits.ownDay
            due :=
              if s.isMachine then
                max (min 100 (s.cash.coinTotal * 100 / s.capacity)) (journalFill s.cash)
              else 0
            round := s.rounds.ctx.round, collector := s.rounds.ctx.collector
            roundState := s.rounds.ctx.state })
    ∧ ∀ (n due : Nat) (l : List (Nat × Nat)),
        (75 ≤ due → (n, due) ∈ updateDue n due l)
          ∧ (∀ x ∈ updateDue n due l, x.1 = n → 75 ≤ due ∧ x.2 = due)
          ∧ (∀ x, x.1 ≠ n → (x ∈ updateDue n due l ↔ x ∈ l))
          ∧ (l.Pairwise (fun x y => y.2 < x.2 ∨ (x.2 = y.2 ∧ x.1 < y.1)) →
              (updateDue n due l).Pairwise fun x y => y.2 < x.2 ∨ (x.2 = y.2 ∧ x.1 < y.1))

/-! ### Peers, keys and replication -/

/-- READ_PEER gives the entry with the lowest number at or above the parameter, its two readings as ages in seconds;
READ_REPLICATION gives the want list by object, the intake, the length of the supply queue with its head's requester, object
and next index, and the streams ahead. Neither changes anything (R30, R58). A REQUEST for a held image from a start below its
fragment count, or for a stream, enters the supply queue: it replaces the entry of its requester and object in place, whichever
key of that object it asked for, or joins while the queue holds under four; one for a key not held is answered SUPERSEDED where
the own current key is higher, else NOT_HELD (R49). The supply places the frame of its head entry, one at a time: the fragment
at its index with the image's count, length and check, or the next four own fault changes or eight own contributions of its
series (R50, R56). A row of the want list gives its key, candidates, excluded and timeouts; a stream is ahead where the
advertised counter is above the held position (R58). A tariff image is that of the set in a slot under its key, and the own
current key the highest of the slots (R36). How a usage stream counts as ahead where no position is held is the model's reading
(log entry 36), and an age beyond its field a free value (log entry 18). A request is taken in every power state (log entry
9). -/
def Obligations.PeerAndReplicationRead : Prop :=
  (∀ s : State, s.openTo anyRole = true →
    (∀ n, 32 < n → answers (.readPeer n) s 7 .badParameter .nothing s)
      ∧ (∀ n, n ≤ 32 →
          (s.link.peers.find? (fun p => n ≤ p.station) = none → answers (.readPeer n) s 7 .notFound .nothing s)
            ∧ (∀ p, s.link.peers.find? (fun p => n ≤ p.station) = some p →
                answers (.readPeer n) s 7 .ok
                  (.peer { p with lastHeard := 0, dormantHeard := none } (s.ageOf p.lastHeard)
                    (p.dormantHeard.map s.ageOf)) s))
      ∧ answers .readReplication s 8 .ok
          (.replication (allObjects.map (replRow s)) (s.repl.intake.map intakeRow) s.repl.supply.length
            (s.repl.supply.head?.map fun e => (e.requester, supplyObject e.item, e.next)) (s.link.peers.countP (faultsAhead s))
            (s.link.peers.countP (usageAhead s))) s)
    ∧ (∀ (n : Nat) (obj : ImageObj) (key : Key) (start : Nat) (s : State),
        (∀ img, s.heldImage obj key = some img →
            (fragmentCount img.length ≤ start → takeRequest n (.image obj key start) s = s)
              ∧ (start < fragmentCount img.length →
                  takeRequest n (.image obj key start) s = enterSupply (freshSupply n (.image obj key) start) s))
          ∧ (s.heldImage obj key = none →
              (∀ k, s.currentKey obj = some k → Key.higher k key = true →
                  takeRequest n (.image obj key start) s = place .other n (.superseded obj k) s)
                ∧ ((∀ k, s.currentKey obj = some k → Key.higher k key = false) →
                    takeRequest n (.image obj key start) s = place .other n (.notHeld obj key) s))
          ∧ (∀ c, takeRequest n (.faults c) s = enterSupply (freshSupply n (.faults c) 0) s)
          ∧ takeRequest n .usage s = enterSupply (freshSupply n .usage 0) s)
    ∧ (∀ (n next : Nat) (item : SupplyItem), freshSupply n item next =
        { requester := n, item := item, next := next, series := none, sentHigh := 0, placed := false, placedHigh := 0 })
    ∧ (∀ a b : SupplyEntry, sameRequest a b = true ↔
        a.requester = b.requester
          ∧ ((∃ obj k l, a.item = .image obj k ∧ b.item = .image obj l) ∨ (∃ c d, a.item = .faults c ∧ b.item = .faults d)
            ∨ (a.item = .usage ∧ b.item = .usage)))
    ∧ (∀ (e : SupplyEntry) (s : State),
        (s.repl.supply = [] →
            enterSupply e s =
              serve { s with repl := { s.repl with supply := [{ e with series := e.series.or (s.fixedSeries e) }] } })
          ∧ (s.repl.supply ≠ [] → (∀ x ∈ s.repl.supply, sameRequest e x = false) →
              (s.repl.supply.length < 4 →
                  enterSupply e s = { s with repl := { s.repl with supply := s.repl.supply ++ [e] } })
                ∧ (4 ≤ s.repl.supply.length → enterSupply e s = s))
          ∧ ∀ x rest u, s.repl.supply = x :: rest → (∃ y ∈ s.repl.supply, sameRequest e y = true) →
              u =
                { s with repl := { s.repl with
                  supply := s.repl.supply.map fun y => if sameRequest e y then e else y } } →
                (sameRequest e x = true → enterSupply e s = serve u)
                  ∧ (sameRequest e x = false → enterSupply e s = u))
    ∧ (∀ s : State,
        (s.repl.supply = [] → serve s = s)
          ∧ ∀ e rest e1, s.repl.supply = e :: rest → e1 = { e with series := e.series.or (s.fixedSeries e) } →
              (e.placed = true ∨ (∃ f ∈ s.link.tx, f.placer = .supply) → serve s = s)
                ∧ (e.placed = false → (∀ f ∈ s.link.tx, f.placer ≠ .supply) →
                    (s.supplyFrame e1 = none ∨ s.canPlace = false →
                        serve s = { s with repl := { s.repl with supply := e1 :: rest } })
                      ∧ ∀ body high, s.supplyFrame e1 = some (body, high) → s.canPlace = true →
                          serve s =
                            place .supply e.requester body
                              { s with repl := { s.repl with
                                supply := { e1 with placed := true, placedHigh := high } :: rest } }))
    ∧ (∀ (e : SupplyEntry) (s : State),
        (∀ obj key, e.item = .image obj key → s.fixedSeries e = none
            ∧ ∀ img, s.heldImage obj key = some img →
                s.supplyFrame e =
                  some
                    (.fragment
                      { obj := obj, key := key, index := e.next, count := (img.length + 95) / 96, length := img.length
                        check := crc img, data := bytesAt img (96 * e.next) 96 }, 0))
          ∧ (∀ c, e.item = .faults c →
              s.fixedSeries e =
                  some
                    { start := c, endPoint := s.faults.counter
                      parts := max 1 (((s.ownChanges c s.faults.counter).length + 3) / 4) }
                ∧ ∀ ser es, e.series = some ser →
                    es = (s.ownChanges (max c (e.sentHigh + 1)) ser.endPoint).take 4 →
                      s.supplyFrame e =
                        some (.faultReport (.series ser e.next es), max e.sentHigh (maxOf (es.map (·.change)))))
          ∧ (e.item = .usage →
              s.fixedSeries e =
                  some
                    { start := s.permits.ownDay, endPoint := s.permits.ownCtr
                      parts := max 1 (((s.ownContribs s.permits.ownDay).length + 7) / 8) }
                ∧ ∀ ser es, e.series = some ser →
                    es = ((s.ownContribs ser.start).filter fun c => decide (e.sentHigh < c.1)).take 8 →
                      s.supplyFrame e =
                        some (.usage (.series ser e.next es), max e.sentHigh (maxOf (es.map (·.1)))))
          ∧ (∀ a b x, x ∈ s.ownChanges a b ↔ x ∈ s.faults.table ∧ x.owner = s.own ∧ a ≤ x.change ∧ x.change ≤ b)
          ∧ (∀ a b, (s.ownChanges a b).Pairwise fun x y => x.change ≤ y.change)
          ∧ (∀ day n m, (n, m) ∈ s.ownContribs day ↔
              ∃ u ∈ s.permits.usage, u.permit = n ∧ u.day = day ∧ contribOf s.own u = some m)
          ∧ ∀ day, (s.ownContribs day).Pairwise fun x y => x.1 ≤ y.1)
    ∧ (∀ (obj : ImageObj) (s : State),
        (s.wantOf obj = none →
            replRow s obj =
              { wanted := none, candidates := 0, lowest := none, excluded := 0, timeouts := 0
                declined := s.declinedKey obj })
          ∧ ∀ e, s.wantOf obj = some e →
              replRow s obj =
                { wanted := some e.key, candidates := e.cands.length, lowest := e.cands.head?
                  excluded := e.excluded.length, timeouts := e.timeouts, declined := s.declinedKey obj })
    ∧ (∀ (i : Intake) (obj : ImageObj) (key : Key) (c : Nat),
        intakeRow i =
            { phase := i.phase, obj := i.obj, key := i.key, provider := i.provider, next := i.next
              count := i.info.map (·.count) }
          ∧ supplyObject (.image obj key) = .image obj ∧ supplyObject (.faults c) = .faults
          ∧ supplyObject .usage = .usage)
    ∧ (∀ (p : PeerEntry) (s : State),
        (faultsAhead s p = true ↔ (s.faultPosOf p.station).pos < p.faultCtr)
          ∧ (s.usagePos p.station = none → (usageAhead s p = true ↔ 0 < p.usageCtr))
          ∧ (∀ d u, s.usagePos p.station = some (d, u) →
              (usageAhead s p = true ↔
                  (d < p.usageDay ∧ 0 < p.usageCtr) ∨ (d = p.usageDay ∧ u < p.usageCtr)))
          ∧ ∀ r, (s.clock.elapsed - r) / 1000 ≤ 4294967295 → s.ageOf r = (s.clock.elapsed - r) / 1000)
    ∧ ∀ (key : Key) (s : State),
        (∀ i, s.currentKey (.sect i) = s.sectionKey i
            ∧ s.heldImage (.sect i) key =
                if s.sectionKey i = some key then some (sectionImage i (s.sectionAt i)) else none)
          ∧ (∀ img, s.heldImage .tariff key = some img →
              ∃ t, t.key = some key ∧ img = tariffImage t
                ∧ (s.tariff.active = some t ∨ s.tariff.pending = some t ∨ s.tariff.retired = some t))
          ∧ ((s.heldImage .tariff key).isSome = true ↔
              slotKey s.tariff.active = some key ∨ slotKey s.tariff.pending = some key
                ∨ slotKey s.tariff.retired = some key)
          ∧ (s.currentKey .tariff = some key →
              slotKey s.tariff.active = some key ∨ slotKey s.tariff.pending = some key
                ∨ slotKey s.tariff.retired = some key)
          ∧ (slotKey s.tariff.active = some key ∨ slotKey s.tariff.pending = some key
                ∨ slotKey s.tariff.retired = some key →
              ∃ h, s.currentKey .tariff = some h ∧ Key.higher key h = false)

/-- Keys are ordered: no key is higher than itself, of two distinct keys exactly one is higher, the order is transitive, and
any key is higher than an absent one (R35). The target for an object is the highest key offered; it qualifies and is not
declined (R37). A LIVE entry offers the key it advertises for an object, unless it is the declined one: that of a section where
it is higher than the held one, an active tariff key where it is higher than the ACTIVE one and not the PENDING one, a pending
tariff key where it is higher than both (R37). At a notice the entry of each object is judged: one that still qualifies, by the
field that advertises its key, stands, the announcing peer joining or leaving its candidates, the LIVE peers that advertise its
key less the excluded ones, unless the target is higher or at an announce it has no candidate; then, and where it no longer
qualifies, it gives way to a new entry for the target, if any, whose candidates are the LIVE peers advertising the key (R38,
R39). A holdings notice judges the want list, lets the intake follow it, and answers every supply entry whose image is no
longer held with SUPERSEDED and the own current key, or NOT_HELD where the object is not held, and drops it; an entry that so
becomes the head is served (R36, R38, R51). The intake serves the first want entry with a candidate, from its lowest-numbered
one and from fragment 0, and in DORMANT none; it is given up for another head, and goes to the lowest candidate left where its
provider has gone, the bytes kept and the timeout count 0 (R41, R44, R46, R48). A changed intake asks at once, and a REQUEST is
placed while none of the intake's waits in the queue, from the next fragment index, once candidates that are not LIVE are gone
(R39, R42). How a key is judged, that an entry removed gives way at once, the order within a holdings notice, and that DORMANT
judges the list and begins no intake, are the model's choice or reading (log entries 14, 46, 66, 87, 37). -/
def Obligations.KeysAndTargets : Prop :=
  ((∀ a : Key, Key.higher a a = false)
    ∧ (∀ a b : Key, a ≠ b → (Key.higher a b = true ↔ Key.higher b a = false))
    ∧ (∀ a b c : Key, Key.higher a b = true → Key.higher b c = true → Key.higher a c = true)
    ∧ (∀ a b : Key, Key.higher a b = true ↔ (b.gen < a.gen ∨ (a.gen = b.gen ∧ a.pub < b.pub)))
    ∧ (∀ a : Key, Key.higherOpt a none = true))
    ∧ (∀ (obj : ImageObj) (s : State),
    (∀ k, s.target obj = some k →
        (∃ p ∈ s.link.peers, some k ∈ s.offersOf obj p)
          ∧ (∃ p ∈ s.link.peers, p.status = .live ∧ advertises obj k p = true ∧ s.declinedKey obj ≠ some k)
          ∧ s.qualifies obj k = true
          ∧ ∀ p ∈ s.link.peers, ∀ k', some k' ∈ s.offersOf obj p → Key.higher k' k = false)
      ∧ (s.target obj = none → ∀ p ∈ s.link.peers, ∀ k', some k' ∉ s.offersOf obj p))
    ∧ (∀ (sender : Option Nat) (obj : ImageObj) (s : State),
        judgeWant sender s = { s with repl := { s.repl with want := allObjects.filterMap (s.judgedWant sender) } }
          ∧ (s.wantOf obj = none → s.judgedWant sender obj = (s.target obj).map (s.freshWant obj))
          ∧ (∀ k, (s.freshWant obj k).obj = obj ∧ (s.freshWant obj k).key = k ∧ (s.freshWant obj k).excluded = []
              ∧ (s.freshWant obj k).timeouts = 0
              ∧ ∀ n, n ∈ (s.freshWant obj k).cands ↔
                  ∃ p ∈ s.link.peers, p.station = n ∧ p.status = .live ∧ advertises obj k p = true)
          ∧ ∀ e0 e, s.wantOf obj = some e0 → e = { e0 with pendingOnly := s.pendingOnly obj e0.key e0.pendingOnly } →
              (s.entryQualifies e = false → s.judgedWant sender obj = (s.target obj).map (s.freshWant obj))
                ∧ (s.entryQualifies e = true →
                    (∀ k, s.target obj = some k → Key.higher k e.key = true ∨ (e.cands = [] ∧ sender.isSome = true) →
                        s.judgedWant sender obj = some (s.freshWant obj k))
                      ∧ (∀ k, s.target obj = some k → Key.higher k e.key = false → e.cands ≠ [] ∨ sender = none →
                          s.judgedWant sender obj = some (s.noteSender sender e))
                      ∧ (s.target obj = none → s.judgedWant sender obj = some (s.noteSender sender e)))
                ∧ (e.pendingOnly = true → s.entryQualifies e = s.qualifiesPending e.key)
                ∧ (e.pendingOnly = false → s.entryQualifies e = s.qualifies e.obj e.key)
                ∧ s.noteSender none e = e
                ∧ ∀ n, (n ∈ s.candidates e.obj e.key e.excluded →
                      s.noteSender (some n) e = { e with cands := insertNat n e.cands })
                    ∧ (n ∉ s.candidates e.obj e.key e.excluded →
                        s.noteSender (some n) e = { e with cands := e.cands.filter (· != n) }))
    ∧ (∀ (obj : ImageObj) (k : Key) (excluded : List Nat) (s : State),
        s.candidates obj k excluded =
          (s.link.peers.filter fun p => p.status == .live && advertises obj k p && !excluded.contains p.station).map
            (·.station))
    ∧ (∀ (n : Nat) (l : List Nat),
        (∀ m, m ∈ insertNat n l ↔ m = n ∨ m ∈ l)
          ∧ (l.Pairwise (· < ·) → (insertNat n l).Pairwise (· < ·)))
    ∧ (∀ (k h : Key) (s : State),
        Key.higherOpt k (some h) = Key.higher k h
          ∧ (s.qualifies .tariff k = true ↔
              Key.higherOpt k (slotKey s.tariff.active) = true ∧ slotKey s.tariff.pending ≠ some k)
          ∧ (∀ i, s.qualifies (.sect i) k = Key.higherOpt k (s.sectionKey i))
          ∧ (s.qualifiesPending k = true ↔
              Key.higherOpt k (slotKey s.tariff.active) = true ∧ Key.higherOpt k (slotKey s.tariff.pending) = true))
    ∧ (∀ (k : Key) (p : PeerEntry) (s : State),
        (advertises .tariff k p = true ↔ p.active = some k ∨ p.pending = some k)
          ∧ (∀ i, advertises (.sect i) k p = true ↔ p.sections[i]? = some (some k))
          ∧ (some k ∈ s.offersOf .tariff p ↔
              p.status = .live ∧ s.declinedKey .tariff ≠ some k
                ∧ ((p.active = some k ∧ s.qualifies .tariff k = true)
                    ∨ (p.pending = some k ∧ s.qualifiesPending k = true)))
          ∧ (∀ i, some k ∈ s.offersOf (.sect i) p ↔
              p.status = .live ∧ s.declinedKey (.sect i) ≠ some k ∧ p.sections[i]? = some (some k)
                ∧ s.qualifies (.sect i) k = true)
          ∧ (∀ obj, s.declinedKey obj = (s.repl.declined.find? fun x => x.1 == obj).map (·.2))
          ∧ (∀ i before, s.pendingOnly (.sect i) k before = false)
          ∧ ∀ before,
              ((∃ q ∈ s.link.peers, q.status = .live ∧ q.active = some k) → s.pendingOnly .tariff k before = false)
                ∧ ((∀ q ∈ s.link.peers, q.status = .live → q.active ≠ some k) →
                    ((∃ q ∈ s.link.peers, q.status = .live ∧ q.pending = some k) → s.pendingOnly .tariff k before = true)
                      ∧ ((∀ q ∈ s.link.peers, q.status = .live → q.pending ≠ some k) →
                          s.pendingOnly .tariff k before = before)))
    ∧ (∀ (s t u : State), t = updateIntake (judgeWant none s) →
        u = (t.repl.supply.filter t.unheld).foldl answerEntry t → ∀ q, q = u.repl.supply.filter (fun e => !t.unheld e) →
          (q.head? = u.repl.supply.head? → holdingsNotice s = { u with repl := { u.repl with supply := q } })
            ∧ (q = [] → holdingsNotice s = { u with repl := { u.repl with supply := [] } })
            ∧ ∀ e rest, q = e :: rest → u.repl.supply.head? ≠ some e →
                holdingsNotice s =
                  serve { u with repl := { u.repl with
                    supply := { e with series := e.series.or (u.fixedSeries e) } :: rest } })
    ∧ (∀ (e : SupplyEntry) (s : State),
        (s.unheld e = true ↔ ∃ obj key, e.item = .image obj key ∧ s.heldImage obj key = none)
          ∧ ∀ obj key, e.item = .image obj key →
              (∀ k, s.currentKey obj = some k → answerEntry s e = place .other e.requester (.superseded obj k) s)
                ∧ (s.currentKey obj = none → answerEntry s e = place .other e.requester (.notHeld obj key) s))
    ∧ (∀ s : State,
        (s.power.state = .dormant ∨ (∀ w ∈ s.repl.want, w.cands = []) →
            beginHead s = { s with repl := { s.repl with intake := none } })
          ∧ ∀ before e after n ns, s.power.state ≠ .dormant → s.repl.want = before ++ e :: after →
              (∀ w ∈ before, w.cands = []) → e.cands = n :: ns →
                beginHead s =
                  { s with repl := { s.repl with
                    intake := some
                      { obj := e.obj, key := e.key, provider := n, next := 0, info := none, bytes := [], progress := 0
                        phase := .requesting, placed := false } } })
    ∧ (∀ s : State,
        (s.repl.intake = none → followIntake s = beginHead s)
          ∧ ∀ i u, s.repl.intake = some i →
              ((∃ e, s.wantOf i.obj = some e ∧ e.key = i.key ∧ i.provider ∉ e.cands) →
                  u =
                    { s with repl := { s.repl with
                      want := s.repl.want.map fun w => if w.obj == i.obj then { w with timeouts := 0 } else w } }) →
                ((∀ e, s.wantOf i.obj = some e → e.key ≠ i.key ∨ i.provider ∈ e.cands) → u = s) →
                  ((∀ w ∈ s.repl.want, w.cands = []) → followIntake s = beginHead u)
                    ∧ ∀ before e after n ns, s.repl.want = before ++ e :: after → (∀ w ∈ before, w.cands = []) →
                        e.cands = n :: ns →
                          (e.obj ≠ i.obj ∨ e.key ≠ i.key → followIntake s = beginHead u)
                            ∧ (e.obj = i.obj → e.key = i.key →
                                (i.provider ∈ e.cands → followIntake s = u)
                                  ∧ (i.provider ∉ e.cands →
                                      followIntake s =
                                        { u with repl := { u.repl with
                                          intake := some
                                            { i with provider := n, phase := .requesting, placed := false } } })))
    ∧ (∀ s t : State, t = followIntake s →
        (t.repl.intake = s.repl.intake → updateIntake s = t)
          ∧ (t.repl.intake ≠ s.repl.intake → updateIntake s = requestIntake t))
    ∧ ∀ s t : State,
        t = followIntake
            { s with repl := { s.repl with
              want := s.repl.want.map fun e => { e with cands := e.cands.filter fun n => s.live n } } } →
          (s.repl.intake = none ∨ (∃ f ∈ s.link.tx, f.placer = .intake)
              ∨ (∃ i, s.repl.intake = some i ∧ (i.phase = .receiving ∨ i.placed = true)) →
              requestIntake s = s)
            ∧ ∀ i, s.repl.intake = some i → i.phase = .requesting → i.placed = false →
                (∀ f ∈ s.link.tx, f.placer ≠ .intake) →
                  (t.repl.intake = none ∨ t.canPlace = false → requestIntake s = t)
                    ∧ ∀ j, t.repl.intake = some j → t.canPlace = true →
                        requestIntake s =
                          place .intake j.provider (.request (.image j.obj j.key j.next))
                            { t with repl := { t.repl with intake := some { j with placed := true } } }

/-! ### Tariff sets -/

/-- READ_TARIFF: a parameter out of range is refused, then an empty slot; else the set's key, effective-from and reference
with the entry, and nothing changes (R75): a ladder header comes with its figures, blank or not, last band, length and cap
minutes, absent where they have no bound or the ladder is blank, and a band with its base time and base price and a mark of
the ladder's bands (R60 to R62). TARIFF_DRAFT_BEGIN: a source that names nothing is refused, then an empty source slot; else
the draft holds the source's set, or empty values, with part HEADER and index 0, and the response gives its key and
effective-from (R76). The figures of bands beyond the last one are the model's reading (log entry 34), and the bytes beside a
NONE class and an unused calendar entry of an empty draft its choice (log entry 50). A request is taken in every power state
(log entry 9). -/
def Obligations.TariffReadAndDraftBegun : Prop :=
  (∀ (slot : Option TariffSlot) (part : Option TariffPart) (index : Nat) (s : State), s.openTo anyRole = true →
    (slot = none ∨ part = none ∨ (∃ p, part = some p ∧ partSize p ≤ index) →
        answers (.readTariff slot part index) s 9 .badParameter .nothing s)
      ∧ (∀ sl p, slot = some sl → part = some p → index < partSize p →
          (slotSet s.tariff sl = none → answers (.readTariff slot part index) s 9 .notFound .nothing s)
            ∧ (∀ t, slotSet s.tariff sl = some t →
                answers (.readTariff slot part index) s 9 .ok
                  (.tariff t.key t.effectiveFrom t.reference (tariffEntry t p index)) s)))
    ∧ (∀ s : State, s.openTo gatewayOnly = true →
    answers (.tariffDraftBegin none) s 10 .badParameter .nothing s
      ∧ answers (.tariffDraftBegin (some .empty)) s 10 .ok (.draftBegun none none)
          { s with tariff := { s.tariff with draft := some { tset := emptySet, part := .header, index := 0 } } }
      ∧ (s.tariff.active = none → answers (.tariffDraftBegin (some .active)) s 10 .notFound .nothing s)
      ∧ (s.tariff.pending = none → answers (.tariffDraftBegin (some .pending)) s 10 .notFound .nothing s)
      ∧ (∀ t, s.tariff.active = some t →
          answers (.tariffDraftBegin (some .active)) s 10 .ok (.draftBegun t.key (some t.effectiveFrom))
            { s with tariff := { s.tariff with draft := some { tset := t, part := .header, index := 0 } } })
      ∧ (∀ t, s.tariff.pending = some t →
          answers (.tariffDraftBegin (some .pending)) s 10 .ok (.draftBegun t.key (some t.effectiveFrom))
            { s with tariff := { s.tariff with draft := some { tset := t, part := .header, index := 0 } } }))
    ∧ (∀ (t : TariffSet) (i : Nat),
        (tariffEntry t .header 0 = .plain (setHeaderBytes t)
            ∧ tariffEntry t .header (i + 1) =
                .ladderHeader (ladderHeaderBytes (ladderAt t i)) (ladderFigures (ladderAt t i)))
          ∧ (∀ x, t.dayParts[i]? = some x → tariffEntry t .dayParts i = .plain (dayPartBytes x))
          ∧ (∀ x, t.classes[i]? = some x → tariffEntry t .classes i = .plain (classEntryBytes x))
          ∧ (∀ x, t.calendar[i]? = some x → tariffEntry t .calendar i = .plain (calEntryBytes x))
          ∧ ∀ p k l b, ladderIndex p = some k → l = ladderAt t k → l.bands[i]? = some b →
              tariffEntry t p i =
                .band (bandBytes b)
                  ((l.bands.take i).map fun x => x.steps * (if l.uniform then l.uMinutes else x.minutes)).sum
                  ((l.bands.take i).map fun x => x.steps * (if l.uniform then l.uPrice else x.price)).sum
                  (decide (i ≤ lastBand l)))
    ∧ (∀ l : Ladder, l.bands.length = 8 →
        (ladderBlank l = true ↔ ∃ b, l.bands[0]? = some b ∧ b.steps = 0)
          ∧ (ladderBlank l = true →
              ladderFigures l = { blank := true, lastBand := lastBand l, length := none, capMinutes := none })
          ∧ (∀ r b, l.bands[r]? = some b → b.cap = true → (∀ q c, q < r → l.bands[q]? = some c → c.cap = false) →
              lastBand l = r
                ∧ (ladderBlank l = false →
                    ladderFigures l =
                      { blank := false, lastBand := r, length := some ((l.bands.take (r + 1)).map (·.steps)).sum
                        capMinutes :=
                          some
                            ((l.bands.take (r + 1)).map fun x =>
                              x.steps * (if l.uniform then l.uMinutes else x.minutes)).sum }))
          ∧ ((∀ b ∈ l.bands, b.cap = false) →
              lastBand l = 7
                ∧ (ladderBlank l = false →
                    ladderFigures l = { blank := false, lastBand := 7, length := none, capMinutes := none })))
    ∧ emptySet =
        { key := none, effectiveFrom := 0, reference := 0
          ladders :=
            List.replicate 4
              { uniform := false, uMinutes := 0, uPrice := 0
                bands := List.replicate 8 { cap := false, minutes := 0, price := 0, steps := 0 } }
          dayParts := List.replicate 12 { mask := 0#8, start := 0, stop := 0, treat := .free }
          classes := List.replicate 6 { kind := .plain, k := 0 }
          calendar := List.replicate 16 { day := 0, kind := none } }

/-- TARIFF_DRAFT_SELECT takes one parameter, a part of Table 4.6: the part becomes the selected part and the entry index
becomes 0, whatever part was selected; a parameter that names no part is refused and nothing changes; the response is OK with
the size of the part (R77). A request is taken in every power state (log entry 9). -/
def Obligations.DraftPartSelected : Prop :=
  ∀ (d : Draft) (s : State), s.openTo gatewayOnly = true → s.tariff.draft = some d →
    answers (.tariffDraftSelect none) s 11 .badParameter .nothing s
      ∧ ∀ p, answers (.tariffDraftSelect (some p)) s 11 .ok
          (.draftPart
            (match p with
              | .header => 5
              | .ladder0 => 8
              | .ladder1 => 8
              | .ladder2 => 8
              | .ladder3 => 8
              | .dayParts => 12
              | .classes => 6
              | .calendar => 16))
          { s with tariff := { s.tariff with draft := some { d with part := p, index := 0 } } }

/-- TARIFF_DRAFT_READ gives the entry at the index and raises the index, which returns to 0 at the size of the part;
TARIFF_DRAFT_WRITE replaces the entry at the index by one of the right length whose encodings name values and raises the index
the same way, and refuses any other with nothing changed, the length being 16 and 4 bytes in HEADER, 5 in a ladder, 6, 2 and 3
in the other parts; without a draft the four draft commands but BEGIN are refused (R76, R78, R79). A day-part, class or
calendar entry that is written reads back byte for byte, as does a band and a ladder header; entry 0 of HEADER gives the
reference alone, its other bytes but the key and effective-from, which stay, reading back too (Table 12.6). The encodings that
name no value are a part size or a zero byte of the set header that differs from the layout, a day-part treatment of 2 to 15, a
class treatment above 3 and a day kind above 8 (R193). A write changes its own entry alone: every other entry of every part
reads as before, a ladder's header leaving its bands and a band its header (R78). That the part sizes and zero bytes of a
written HEADER entry are judged, of which R78's three checks say nothing, is the model's reading of R193 (log entry 22). A
request is taken in every power state (log entry 9). -/
def Obligations.DraftReadAndWritten : Prop :=
  (∀ s : State, s.openTo gatewayOnly = true →
    (s.tariff.draft = none →
        (∀ p, answers (.tariffDraftSelect p) s 11 .notFound .nothing s)
          ∧ (∀ e, answers (.tariffDraftWrite e) s 12 .notFound .nothing s)
          ∧ answers .tariffDraftRead s 13 .notFound .nothing s
          ∧ ∀ n, answers (.tariffPublish n) s 14 .notFound .nothing s)
      ∧ (∀ d, s.tariff.draft = some d →
          answers .tariffDraftRead s 13 .ok (.draftEntry d.index (partBytes d.tset d.part d.index))
              { s with tariff := { s.tariff with
                draft := some { d with index := if d.index + 1 < partSize d.part then d.index + 1 else 0 } } }
            ∧ (∀ e, e.length ≠ entryLength d.part d.index ∨ writeEntry d.part d.index e d.tset = none →
                answers (.tariffDraftWrite e) s 12 .badParameter .nothing s)
            ∧ (∀ e t, e.length = entryLength d.part d.index → writeEntry d.part d.index e d.tset = some t →
                answers (.tariffDraftWrite e) s 12 .ok
                  (.draftIndex (if d.index + 1 < partSize d.part then d.index + 1 else 0))
                  { s with tariff := { s.tariff with
                    draft := some
                      { d with
                        tset := t
                        index := if d.index + 1 < partSize d.part then d.index + 1 else 0 } } })))
    ∧ (∀ (part : TariffPart) (index : Nat) (e : List Byte) (t t' : TariffSet),
    t.ladders.length = 4 → (∀ l ∈ t.ladders, l.bands.length = 8) → t.dayParts.length = 12 → t.classes.length = 6 →
      t.calendar.length = 16 → index < partSize part → e.length = entryLength part index →
        writeEntry part index e t = some t' →
          (¬(part = .header ∧ index = 0) → partBytes t' part index = e)
            ∧ (part = .header → index = 0 →
                t' = { t with reference := fieldAt e 7 2 } ∧ (partBytes t' part index).drop 7 = e.drop 7)
            ∧ ∀ part' index', ¬(part' = part ∧ index' = index) → partBytes t' part' index' = partBytes t part' index')
    ∧ (∀ (part : TariffPart) (index : Nat),
        entryLength part index =
          (match part with
            | .header => if index = 0 then 16 else 4
            | .ladder0 => 5
            | .ladder1 => 5
            | .ladder2 => 5
            | .ladder3 => 5
            | .dayParts => 6
            | .classes => 2
            | .calendar => 3))
    ∧ ∀ (part : TariffPart) (index : Nat) (e : List Byte) (t : TariffSet),
        (writeEntry part index e t = none ↔
          (part = .header ∧ index = 0 ∧ bytesAt e 9 7 ≠ [4#8, 8#8, 12#8, 6#8, 16#8, 0#8, 0#8])
            ∨ (part = .dayParts ∧ 2 ≤ fieldAt e 5 1 ∧ fieldAt e 5 1 ≤ 15) ∨ (part = .classes ∧ 3 < fieldAt e 0 1)
            ∨ (part = .calendar ∧ 8 < fieldAt e 2 1))
          ∧ ∀ t', writeEntry part index e t = some t' →
              t'.key = t.key ∧ t'.effectiveFrom = t.effectiveFrom
                ∧ (¬(part = .header ∧ index = 0) → t'.reference = t.reference)
                ∧ (∀ j, ¬(part = .dayParts ∧ j = index) → t'.dayParts[j]? = t.dayParts[j]?)
                ∧ (∀ j, ¬(part = .classes ∧ j = index) → t'.classes[j]? = t.classes[j]?)
                ∧ (∀ j, ¬(part = .calendar ∧ j = index) → t'.calendar[j]? = t.calendar[j]?)
                ∧ t'.ladders.length = t.ladders.length
                ∧ ∀ k l l', t.ladders[k]? = some l → t'.ladders[k]? = some l' →
                    (¬(part = .header ∧ index = k + 1) →
                        l'.uniform = l.uniform ∧ l'.uMinutes = l.uMinutes ∧ l'.uPrice = l.uPrice)
                      ∧ ∀ j, ¬([TariffPart.ladder0, .ladder1, .ladder2, .ladder3][k]? = some part ∧ j = index) →
                          l'.bands[j]? = l.bands[j]?

/-- TARIFF_PUBLISH: a time above the range, then unset zone time, then a failing check with its part and entry, then a spent
generation is refused and nothing changes; else the draft becomes a set of the next generation with the own number as
publisher, in ACTIVE where its effective-from has come and in PENDING where not, and the units are told (R80, R81). An image
that an intake has completed is rejected where it is no valid set under its key, declined where zone time is unset or the slot
of its effective-from holds a key as high, else installed with its events (R67, R69, R70). The checks are those of Table 4.4 in
its order, the first one that fails naming its part and the entry: the uniform minutes of a ladder, the bands up to the last
one, the day-parts, the class ladders, the ladders that day-parts and then classes name, day-parts that overlap, and calendar
entries of one day (R66). The next generation is above every one held in a slot or advertised by a peer (R80); an outgoing
ACTIVE set is kept in RETIRED where its key is the pin, a PENDING set not higher than the key installed leaves, and
TARIFF_MISSING clears with ACTIVE occupied (R69, R72, R74). That a time above 4,294,967,295 is refused before all else (log
entry 21), that TARIFF_MISSING is cleared after the holdings notice of an install (log entry 56), and that an image is declined
where zone time is unset, which R69 says cannot arise (log entry 76), are the model's own choices, and which of several failing
entries the check names its reading where R66 leaves it (log entry 28). A request is taken in every power state (log entry
9). -/
def Obligations.TariffPublished : Prop :=
  (∀ (n : Nat) (d : Draft) (s : State), s.openTo gatewayOnly = true → s.tariff.draft = some d →
    (4294967295 < n → answers (.tariffPublish n) s 14 .badParameter .nothing s)
      ∧ (n ≤ 4294967295 →
          (s.clock.zone = none → answers (.tariffPublish n) s 14 .clockUnset .nothing s)
            ∧ (∀ z, s.zoneSec = some z →
                (∀ c p i, validate d.tset = some (c, p, i) →
                    answers (.tariffPublish n) s 14 .invalidTariff (.invalidTariff c (some (p, i))) s)
                  ∧ (validate d.tset = none →
                      (65535 ≤ highestTariffGen s →
                          answers (.tariffPublish n) s 14 .invalidTariff (.invalidTariff .generation none) s)
                        ∧ (highestTariffGen s < 65535 →
                            (n ≤ z →
                                answers (.tariffPublish n) s 14 .ok
                                  (.published ⟨highestTariffGen s + 1, s.own⟩ .active)
                                  (clearMissing (holdingsNotice
                                    { s with tariff := { s.tariff with
                                      active := some (publishedSet n d s)
                                      retired := if keepsOld s.tariff then s.tariff.active else s.tariff.retired
                                      pending := pendingAbove (publishedSet n d s).key s.tariff.pending
                                      draft := some { d with tset := publishedSet n d s } } })))
                              ∧ (z < n →
                                  answers (.tariffPublish n) s 14 .ok
                                    (.published ⟨highestTariffGen s + 1, s.own⟩ .pending)
                                    (clearMissing (holdingsNotice
                                      { s with tariff := { s.tariff with
                                        pending := some (publishedSet n d s)
                                        draft := some { d with tset := publishedSet n d s } } }))))))))
    ∧ (∀ (key : Key) (bytes : List Byte) (supplier : Nat) (s : State),
        (tariffOf bytes = none
            ∨ (∃ t, tariffOf bytes = some t ∧ (t.key ≠ some key ∨ (validate t).isSome = true)) →
            tariffImageIn key bytes supplier s = (s, .invalid))
          ∧ ∀ t, tariffOf bytes = some t → t.key = some key → validate t = none →
              (s.clock.zone = none → tariffImageIn key bytes supplier s = (s, .declined))
                ∧ ∀ z, s.zoneSec = some z →
                    (t.effectiveFrom ≤ z →
                        (Key.higherOpt key (slotKey s.tariff.active) = false →
                            tariffImageIn key bytes supplier s = (s, .declined))
                          ∧ (Key.higherOpt key (slotKey s.tariff.active) = true →
                              tariffImageIn key bytes supplier s =
                                (clearMissing (holdingsNotice
                                  (postEvent
                                    (.tariffChanged (some key) t.reference (slotKey s.tariff.active) false
                                      (keepsOld s.tariff))
                                    (postEvent
                                      (.tariffReceived (some key) .active t.effectiveFrom t.reference supplier)
                                      { s with tariff := { s.tariff with
                                        active := some t
                                        retired := if keepsOld s.tariff then s.tariff.active else s.tariff.retired
                                        pending := pendingAbove (some key) s.tariff.pending } }))), .installed)))
                      ∧ (z < t.effectiveFrom →
                          (Key.higherOpt key (slotKey s.tariff.active) = false
                              ∨ Key.higherOpt key (slotKey s.tariff.pending) = false →
                              tariffImageIn key bytes supplier s = (s, .declined))
                            ∧ (Key.higherOpt key (slotKey s.tariff.active) = true →
                                Key.higherOpt key (slotKey s.tariff.pending) = true →
                                  tariffImageIn key bytes supplier s =
                                    (clearMissing (holdingsNotice
                                      (postEvent
                                        (.tariffReceived (some key) .pending t.effectiveFrom t.reference supplier)
                                        { s with tariff := { s.tariff with pending := some t } })), .installed))))
    ∧ (∀ (t : TariffSet) (i : Nat),
        (∀ l, t.ladders[i]? = some l → headerBad l = true →
            (∀ j m, j < i → t.ladders[j]? = some m → headerBad m = false) →
              validate t = some (.ladderHeader, .header, i + 1))
          ∧ ((∀ l ∈ t.ladders, headerBad l = false) →
              (∀ l r b, t.ladders[i]? = some l → ladderBlank l = false → r ≤ lastBand l → l.bands[r]? = some b →
                  bandBad l.uniform b = true → (∀ q c, q < r → l.bands[q]? = some c → bandBad l.uniform c = false) →
                    (∀ j m, j < i → t.ladders[j]? = some m → ladderBandBad m = none) →
                      validate t = some (.bandRange, ladderPart i, r))
                ∧ ((∀ l ∈ t.ladders, ladderBandBad l = none) →
                    (∀ p, t.dayParts[i]? = some p → dayPartBad p = true →
                        (∀ j q, j < i → t.dayParts[j]? = some q → dayPartBad q = false) →
                          validate t = some (.daypartRange, .dayParts, i))
                      ∧ ((∀ p ∈ t.dayParts, dayPartBad p = false) →
                          (∀ c, t.classes[i]? = some c → classBad c = true →
                              (∀ j q, j < i → t.classes[j]? = some q → classBad q = false) →
                                validate t = some (.classLadder, .classes, i))
                            ∧ ((∀ c ∈ t.classes, classBad c = false) →
                                (∀ p, t.dayParts[i]? = some p → partRefBad t p = true →
                                    (∀ j q, j < i → t.dayParts[j]? = some q → partRefBad t q = false) →
                                      validate t = some (.ladderReference, .dayParts, i))
                                  ∧ ((∀ p ∈ t.dayParts, partRefBad t p = false) →
                                      (∀ c, t.classes[i]? = some c → classRefBad t c = true →
                                          (∀ j q, j < i → t.classes[j]? = some q → classRefBad t q = false) →
                                            validate t = some (.ladderReference, .classes, i))
                                        ∧ ((∀ c ∈ t.classes, classRefBad t c = false) →
                                            (∀ p, t.dayParts[i]? = some p →
                                                (∃ j q, j < i ∧ t.dayParts[j]? = some q ∧ overlap q p = true) →
                                                  (t.dayParts.take i).Pairwise (fun x y => overlap x y = false) →
                                                    validate t = some (.daypartOverlap, .dayParts, i))
                                              ∧ (t.dayParts.Pairwise (fun x y => overlap x y = false) →
                                                  (∀ c, t.calendar[i]? = some c →
                                                      (∃ j q, j < i ∧ t.calendar[j]? = some q ∧ sameDate q c = true) →
                                                        (t.calendar.take i).Pairwise (fun x y => sameDate x y = false) →
                                                          validate t = some (.calendarDate, .calendar, i))
                                                    ∧ (t.calendar.Pairwise (fun x y => sameDate x y = false) →
                                                        validate t = none)))))))))
    ∧ (∀ (l : Ladder) (uniform : Bool) (b : Band),
        (headerBad l = true ↔ ladderBlank l = false ∧ l.uniform = true ∧ (l.uMinutes < 1 ∨ 240 < l.uMinutes))
          ∧ (ladderBandBad l = none ↔ ladderBlank l = false →
              ∀ r c, r ≤ lastBand l → l.bands[r]? = some c → bandBad l.uniform c = false)
          ∧ (bandBad uniform b = true ↔
              b.steps < 1 ∨ 255 < b.steps ∨ (uniform = false ∧ (b.minutes < 1 ∨ 240 < b.minutes))))
    ∧ (∀ (t : TariffSet) (p q : DayPart),
        (dayPartBad p = true ↔
            p.mask ≠ 0#8
              ∧ (1439 < p.start ∨ p.stop < 1 ∨ 1440 < p.stop ∨ p.stop ≤ p.start ∨ ∃ k, p.treat = .charged k ∧ 3 < k))
          ∧ (partRefBad t p = true ↔
              p.mask ≠ 0#8 ∧ ∃ k, p.treat = .charged k ∧ ladderBlank (ladderAt t k) = true)
          ∧ (overlap p q = true ↔
              p.mask ≠ 0#8 ∧ q.mask ≠ 0#8 ∧ p.mask &&& q.mask ≠ 0#8 ∧ p.start < q.stop ∧ q.start < p.stop))
    ∧ (∀ (t : TariffSet) (c : ClassEntry) (a b : CalEntry),
        (classBad c = true ↔ (c.kind = .ladder ∨ c.kind = .allowance) ∧ 3 < c.k)
          ∧ (classRefBad t c = true ↔
              (c.kind = .ladder ∨ c.kind = .allowance) ∧ ladderBlank (ladderAt t c.k) = true)
          ∧ (sameDate a b = true ↔ a.kind.isSome = true ∧ b.kind.isSome = true ∧ a.day = b.day))
    ∧ (∀ (k : Key) (t : Tariff) (p : Option TariffSet) (s : State),
        (keepsOld t = true ↔ ∃ a, slotKey t.active = some a ∧ t.pin = some a)
          ∧ pendingAbove (some k) none = none
          ∧ (∀ q, slotKey p = some q → Key.higher q k = true → pendingAbove (some k) p = p)
          ∧ (∀ q, slotKey p = some q → Key.higher q k = false → pendingAbove (some k) p = none)
          ∧ (s.tariff.active = none → clearMissing s = s)
          ∧ (s.tariff.active.isSome = true → clearMissing s = clearFault .tariffMissing 0 s))
    ∧ ∀ (n : Nat) (s : State), highestTariffGen s ≤ n ↔
        (∀ k, slotKey s.tariff.active = some k ∨ slotKey s.tariff.pending = some k
              ∨ slotKey s.tariff.retired = some k → k.gen ≤ n)
          ∧ ∀ p ∈ s.link.peers, ∀ k, p.active = some k ∨ p.pending = some k → k.gen ≤ n

/-! ### Charging and the open sale -/

/-- QUOTE: a mode, a value or a class out of range, or an ALLOWANCE class asked for by amount, is refused; then unset zone
time, then an empty ACTIVE slot, which may raise TARIFF_MISSING again; else the outcome of the walk is the answer. But for that
raise nothing changes (R74, R91). The mode, the amount to 65,535 or the minutes from 1 to 10,080 and the class must be ones
that R91 names; the treatment is the entry of the class table for the class, or none (R65, R91). The walk starts in the minute
of its zone time: a NO_STAY start is NO_STAY_NOW; else it sees the minutes up to the first NO_STAY one, a clearway stop, or up
to the horizon, and with no CHARGED one among them there is NOTHING_TO_SELL (R82, R83). A minute's day kind is that of the used
calendar entry of its day, else its weekday; its treatment is that of the day-part whose mask holds the day kind and whose
minutes hold it, else FREE (R63, R64). It goes by the ladder that the first CHARGED minute names, or the class's (R84).
BY_AMOUNT sells the most sellable steps whose price is not above the amount, with the excess, the next step where one more step
is sellable, the expiry and horizon flag of their minutes and no covers flag (R86, R87); BY_DURATION sells the fewest sellable
steps that buy the minutes asked for, or the most sellable ones, without the covers flag (R88); EXEMPT runs to the end of the
CHARGED minutes that follow one another (R89); ALLOWANCE grants the least of the minutes asked for, those remaining, the
CHARGED ones and the cap minutes (R90). Times beyond their field are free values (log entry 17), and that a quote of an EXEMPT
class carries no covers flag is the model's choice (log entry 35). A request is taken in every power state (log entry 9). -/
def Obligations.QuoteAnswered : Prop :=
  (∀ (mode : Option QuoteMode) (v : Nat) (cls : ClassParam) (s : State), s.openTo anyRole = true →
    (quoteParamsOk mode v cls = false ∨ allowanceByAmount s.tariff.active mode cls = true →
        answers (.quote mode v cls) s 15 .badParameter .nothing s)
      ∧ (quoteParamsOk mode v cls = true → allowanceByAmount s.tariff.active mode cls = false →
          (s.clock.zone = none → answers (.quote mode v cls) s 15 .clockUnset .nothing s)
            ∧ (s.clock.zone.isSome = true → s.tariff.active = none →
                answers (.quote mode v cls) s 15 .noTariff .nothing (reraiseMissing s))
            ∧ (∀ z t c, s.zoneSec = some z → s.tariff.active = some t → c = paramTreat t cls → ∀ ask,
                ((isAllowance c = true → ask = .allowance v 1440)
                    ∧ (isAllowance c = false → (mode = some .byDuration → ask = .duration v)
                        ∧ (mode = some .byAmount → ask = .amount v))) →
                  (∀ r, walk t z c ask = .sold r → answers (.quote mode v cls) s 15 .ok (.quote r) s)
                    ∧ ∀ o, walk t z c ask = o → (∀ r, o ≠ .sold r) →
                        answers (.quote mode v cls) s 15 (outcomeStatus o) .nothing s)))
    ∧ (∀ (t : TariffSet) (z : Nat) (treat : Option ClassEntry) (ask : Ask),
        (treatmentAt t (z / 60) = .noStay → walk t z treat ask = .noStayNow)
          ∧ (treatmentAt t (z / 60) ≠ .noStay → ∃ v : View,
              v.start = z / 60 ∧ v.minutes.length ≤ 10080
                ∧ (∀ i, i < v.minutes.length →
                    v.minutes[i]? = some (treatmentAt t (z / 60 + i)) ∧ treatmentAt t (z / 60 + i) ≠ .noStay)
                ∧ (v.minutes.length < 10080 → treatmentAt t (z / 60 + v.minutes.length) = .noStay)
                ∧ (v.clearway = true ↔ v.minutes.length < 10080)
                ∧ ((∀ (i j : Nat), v.minutes[i]? ≠ some (.charged j)) → walk t z treat ask = .nothingToSell)
                ∧ ∀ first k, v.minutes[first]? = some (.charged k) →
                    (∀ i, i < first → ∀ j, v.minutes[i]? ≠ some (.charged j)) →
                      (∀ l, ((treat = none ∨ ∃ c, treat = some c ∧ c.kind = .plain) ∧ l = k)
                            ∨ (∃ c, treat = some c ∧ c.kind = .ladder ∧ l = c.k) →
                          (∀ a, ask = .amount a → walk t z treat ask = walkAmount t v treat first l a)
                            ∧ ∀ r, ask = .duration r → walk t z treat ask = walkDuration t v treat first l r)
                        ∧ ∀ c, treat = some c →
                            (c.kind = .exempt → walk t z treat ask = walkExempt t v treat first k)
                              ∧ (c.kind = .allowance → ∀ r m, ask = .allowance r m →
                                  walk t z treat ask = walkAllowance t v treat first c.k r m)))
    ∧ (∀ (t : TariffSet) (v : View) (treat : Option ClassEntry) (first k r : Nat) (l : Ladder),
        validate t = none → k < t.ladders.length → l = ladderAt t k → l.bands.length = 8 → ladderBlank l = false →
          v.minutes.length ≤ horizonMinutes →
            (sellable v l 1 = false → walkDuration t v treat first k r = .nothingToSell)
              ∧ ∀ n covers, 1 ≤ n → sellable v l n = true →
                  (covers = true ∧ r ≤ minutesOf l n ∧ ∀ j, 1 ≤ j → j < n → minutesOf l j < r)
                      ∨ (covers = false ∧ sellable v l (n + 1) = false ∧ minutesOf l n < r) →
                    walkDuration t v treat first k r =
                      .sold
                        { key := t.key, treatment := treat, ladder := k, start := minuteTime v.start
                          paidFrom := minuteTime (v.start + first), steps := n, paidMinutes := minutesOf l n
                          price := priceOf l n, excess := 0, nextStep := none, expiry := (v.expiry (minutesOf l n)).1
                          covers := some covers, horizon := (v.expiry (minutesOf l n)).2 })
    ∧ (∀ (t : TariffSet) (v : View) (treat : Option ClassEntry) (first k a : Nat) (l : Ladder),
        validate t = none → k < t.ladders.length → l = ladderAt t k → l.bands.length = 8 → ladderBlank l = false →
          v.minutes.length ≤ horizonMinutes →
            ∀ n more, 1 ≤ n → sellable v l n = true → priceOf l n ≤ a →
              (sellable v l (n + 1) = true → a < priceOf l (n + 1) ∧ more = some (priceOf l (n + 1) - a)) →
                (sellable v l (n + 1) = false → more = none) →
                  walkAmount t v treat first k a =
                    .sold
                      { key := t.key, treatment := treat, ladder := k, start := minuteTime v.start
                        paidFrom := minuteTime (v.start + first), steps := n, paidMinutes := minutesOf l n
                        price := priceOf l n, excess := a - priceOf l n, nextStep := more
                        expiry := (v.expiry (minutesOf l n)).1, covers := none
                        horizon := (v.expiry (minutesOf l n)).2 })
    ∧ (∀ (t : TariffSet) (v : View) (treat : Option ClassEntry) (first k stop : Nat), first ≤ stop →
        stop ≤ v.minutes.length → (∀ i, first ≤ i → i < stop → ∃ j, v.minutes[i]? = some (.charged j)) →
          (∀ j, v.minutes[stop]? ≠ some (.charged j)) →
            walkExempt t v treat first k =
              .sold
                { key := t.key, treatment := treat, ladder := k, start := minuteTime v.start
                  paidFrom := minuteTime (v.start + first), steps := 0, paidMinutes := 0, price := 0, excess := 0
                  nextStep := none, expiry := minuteTime (v.start + stop), covers := none
                  horizon := !v.clearway && stop == 10080 })
    ∧ (∀ (t : TariffSet) (v : View) (treat : Option ClassEntry) (first k r m n : Nat),
        (m = 0 → walkAllowance t v treat first k r m = .allowanceExhausted)
          ∧ (0 < m →
              (capMinutes (ladderAt t k) = none → n = min r (min m v.charged)) →
              (∀ c, capMinutes (ladderAt t k) = some c → n = min (min r (min m v.charged)) c) →
                walkAllowance t v treat first k r m =
                  .sold
                    { key := t.key, treatment := treat, ladder := k, start := minuteTime v.start
                      paidFrom := minuteTime (v.start + first), steps := 0, paidMinutes := n, price := 0, excess := 0
                      nextStep := none, expiry := (v.expiry n).1, covers := some (n == r)
                      horizon := (v.expiry n).2 }))
    ∧ (∀ (mode : Option QuoteMode) (v : Nat) (cls : ClassParam) (active : Option TariffSet),
        (quoteParamsOk mode v cls = true ↔
            cls ≠ .undefinedClass
              ∧ ((mode = some .byAmount ∧ v ≤ 65535) ∨ (mode = some .byDuration ∧ 1 ≤ v ∧ v ≤ 10080)))
          ∧ (allowanceByAmount active mode cls = true ↔
              mode = some .byAmount ∧ ∃ t c, active = some t ∧ cls = .named c ∧ (classEntry t c).kind = .allowance)
          ∧ ∀ o, isAllowance o = true ↔ ∃ e, o = some e ∧ e.kind = .allowance)
    ∧ (∀ t : TariffSet,
        (∀ c, paramTreat t (.named c) = some (classEntry t c)) ∧ paramTreat t .absent = none
          ∧ (t.classes.length = 6 →
              [PermitClass.resident, .visitor, .business, .trade, .carClub, .staff].map (classEntry t) = t.classes))
    ∧ (∀ (t : TariffSet) (d m : Nat),
        treatmentAt t m = treatmentOf t (dayKind t (m / 1440)) (m % 1440)
          ∧ some (weekday d) = [DayKind.sat, .sun, .mon, .tue, .wed, .thu, .fri][d % 7]?
          ∧ ((∀ c ∈ t.calendar, c.day = d → c.kind = none) → dayKind t d = weekday d)
          ∧ ∀ before c after k, t.calendar = before ++ c :: after → (∀ x ∈ before, x.day = d → x.kind = none) →
              c.day = d → c.kind = some k → dayKind t d = k)
    ∧ (∀ (t : TariffSet) (k : DayKind) (m : Nat),
        ((∀ p ∈ t.dayParts, maskHas p.mask k = true → p.start ≤ m → p.stop ≤ m) → treatmentOf t k m = .free)
          ∧ ∀ before p after, t.dayParts = before ++ p :: after →
              (∀ x ∈ before, maskHas x.mask k = true → x.start ≤ m → x.stop ≤ m) →
                maskHas p.mask k = true → p.start ≤ m → m < p.stop → treatmentOf t k m = p.treat)
    ∧ (∀ mask : Byte,
        [DayKind.mon, .tue, .wed, .thu, .fri, .sat, .sun, .hol].map (maskHas mask) =
          (List.range 8).map mask.getLsbD)
    ∧ (outcomeStatus .noStayNow = .noStayNow ∧ outcomeStatus .nothingToSell = .nothingToSell
        ∧ outcomeStatus .notEnough = .notEnough ∧ outcomeStatus .allowanceExhausted = .allowanceExhausted
        ∧ outcomeStatus .allowanceUnavailable = .allowanceUnavailable)
    ∧ ∀ s : State,
        (s.faultStands .tariffMissing 0 = true ∨ s.isMachine = false ∨ s.tariff.active.isSome = true →
            reraiseMissing s = s)
          ∧ (s.faultStands .tariffMissing 0 = false → s.isMachine = true → s.tariff.active = none →
              reraiseMissing s = raiseFault .tariffMissing 0 s)

/-- SALE_OPEN: unset zone time, an open sale, an empty ACTIVE slot and an open door are refused in that order; else the ACTIVE
key is pinned, the sale-open mark set, and an empty sale stands with its first quote (R72, R93, R190). The quote of every sale
event is the walk under the pinned set, which is the ACTIVE one while its key is the pin and the RETIRED one otherwise: by the
payment, with the treatment of the permit applied; under ALLOWANCE NOTHING_TO_SELL without requested minutes, then
ALLOWANCE_UNAVAILABLE, then the grant against the allowance less the known usage of the day (R72, R94, R105). Without a pinned
set or with unset zone time, in which no sale is open, the model's quote is NOTHING_TO_SELL. With no sale open every other sale
command is answered NO_SALE and changes nothing (R92). A request is taken in every power state (log entry 9), so that a sale
can stand open outside AWAKE (the model's choice, log entry 89). -/
def Obligations.SaleOpened : Prop :=
  (∀ s : State, s.openTo machineOnly = true →
    (s.clock.zone = none → answers .saleOpen s 16 .clockUnset .nothing s)
      ∧ (s.clock.zone.isSome = true →
          (s.sales.sale.isSome = true → answers .saleOpen s 16 .saleOpen .nothing s)
            ∧ (s.sales.sale = none →
                (slotKey s.tariff.active = none → answers .saleOpen s 16 .noTariff .nothing (reraiseMissing s))
                  ∧ (∀ k, slotKey s.tariff.active = some k →
                      (s.doorOpen = true → answers .saleOpen s 16 .cashBlocked .nothing s)
                        ∧ (s.doorOpen = false →
                            ∃ q, q = requote { s with tariff := { s.tariff with pin := some k } }
                                  (newSale k s.clock.elapsed)
                              ∧ answers .saleOpen s 16 .ok (.sale k q)
                                  { s with
                                    tariff := { s.tariff with pin := some k }
                                    sales :=
                                      { openMark := true
                                        sale := some { newSale k s.clock.elapsed with quote := q } } })))))
    ∧ (∀ s : State, s.openTo machineOnly = true → s.sales.sale = none →
    (∀ n, answers (.saleCoin n) s 17 .noSale .nothing s) ∧ (∀ n, answers (.saleCard n) s 18 .noSale .nothing s)
      ∧ (∀ n, answers (.salePermit n) s 19 .noSale .nothing s)
      ∧ (∀ n, answers (.saleDuration n) s 20 .noSale .nothing s)
      ∧ answers .saleCommit s 21 .noSale .nothing s ∧ answers .saleCancel s 22 .noSale .nothing s)
    ∧ (∀ (k : Key) (now : Nat),
        newSale k now =
          { pin := k, escrow := List.replicate 8 0, coinTotal := 0, payment := 0, card := none, permit := none
            requested := none, quote := .nothingToSell, openedAt := now, lastEvent := now })
    ∧ (∀ s : State,
        (s.tariff.pin = slotKey s.tariff.active → s.pinnedSet = s.tariff.active)
          ∧ (s.tariff.pin ≠ slotKey s.tariff.active → s.pinnedSet = s.tariff.retired))
    ∧ ∀ (r : Sale) (s : State),
        (s.pinnedSet = none ∨ s.zoneSec = none → requote s r = .nothingToSell)
          ∧ ∀ t z, s.pinnedSet = some t → s.zoneSec = some z →
              (r.permit = none → requote s r = walk t z none (.amount r.payment))
                ∧ ∀ p, r.permit = some p →
                    (p.treat.kind ≠ .allowance → requote s r = walk t z (some p.treat) (.amount r.payment))
                      ∧ (p.treat.kind = .allowance →
                          (r.requested = none → requote s r = .nothingToSell)
                            ∧ ∀ m, r.requested = some m →
                                (s.unavailable.isSome = true → requote s r = .allowanceUnavailable)
                                  ∧ (s.unavailable = none → ∀ a, a = p.allowance.getD 0 →
                                      requote s r =
                                        walk t z (some p.treat)
                                          (.allowance m (a - s.knownUsage p.number (z / 86400) a))))

/-- SALE_COIN: an unknown index, an EXEMPT or ALLOWANCE permit, blocked cash, a full box (which raises BOX_FULL), then a full
escrow or payment are refused in that order and only the last-event time moves; else the coin is counted in escrow and payment
and the sale requoted, and the answer is the current quote. The tally is not touched (R94, R95, R127). Cash is blocked while
the DOOR group reads open, while the BOX group reads absent, and while the own TAMPER entry is RAISED or ACKNOWLEDGED (R95). A
request is taken in every power state (log entry 9). -/
def Obligations.SaleCoinTaken : Prop :=
  (∀ (i : Nat) (r : Sale) (s : State), s.openTo machineOnly = true → s.sales.sale = some r →
    (s.denoms[i]? = none → answers (.saleCoin i) s 17 .badParameter .nothing (touched r s))
      ∧ (∀ v, s.denoms[i]? = some v →
          (takesNoPayment r = true → answers (.saleCoin i) s 17 .coinsNotAllowed .nothing (touched r s))
            ∧ (takesNoPayment r = false →
                (s.cashBlocked = true → answers (.saleCoin i) s 17 .cashBlocked .nothing (touched r s))
                  ∧ (s.cashBlocked = false →
                      (s.capacity < s.cash.coinTotal + r.coinTotal + 1 →
                          answers (.saleCoin i) s 17 .boxFull .nothing
                            (raiseBoxFull (!s.faultStands .boxFull 0) (touched r s)))
                        ∧ (s.cash.coinTotal + r.coinTotal + 1 ≤ s.capacity →
                            (60 ≤ r.coinTotal ∨ 65535 < r.payment + v →
                                answers (.saleCoin i) s 17 .badParameter .nothing (touched r s))
                              ∧ (r.coinTotal < 60 → r.payment + v ≤ 65535 →
                                  ∃ r', r' = { r with
                                          escrow := r.escrow.modify i (· + 1), coinTotal := r.coinTotal + 1
                                          payment := r.payment + v }
                                    ∧ answers (.saleCoin i) s 17 .ok (.quoted (requote s r')) (saleGoesOn r' s)))))))
    ∧ (∀ s : State, s.cashBlocked = true ↔
        s.sense.groups[0]?.map (·.settled) = some .active ∨ s.sense.groups[1]?.map (·.settled) = some .active
          ∨ ∃ e, s.ownFault .tamper 0 = some e ∧ e.state ≠ .cleared)
    ∧ (∀ r : Sale, takesNoPayment r = true ↔
        ∃ p, r.permit = some p ∧ (p.treat.kind = .exempt ∨ p.treat.kind = .allowance))
    ∧ ∀ (k : FaultKind) (subject : Nat) (s : State),
        s.ownFault k subject =
            (s.faults.table.find? fun e => e.owner == s.own && e.kind == k && e.subject == subject)
          ∧ (s.faultStands k subject = true ↔ ∃ e, s.ownFault k subject = some e ∧ e.state ≠ .cleared)

/-- SALE_CARD: an amount out of range, an EXEMPT or ALLOWANCE permit (as SALE_COIN has it), a card already held, then a
payment above 65,535 are refused in that order; else the card amount is recorded, the payment total rises by it, and the
requote is made and answered. Cash blocking plays no part (R94, R96). That an amount above 65,535 is refused with the amount
0, at the first step, is the model's choice (log entry 21). A request is taken in every power state (log entry 9). -/
def Obligations.SaleCardTaken : Prop :=
  ∀ (n : Nat) (r : Sale) (s : State), s.openTo machineOnly = true → s.sales.sale = some r →
    (n = 0 ∨ 65535 < n → answers (.saleCard n) s 18 .badParameter .nothing (touched r s))
      ∧ (1 ≤ n → n ≤ 65535 →
          (takesNoPayment r = true → answers (.saleCard n) s 18 .coinsNotAllowed .nothing (touched r s))
            ∧ (takesNoPayment r = false →
                (r.card.isSome = true → answers (.saleCard n) s 18 .paymentPresent .nothing (touched r s))
                  ∧ (r.card = none →
                      (65535 < r.payment + n → answers (.saleCard n) s 18 .badParameter .nothing (touched r s))
                        ∧ (r.payment + n ≤ 65535 →
                            ∃ r', r' = { r with card := some n, payment := r.payment + n }
                              ∧ answers (.saleCard n) s 18 .ok (.quoted (requote s r')) (saleGoesOn r' s)))))

/-- SALE_PERMIT: a second permit or a number out of range is refused; a check that does not apply leaves the sale without a
permit and is reported with the requote; one that applies is refused against payment where its class is EXEMPT or ALLOWANCE,
and is recorded otherwise, with its number, its class, the treatment that the pinned set's class table gives the class, the
check result, and under ALLOWANCE its daily minutes, 0 where the record carries none (R65, R97, R106). The check is that of
Table 6.2, in its order (R111). Without a pinned set, in which no sale is open, the model's treatment is NONE. A request is
taken in every power state (log entry 9). -/
def Obligations.SalePermitTaken : Prop :=
  (∀ (n : Nat) (r : Sale) (s : State), s.openTo machineOnly = true → s.sales.sale = some r →
    (r.permit.isSome = true ∨ permitNumberOk n = false →
        answers (.salePermit n) s 19 .badParameter .nothing (touched r s))
      ∧ (r.permit = none → permitNumberOk n = true →
          ∀ c p, permitCheck s ((s.today).getD 0) n = (c, p) →
            (checkApplies c = false → answers (.salePermit n) s 19 .ok (.salePermit c (requote s r)) (saleGoesOn r s))
              ∧ (∀ q, p = some q → checkApplies c = true →
                  (((pinnedTreat s q.cls).kind = .exempt ∨ (pinnedTreat s q.cls).kind = .allowance) →
                      (0 < r.coinTotal ∨ r.card.isSome = true) →
                        answers (.salePermit n) s 19 .paymentPresent .nothing (touched r s))
                    ∧ (((pinnedTreat s q.cls).kind ≠ .exempt ∧ (pinnedTreat s q.cls).kind ≠ .allowance)
                          ∨ (r.coinTotal = 0 ∧ r.card = none) →
                        ∃ r', r' = { r with permit := some (appliedPermit q (pinnedTreat s q.cls) c) }
                          ∧ answers (.salePermit n) s 19 .ok (.salePermit c (requote s r')) (saleGoesOn r' s)))))
    ∧ (∀ (n d : Nat) (s : State),
        (permitNumberOk n = true ↔ 1 ≤ n ∧ n ≤ 999999)
          ∧ (findPermit n (s.sectionAt (n % 8)).records = none →
              permitCheck s d n = (if s.isBehind (n % 8) = true then .unverified else .notFound, none))
          ∧ ∀ p, findPermit n (s.sectionAt (n % 8)).records = some p →
              permitCheck s d n =
                (if p.status = .revoked then .revoked
                  else if p.status = .suspended then .suspended
                  else if d < p.validFrom then .notYetValid
                  else if p.validTo < d then .expired
                  else if s.zoneNo ∉ p.zones then .wrongZone
                  else if s.isBehind (n % 8) = true then .staleValid
                  else .valid, some p))
    ∧ (∀ c : CheckResult, checkApplies c = true ↔ c = .valid ∨ c = .staleValid)
    ∧ (∀ (c : PermitClass) (s : State),
        (∀ t, s.pinnedSet = some t → pinnedTreat s c = classEntry t c)
          ∧ (s.pinnedSet = none → pinnedTreat s c = { kind := .plain, k := 0 }))
    ∧ ∀ (p : PermitRec) (e : ClassEntry) (c : CheckResult),
        appliedPermit p e c =
          { number := p.number, cls := p.cls, treat := e, check := c
            allowance := if e.kind = .allowance then some (p.allowance.getD 0) else none }

/-- SALE_DURATION: refused without an ALLOWANCE permit or with minutes out of range; else the requested minutes are recorded
and the requote is made and answered (R94, R98). A request is taken in every power state (log entry 9). -/
def Obligations.SaleDurationTaken : Prop :=
  ∀ (n : Nat) (r : Sale) (s : State), s.openTo machineOnly = true → s.sales.sale = some r →
    (isAllowance (r.permit.map (·.treat)) = false ∨ n < 1 ∨ 1440 < n →
        answers (.saleDuration n) s 20 .badParameter .nothing (touched r s))
      ∧ (isAllowance (r.permit.map (·.treat)) = true → 1 ≤ n → n ≤ 1440 →
          answers (.saleDuration n) s 20 .ok (.quoted (requote s { r with requested := some n }))
            (saleGoesOn { r with requested := some n } s))

/-- SALE_COMMIT: after the requote, an outcome that sells nothing, blocked cash, an unavailable allowance, a spent allowance
and a full journal refuse in that order, and the sale stays open with its last-event time and its quote moved; only a full
journal adds its fault (R99, R132). Taken, it gives the ticket; the sale, its mark and the pin are gone, RETIRED is empty; the
journal holds the record under the next sequence and the segment, and escrow is in the tally, with BOX_FULL raised where it
comes to the capacity (R73, R100, R101, R127, R131, R190). The segment is the open one with one record more, or a new one with
the next number, which becomes the last segment number (R130, Table 7.2). Blocked for a commit is a REMOVED round, and coins
in escrow with the box absent; the usage is refused to an allowance permit with no entry for the day, where the table is full
or the day is lost (R99, R123). The record is PERMIT_USE under EXEMPT, ALLOWANCE_USE under ALLOWANCE and PAID else, stale by
the check result, and carries the granted minutes under ALLOWANCE (R100, R101). The journal is full where the record 2,048
back is protected, by the open segment or by a span, or where every sequence is given; the record placed replaces that one
alone, so that no protected record is ever overwritten (R128, R130 to R132). An allowance sale then raises the own
contribution for its permit and day by the granted minutes and the own usage counter by one, and places one USAGE frame with
both; of six contributions of others the highest-numbered makes room (R100, R120). A request is taken in every power state
(log entry 9). -/
def Obligations.SaleCommitted : Prop :=
  (∀ (r : Sale) (s : State), s.openTo machineOnly = true → s.sales.sale = some r →
    (requote s r = .noStayNow → answers .saleCommit s 21 .noStayNow .nothing (saleGoesOn r s))
      ∧ (requote s r = .nothingToSell → answers .saleCommit s 21 .nothingToSell .nothing (saleGoesOn r s))
      ∧ (requote s r = .notEnough → answers .saleCommit s 21 .notEnough .nothing (saleGoesOn r s))
      ∧ (requote s r = .allowanceUnavailable →
          (commitBlocked r s = true → answers .saleCommit s 21 .cashBlocked .nothing (saleGoesOn r s))
            ∧ (commitBlocked r s = false → answers .saleCommit s 21 .allowanceUnavailable .nothing (saleGoesOn r s)))
      ∧ (requote s r = .allowanceExhausted →
          (commitBlocked r s = true → answers .saleCommit s 21 .cashBlocked .nothing (saleGoesOn r s))
            ∧ (commitBlocked r s = false → usageRefused ((s.zoneSec).getD 0) r s = true →
                answers .saleCommit s 21 .allowanceUnavailable .nothing (saleGoesOn r s))
            ∧ (commitBlocked r s = false → usageRefused ((s.zoneSec).getD 0) r s = false →
                answers .saleCommit s 21 .allowanceExhausted .nothing (saleGoesOn r s)))
      ∧ (∀ q, requote s r = .sold q →
          (commitBlocked r s = true → answers .saleCommit s 21 .cashBlocked .nothing (saleGoesOn r s))
            ∧ (commitBlocked r s = false → usageRefused ((s.zoneSec).getD 0) r s = true →
                answers .saleCommit s 21 .allowanceUnavailable .nothing (saleGoesOn r s))
            ∧ (commitBlocked r s = false → usageRefused ((s.zoneSec).getD 0) r s = false → journalFull s.cash = true →
                answers .saleCommit s 21 .journalFull .nothing (raiseJournalFull (saleGoesOn r s)))))
    ∧ (∀ (r : Sale) (q : QuoteResult) (s : State), s.openTo machineOnly = true → s.sales.sale = some r →
    requote s r = .sold q → commitBlocked r s = false → usageRefused ((s.zoneSec).getD 0) r s = false →
      journalFull s.cash = false →
        ∃ t, answers .saleCommit s 21 .ok
              (.ticket
                { seq := s.cash.nextSeq, start := q.start, paidFrom := q.paidFrom, expiry := q.expiry, paid := q.price
                  excess := q.excess, permit := r.permit.map (·.number), key := r.pin, kind := saleKind r
                  stale := saleStale r, horizon := q.horizon, granted := grantedOf r q
                  covers := if saleKind r = .allowanceUse then q.covers else none }) t
          ∧ t.sales = { sale := none, openMark := false } ∧ t.tariff.pin = none ∧ t.tariff.retired = none
          ∧ t.tariff.active = s.tariff.active ∧ t.tariff.pending = s.tariff.pending
          ∧ t.cash =
              { s.cash with
                journal := placeRecord
                  { seq := s.cash.nextSeq, time := (s.zoneSec).getD 0, kind := saleKind r, key := r.pin
                    ladder := q.ladder, amount := q.price, coins := if 0 < r.coinTotal then some r.escrow else none
                    card := r.card, start := q.start, expiry := q.expiry, granted := grantedOf r q
                    permit := r.permit.map (·.number), stale := saleStale r
                    segment := (segmentAfter s.cash).number } s.cash.journal
                nextSeq := s.cash.nextSeq + 1, openSeg := some (segmentAfter s.cash)
                lastSeg := (segmentAfter s.cash).number
                values := if s.cash.openSeg.isSome then s.cash.values else some s.denoms
                counts := addCounts s.cash.counts r.escrow, coinTotal := s.cash.coinTotal + r.escrow.sum
                totalValue := s.cash.totalValue + coinValue s.denoms r.escrow }
          ∧ ∀ v, v = takeOffer (saleRecord ((s.zoneSec).getD 0) r q) r.escrow (saleGoesOn r s) →
              (saleKind r ≠ .allowanceUse → t = endSale v)
                ∧ ∀ p, r.permit = some p → saleKind r = .allowanceUse →
                    t = endSale (addOwnUsage p.number ((s.zoneSec).getD 0 / 86400) q.paidMinutes v))
    ∧ (∀ (j : JournalRec) (escrow : List Nat) (s : State),
        takeOffer j escrow s =
          raiseBoxFull
            (decide (s.cash.coinTotal < s.capacity) && decide (s.capacity ≤ s.cash.coinTotal + escrow.sum))
            { s with cash := writeCommit j escrow s.denoms s.cash })
    ∧ (∀ c : Cash,
        (∀ o, c.openSeg = some o → segmentAfter c = { o with count := o.count + 1 })
          ∧ (c.openSeg = none →
              segmentAfter c =
                { number := if c.lastSeg = 65535 then 1 else c.lastSeg + 1, firstSeq := c.nextSeq, count := 1 }))
    ∧ (∀ (z : Nat) (r : Sale) (s : State),
        (commitBlocked r s = true ↔
            s.rounds.ctx.state = .removed
              ∨ (0 < r.coinTotal ∧ s.sense.groups[1]?.map (·.settled) = some .active))
          ∧ (usageRefused z r s = true ↔
              ∃ p, r.permit = some p ∧ p.treat.kind = .allowance
                ∧ (∀ e ∈ s.permits.usage, e.permit = p.number → e.day ≠ z / 86400)
                ∧ (96 ≤ s.permits.usage.length ∨ s.permits.lostDay = some (z / 86400))))
    ∧ (∀ (r : Sale) (q : QuoteResult),
        (saleKind r = .permitUse ↔ ∃ p, r.permit = some p ∧ p.treat.kind = .exempt)
          ∧ (saleKind r = .allowanceUse ↔ ∃ p, r.permit = some p ∧ p.treat.kind = .allowance)
          ∧ (saleStale r = true ↔ ∃ p, r.permit = some p ∧ p.check = .staleValid)
          ∧ grantedOf r q = if saleKind r = .allowanceUse then some q.paidMinutes else none)
    ∧ (∀ (c : Cash) (seq : Nat),
        (isProtected c seq = true ↔
            (∃ o, c.openSeg = some o ∧ o.firstSeq ≤ seq ∧ seq < o.firstSeq + o.count)
              ∨ ∃ sp ∈ c.spans, sp.firstSeq ≤ seq ∧ seq ≤ sp.lastSeq)
          ∧ (journalFull c = true ↔
              c.nextSeq = 4294967296 ∨ (2048 < c.nextSeq ∧ isProtected c (c.nextSeq - 2048) = true)))
    ∧ (∀ (j : List JournalRec) (r x : JournalRec),
        (j.length < 2048 → placeRecord r j = j ++ [r])
          ∧ (j.length = 2047 → placeRecord r (x :: j) = j ++ [r]))
    ∧ (∀ (c : Cash) (r : JournalRec), JournalInv c.journal c.nextSeq →
        (∀ x ∈ c.journal, x ∈ placeRecord r c.journal ∨ x.seq + 2048 = c.nextSeq)
          ∧ (journalFull c = false → ∀ x ∈ c.journal, isProtected c x.seq = true → x ∈ placeRecord r c.journal))
    ∧ (∀ (a b v n : Nat) (as bs vs ns : List Nat),
        addCounts (a :: as) (b :: bs) = (a + b) :: addCounts as bs ∧ addCounts [] [] = []
          ∧ coinValue (v :: vs) (n :: ns) = v * n + coinValue vs ns ∧ coinValue [] ns = 0 ∧ coinValue vs [] = 0)
    ∧ (∀ (permit day minutes : Nat) (s : State),
        (day < s.permits.ownDay → addOwnUsage permit day minutes s = s)
          ∧ (s.permits.ownDay ≤ day → ∀ e e',
              e = (s.usageOf permit day).getD { permit := permit, day := day, contribs := [], saturated := false } →
                ((∀ m, contribOf s.own e = some m →
                      e' = { e with contribs := insertContrib s.own (m + minutes) e.contribs })
                    ∧ (contribOf s.own e = none → e.contribs.length < 6 →
                        e' = { e with contribs := insertContrib s.own minutes e.contribs })
                    ∧ (contribOf s.own e = none → 6 ≤ e.contribs.length →
                        e' =
                          { e with
                            contribs := insertContrib s.own minutes e.contribs.dropLast, saturated := true })) →
                  addOwnUsage permit day minutes s =
                    place .other 0
                      (.usage (.single day (s.permits.ownCtr + 1) permit ((contribOf s.own e').getD 0)))
                      { s with
                        link := { s.link with changedAt := some s.clock.elapsed }
                        permits := { s.permits with
                          usage := putUsage e' s.permits.usage, ownCtr := s.permits.ownCtr + 1 } }))
    ∧ ∀ (full : Bool) (s : State),
        (s.isMachine = true →
            raiseBoxFull true s = raiseFault .boxFull 0 s ∧ raiseJournalFull s = raiseFault .journalFull 0 s)
          ∧ (full = false ∨ s.isMachine = false → raiseBoxFull full s = s)
          ∧ (s.isMachine = false → raiseJournalFull s = s)

/-- SALE_CANCEL takes no parameters and ends the open sale without a journal record, in every condition in which one is open:
the response is OK with the escrow, its coin total, the card and the permit number; the pin is released and RETIRED emptied;
the tally, the journal and the usage table are not touched (R102). With RETIRED empty nothing else changes; with RETIRED
occupied the holdings notice of R73 follows. A request is taken in every power state (log entry 9). -/
def Obligations.SaleCancelled : Prop :=
  ∀ (r : Sale) (s : State), s.openTo machineOnly = true → s.sales.sale = some r →
    ∃ t, answers .saleCancel s 22 .ok (.cancelled r.escrow r.coinTotal r.card (r.permit.map (·.number))) t
      ∧ t.sales = { sale := none, openMark := false } ∧ t.tariff = { s.tariff with pin := none, retired := none }
      ∧ t.cash = s.cash ∧ t.permits = s.permits ∧ t.rounds = s.rounds ∧ t.faults = s.faults ∧ t.sense = s.sense
      ∧ t.power = s.power ∧ t.port = s.port ∧ t.clock = s.clock
      ∧ ∀ u, u =
            { s with
              tariff := { s.tariff with pin := none, retired := none }
              sales := { sale := none, openMark := false } } →
          (s.tariff.retired = none → t = u) ∧ (s.tariff.retired.isSome = true → t = holdingsNotice u)

/-- A sale is abandoned 120 s after its last event or 600 s after it was opened: SALE_ABANDONED is posted with the escrow,
card, permit number and pin, and the sale ends as by a cancel: the record and the mark are gone, the pin released and RETIRED
emptied, with the holdings notice where it was occupied (R73). Before that the two rows leave it (R103). That an undue row has
no effect is the model's choice (log entry 3). -/
def Obligations.SaleExpires : Prop :=
  (∀ (r : Sale) (s : State), s.port.resetHigh = true → s.sales.sale = some r →
    (r.lastEvent + 120000 ≤ s.clock.elapsed →
        acts .saleInactivityExpiry s
          (endSale (postEvent
            (.saleAbandoned .inactivity r.escrow r.coinTotal r.card (r.permit.map (·.number)) r.pin) s)))
      ∧ (s.clock.elapsed < r.lastEvent + 120000 → acts .saleInactivityExpiry s s)
      ∧ (r.openedAt + 600000 ≤ s.clock.elapsed →
          acts .saleLifetimeExpiry s
            (endSale (postEvent
              (.saleAbandoned .lifetime r.escrow r.coinTotal r.card (r.permit.map (·.number)) r.pin) s)))
      ∧ (s.clock.elapsed < r.openedAt + 600000 → acts .saleLifetimeExpiry s s))
    ∧ ∀ s u : State,
        u =
          { s with
            tariff := { s.tariff with pin := none, retired := none }
            sales := { sale := none, openMark := false } } →
          (s.tariff.retired = none → endSale s = u) ∧ (s.tariff.retired.isSome = true → endSale s = holdingsNotice u)

/-- In mode BY_AMOUNT on a ladder of a valid set the walk sells the largest sellable count of steps whose price is not above
the amount: with step 1 sellable and dearer than the amount the outcome is NOT_ENOUGH, and with step 1 not sellable
NOTHING_TO_SELL; else the count sold is sellable and costs no more than the amount, every sellable count that costs no more is
at most that, the price is that of the steps, the excess is what is left, and the next step is what must be added for one step
more, present only where that step is sellable, so that its price is not above 65,535 (R85, R87). -/
def Obligations.AmountBuysMost : Prop :=
  ∀ (t : TariffSet) (v : View) (treat : Option ClassEntry) (first k a : Nat) (l : Ladder),
    validate t = none → k < t.ladders.length → l = ladderAt t k → l.bands.length = 8 → ladderBlank l = false →
      v.minutes.length ≤ horizonMinutes →
        (sellable v l 1 = false → walkAmount t v treat first k a = .nothingToSell)
          ∧ (sellable v l 1 = true → a < priceOf l 1 → walkAmount t v treat first k a = .notEnough)
          ∧ (sellable v l 1 = true → priceOf l 1 ≤ a → ∃ r, walkAmount t v treat first k a = .sold r
              ∧ 1 ≤ r.steps ∧ sellable v l r.steps = true ∧ r.price = priceOf l r.steps ∧ r.price ≤ a
              ∧ r.excess = a - r.price ∧ r.paidMinutes = minutesOf l r.steps
              ∧ (∀ n, 1 ≤ n → sellable v l n = true → priceOf l n ≤ a → n ≤ r.steps)
              ∧ (sellable v l (r.steps + 1) = true → r.nextStep = some (priceOf l (r.steps + 1) - a))
              ∧ (sellable v l (r.steps + 1) = false → r.nextStep = none))
          ∧ ∀ n, 1 ≤ n → (sellable v l n = true ↔
              (∀ c, ladderLength l = some c → n ≤ c) ∧ priceOf l n ≤ 65535
                ∧ (v.clearway = true → minutesOf l n ≤ v.charged)
                ∧ (v.clearway = false → minutesOf l (n - 1) < v.charged))

/-- A step of a ladder adds its own price and minutes: what `s + 1` steps cost and buy is what `s` steps do and the price and
minutes of the band of step `s + 1`, or the uniform ones (R60, R61). A step falls in the first band before the last one whose
steps, with those of the bands before it, reach it, else in the last band, which is the first capped one or band 7; a capped
ladder ends with the steps of its last band, and its cap minutes are what they buy (R60, R62). Paid minutes are consumed one
per charged minute: the expiry of at least one and at most C paid minutes is the end of a charged minute up to which exactly
that many minutes are charged; more than C reach the horizon end (R86). A time beyond its field is a free value (log entry
17). -/
def Obligations.StepsAndExpiry : Prop :=
  (∀ (l : Ladder) (s : Nat), l.bands.length = 8 →
    priceOf l 0 = 0 ∧ minutesOf l 0 = 0
      ∧ priceOf l (s + 1) = priceOf l s + stepPrice l (bandAt l (stepBand l (s + 1)))
      ∧ minutesOf l (s + 1) = minutesOf l s + stepMinutes l (bandAt l (stepBand l (s + 1))))
    ∧ (∀ (l : Ladder) (j r : Nat),
        (r < lastBand l → j ≤ baseSteps l (r + 1) → (∀ i, i < r → baseSteps l (i + 1) < j) → stepBand l j = r)
          ∧ ((∀ i, i < lastBand l → baseSteps l (i + 1) < j) → stepBand l j = lastBand l))
    ∧ (∀ (l : Ladder) (r : Nat) (b : Band), l.bands[r]? = some b →
        bandAt l r = b
          ∧ baseSteps l 0 = 0 ∧ baseSteps l (r + 1) = baseSteps l r + b.steps
          ∧ baseTime l 0 = 0 ∧ baseTime l (r + 1) = baseTime l r + b.steps * stepMinutes l b
          ∧ basePrice l 0 = 0 ∧ basePrice l (r + 1) = basePrice l r + b.steps * stepPrice l b
          ∧ stepMinutes l b = (if l.uniform = true then l.uMinutes else b.minutes)
          ∧ stepPrice l b = (if l.uniform = true then l.uPrice else b.price)
          ∧ (r = 0 → (ladderBlank l = true ↔ b.steps = 0)))
    ∧ (∀ l : Ladder, l.bands.length = 8 →
        ((∀ b ∈ l.bands, b.cap = false) → lastBand l = 7 ∧ ladderLength l = none ∧ capMinutes l = none)
          ∧ ∀ before b after, l.bands = before ++ b :: after → b.cap = true → (∀ x ∈ before, x.cap = false) →
              lastBand l = before.length ∧ ladderLength l = some (baseSteps l (before.length + 1))
                ∧ capMinutes l = some (baseTime l (before.length + 1)))
    ∧ (∀ (v : View) (n : Nat), 1 ≤ n →
    (n ≤ v.charged →
        ∃ off, v.expiry n = (minuteTime (v.start + off), false) ∧ 1 ≤ off ∧ off ≤ v.minutes.length
          ∧ (v.minutes.take off).countP isCharged = n ∧ ∃ k, v.minutes[off - 1]? = some (.charged k))
      ∧ (v.charged < n → v.expiry n = (minuteTime (v.start + horizonMinutes), true)))
    ∧ ∀ (v : View) (x : Treatment) (m : Nat),
        v.charged = v.minutes.countP isCharged ∧ (isCharged x = true ↔ ∃ k, x = .charged k) ∧ horizonMinutes = 10080
          ∧ (m * 60 ≤ 4294967295 → minuteTime m = m * 60)

/-! ### Permits and accounts -/

/-- CHECK_PERMIT: a number out of range is refused, then unset zone time. A number that is not held is UNVERIFIED in a section
that is behind and NOT_FOUND in one that is not. A held one is judged in the order of Table 6.2: revoked, suspended, not yet
valid, expired, of another zone, stale, valid; its record is given as its 24 bytes (R193). With VALID and STALE_VALID comes
the treatment that the ACTIVE set gives its class, absent with ACTIVE empty, and under ALLOWANCE the daily minutes with the
known usage and the minutes remaining, both absent while allowance use is unavailable. Nothing changes (R111, R112). Allowance
use is unavailable where zone time is unset or the own usage counter counts for another day, then where the counter is spent,
then where the store is not settled (R123). The known usage of a permit and day is the sum of the contributions, the whole
allowance where the entry is saturated, and 0 where there is none (R119). That the first condition that fails is the one named
is the model's reading (log entry 51). A request is taken in every power state (log entry 9). -/
def Obligations.PermitChecked : Prop :=
  (∀ (n : Nat) (s : State), s.openTo anyRole = true →
    (n < 1 ∨ 999999 < n → answers (.checkPermit n) s 23 .badParameter .nothing s)
      ∧ (1 ≤ n → n ≤ 999999 →
          (s.clock.zone = none → answers (.checkPermit n) s 23 .clockUnset .nothing s)
            ∧ ∀ today, s.today = some today →
                (findPermit n (s.sectionAt (n % 8)).records = none →
                    (s.isBehind (n % 8) = true →
                        answers (.checkPermit n) s 23 .ok
                          (.permit .unverified (n % 8) (s.sectionKey (n % 8)) true none none none) s)
                      ∧ (s.isBehind (n % 8) = false →
                          answers (.checkPermit n) s 23 .ok
                            (.permit .notFound (n % 8) (s.sectionKey (n % 8)) false none none none) s))
                  ∧ ∀ r, findPermit n (s.sectionAt (n % 8)).records = some r →
                      ∃ c treat,
                        answers (.checkPermit n) s 23 .ok
                            (.permit c (n % 8) (s.sectionKey (n % 8)) (s.isBehind (n % 8)) (some (permitBytes r)) treat
                              (checkAllowance s today (some r) treat)) s
                          ∧ (r.status = .revoked → c = .revoked)
                          ∧ (r.status = .suspended → c = .suspended)
                          ∧ (r.status = .valid →
                              (today < r.validFrom → c = .notYetValid)
                                ∧ (r.validFrom ≤ today → r.validTo < today → c = .expired)
                                ∧ (r.validFrom ≤ today → today ≤ r.validTo →
                                    (s.zoneNo ∉ r.zones → c = .wrongZone)
                                      ∧ (s.zoneNo ∈ r.zones → s.isBehind (n % 8) = true → c = .staleValid)
                                      ∧ (s.zoneNo ∈ r.zones → s.isBehind (n % 8) = false → c = .valid)))
                          ∧ (c ≠ .valid → c ≠ .staleValid → treat = none)
                          ∧ (s.tariff.active = none → treat = none)
                          ∧ (∀ e, treat = some e → e.kind = .allowance → ∀ m, m = r.allowance.getD 0 →
                              checkAllowance s today (some r) treat =
                                some
                                  (m,
                                    if s.unavailable.isSome then none
                                    else some (s.knownUsage n today m, m - s.knownUsage n today m)))
                          ∧ ((∀ e, treat = some e → e.kind ≠ .allowance) → checkAllowance s today (some r) treat = none)
                          ∧ ∀ t, s.tariff.active = some t → c = .valid ∨ c = .staleValid →
                              treat = some (classEntry t r.cls)))
    ∧ (∀ s : State,
        (s.today ≠ some s.permits.ownDay → s.unavailable = some .clockOrDay)
          ∧ (s.today = some s.permits.ownDay →
              (65535 ≤ s.permits.ownCtr → s.unavailable = some .counterFull)
                ∧ (s.permits.ownCtr < 65535 →
                    (s.permits.settled = false → s.unavailable = some .unsettled)
                      ∧ (s.permits.settled = true → s.unavailable = none))))
    ∧ ∀ (n d a : Nat) (s : State),
        s.usageOf n d = (s.permits.usage.find? fun e => e.permit == n && e.day == d)
          ∧ (s.usageOf n d = none → s.knownUsage n d a = 0)
          ∧ ∀ e, s.usageOf n d = some e →
              (e.saturated = true → s.knownUsage n d a = a)
                ∧ (e.saturated = false → s.knownUsage n d a = (e.contribs.map (·.2)).sum)

/-- AMEND_PERMIT and CLOSE_SECTION: data that is not well formed or an index out of range is refused, then a section never
received, then a generation at its end, then a change that the section refuses; nothing changes. Else the section is written
with the change under the next generation, an AMENDMENT is placed and the units are told (R53, R113, R115). An ADD is refused
in a closed section, then for a number held, then in a section of 160 records; a REPLACE and a STATUS for a number not held,
then where they would take back a revocation, a REPLACE then in a closed section where it changes more than the status; a
second close is refused; else the record stands in its place in number order, changed whole or in its status, or the closed
flag is set (R113, R115). A change keeps the order of the records, adds none past 160 and leaves a revoked permit revoked. An
image that an intake has completed is rejected where it is no section under its index and key, declined where its key is not
higher, else installed with SECTION_UPDATED (R110); an AMENDMENT of the held key by its sender, one generation on, is applied
where it fits the section, and any other changes nothing (R54, R114). The section so changed is judged: it becomes behind with
the present reading or current, and PERMIT_STALE clears where that leaves none behind (R108, R109). A request is taken in
every power state (log entry 9). -/
def Obligations.SectionsAmended : Prop :=
  (∀ s : State, s.openTo gatewayOnly = true →
    (∀ op, amendChange op = none → answers (.amendPermit op) s 24 .badParameter .nothing s)
      ∧ (∀ i, 7 < i → answers (.closeSection i) s 25 .badParameter .nothing s)
      ∧ ∀ (cmd : Instr) (code i : Nat) (c : AmendChange),
          (∃ op, cmd = .amendPermit op ∧ code = 24 ∧ amendChange op = some c ∧ i = (changeNumber c).getD 0 % 8)
              ∨ (cmd = .closeSection i ∧ code = 25 ∧ i ≤ 7 ∧ c = .close) →
            (s.sectionKey i = none → answers cmd s code .notFound .nothing s)
              ∧ ∀ k, s.sectionKey i = some k →
                  (65535 ≤ k.gen → answers cmd s code .badParameter .nothing s)
                    ∧ (k.gen < 65535 →
                        (∀ st, applyChange (s.sectionAt i) c = .error st → answers cmd s code st .nothing s)
                          ∧ ∀ p, applyChange (s.sectionAt i) c = .ok p →
                              answers cmd s code .ok (.sectionKey ⟨k.gen + 1, s.own⟩ p.records.length)
                                (judgeList [i]
                                  (holdingsNotice
                                    (place .other 0 (.amendment i k ⟨k.gen + 1, s.own⟩ c)
                                      { s with permits := { s.permits with
                                        sections := s.permits.sections.set i
                                          { s.sectionAt i with
                                            key := some ⟨k.gen + 1, s.own⟩
                                            closed := p.closed, records := p.records } } })))))
    ∧ (∀ (p p' : PermitSection) (c : AmendChange), applyChange p c = .ok p' → ascending p.records = true →
        ascending p'.records = true ∧ (p.records.length ≤ 160 → p'.records.length ≤ 160)
          ∧ ∀ n r, findPermit n p.records = some r → r.status = .revoked →
              ∃ r', findPermit n p'.records = some r' ∧ r'.status = .revoked)
    ∧ (∀ (p : PermitSection) (r : PermitRec),
        (p.closed = true → applyChange p (.add r) = .error .sectionClosed)
          ∧ (p.closed = false →
              ((findPermit r.number p.records).isSome = true → applyChange p (.add r) = .error .badParameter)
                ∧ (findPermit r.number p.records = none →
                    (160 ≤ p.records.length → applyChange p (.add r) = .error .sectionFull)
                      ∧ (p.records.length < 160 →
                          applyChange p (.add r) = .ok { p with records := insertPermit r p.records })))
          ∧ (findPermit r.number p.records = none → applyChange p (.replace r) = .error .notFound)
          ∧ ∀ h, findPermit r.number p.records = some h →
              (h.status = .revoked → r.status ≠ .revoked → applyChange p (.replace r) = .error .revokedFinal)
                ∧ (h.status ≠ .revoked ∨ r.status = .revoked →
                    (p.closed = true → { r with status := h.status } ≠ h →
                        applyChange p (.replace r) = .error .sectionClosed)
                      ∧ (p.closed = false ∨ { r with status := h.status } = h →
                          applyChange p (.replace r) = .ok { p with records := insertPermit r p.records })))
    ∧ (∀ (p : PermitSection) (n : Nat) (st : PermitStatus),
        (findPermit n p.records = none → applyChange p (.status n st) = .error .notFound)
          ∧ (∀ h, findPermit n p.records = some h →
              (h.status = .revoked → st ≠ .revoked → applyChange p (.status n st) = .error .revokedFinal)
                ∧ (h.status ≠ .revoked ∨ st = .revoked →
                    applyChange p (.status n st) =
                      .ok { p with records := insertPermit { h with status := st } p.records }))
          ∧ (p.closed = true → applyChange p .close = .error .sectionClosed)
          ∧ (p.closed = false → applyChange p .close = .ok { p with closed := true }))
    ∧ (∀ (r : PermitRec) (rs : List PermitRec),
        findPermit r.number (insertPermit r rs) = some r
          ∧ (∀ n, n ≠ r.number → findPermit n (insertPermit r rs) = findPermit n rs)
          ∧ (findPermit r.number rs = none → (insertPermit r rs).length = rs.length + 1))
    ∧ (∀ (i : Nat) (key : Key) (bytes : List Byte) (supplier : Nat) (s : State),
        (sectionOf bytes = none ∨ (∃ r, sectionOf bytes = some r ∧ sectionImageOk i key r = false) →
            sectionImageIn i key bytes supplier s = (s, .invalid))
          ∧ ∀ c rs, sectionOf bytes = some (i, some key, c, rs) → sectionImageOk i key (i, some key, c, rs) = true →
              (Key.higherOpt key (s.sectionKey i) = false →
                  sectionImageIn i key bytes supplier s = (s, .declined))
                ∧ (Key.higherOpt key (s.sectionKey i) = true → i < s.permits.sections.length →
                    sectionImageIn i key bytes supplier s =
                      (judgeList [i] (holdingsNotice
                        (postEvent (.sectionUpdated i key (s.sectionKey i) false c rs.length supplier)
                          { s with permits := { s.permits with
                            sections := s.permits.sections.set i
                              { s.sectionAt i with key := some key, closed := c, records := rs } } })), .installed)))
    ∧ (∀ (n i : Nat) (old new : Key) (c : AmendChange) (s : State),
        (new.gen ≠ old.gen + 1 ∨ new.pub ≠ n ∨ s.sectionKey i ≠ some old ∨ changeFits i c = false
              ∨ (∃ st, applyChange (s.sectionAt i) c = .error st) →
            amendFromFrame n i old new c s = s)
          ∧ ∀ p, new.gen = old.gen + 1 → new.pub = n → s.sectionKey i = some old → changeFits i c = true →
              applyChange (s.sectionAt i) c = .ok p →
                amendFromFrame n i old new c s =
                  postSection i (some old) true n
                    (judgeList [i] (holdingsNotice
                      { s with permits := { s.permits with
                        sections := s.permits.sections.set i
                          { s.sectionAt i with key := some new, closed := p.closed, records := p.records } } })))
    ∧ (∀ (i : Nat) (s t : State), t = judgeSection s i →
        (s.isBehind i = true ↔
            s.sectionKey i = none
              ∨ ∃ k a p, s.sectionKey i = some k ∧ p ∈ s.link.peers ∧ peerSection i p = some a ∧ Key.higher a k = true)
          ∧ (s.isBehind i = true → (s.sectionAt i).behindSince = none →
              t =
                { s with permits := { s.permits with
                  sections := s.permits.sections.set i
                    { s.sectionAt i with behindSince := some s.clock.elapsed, staleRaised := false } } })
          ∧ (s.isBehind i = false → (s.sectionAt i).behindSince.isSome = true →
              t =
                { s with permits := { s.permits with
                  sections := s.permits.sections.set i
                    { s.sectionAt i with behindSince := none, staleRaised := false } } })
          ∧ (s.isBehind i = (s.sectionAt i).behindSince.isSome → t = s)
          ∧ (t.behindMap = s.behindMap → judgeList [i] s = t)
          ∧ (t.behindMap ≠ s.behindMap →
              ((∃ p ∈ t.permits.sections, p.behindSince.isSome = true) → judgeList [i] s = t)
                ∧ ((∀ p ∈ t.permits.sections, p.behindSince = none) →
                    judgeList [i] s = clearFault .permitStale 0 t)))
    ∧ (∀ (i : Nat) (key : Key) (h : Option Key) (j : Nat) (c : Bool) (rs : List PermitRec),
        (sectionImageOk i key (j, h, c, rs) = true ↔
            j = i ∧ h = some key ∧ rs.length ≤ 160 ∧ ascending rs = true
              ∧ ∀ r ∈ rs, permitWf r = true ∧ r.number % 8 = i)
          ∧ (ascending rs = true ↔ rs.Pairwise fun x y => x.number < y.number))
    ∧ (∀ (i n : Nat) (r : PermitRec) (st : PermitStatus),
        (changeFits i (.add r) = true ↔ permitWf r = true ∧ r.number % 8 = i)
          ∧ (changeFits i (.replace r) = true ↔ permitWf r = true ∧ r.number % 8 = i)
          ∧ (changeFits i (.status n st) = true ↔ n % 8 = i) ∧ changeFits i .close = true
          ∧ changeNumber (.add r) = some r.number ∧ changeNumber (.replace r) = some r.number
          ∧ changeNumber (.status n st) = some n ∧ changeNumber .close = none)
    ∧ (∀ (bs : List Byte) (n : Nat) (o : Option PermitStatus) (c : AmendChange),
        (amendChange (.add bs) = some c ↔ ∃ r, permitOf bs = some r ∧ permitWf r = true ∧ c = .add r)
          ∧ (amendChange (.replace bs) = some c ↔ ∃ r, permitOf bs = some r ∧ permitWf r = true ∧ c = .replace r)
          ∧ (amendChange (.status n o) = some c ↔ ∃ st, o = some st ∧ 1 ≤ n ∧ n ≤ 999999 ∧ c = .status n st)
          ∧ amendChange .undefinedOp = none)
    ∧ ∀ (i supplier : Nat) (previous : Option Key) (byAmendment : Bool) (k : Key) (s : State),
        s.sectionKey i = some k →
          postSection i previous byAmendment supplier s =
            postEvent
              (.sectionUpdated i k previous byAmendment (s.sectionAt i).closed (s.sectionAt i).records.length supplier)
              s

/-- A section load: BEGIN takes an index and empties the draft; RECORD appends a well-formed record of the section above the
last one, up to 160; END replaces the section whole under the generation above every one held or advertised, releases the
draft and tells the units. RECORD and END without a draft are refused, and so are a record that does not fit and a spent
generation; nothing changes then (R116, R117). A request is taken in every power state (log entry 9). A record is well formed
with its number in 1 to 999,999, one to three distinct zone numbers in 1 to 4,095, a vehicle reference of 1 to 8 capitals and
digits or, and for a VISITOR always, none, no valid-from day after the valid-to day, and an allowance of at most 1,440 minutes
(R106, Table 6.1). -/
def Obligations.SectionLoaded : Prop :=
  (∀ s : State, s.openTo gatewayOnly = true →
    (∀ i, 7 < i → answers (.sectionLoadBegin i) s 26 .badParameter .nothing s)
      ∧ (∀ i, i ≤ 7 →
          answers (.sectionLoadBegin i) s 26 .ok .nothing
            { s with permits := { s.permits with draft := some { index := i, records := [] } } })
      ∧ (s.permits.draft = none →
          (∀ bs, answers (.sectionLoadRecord bs) s 27 .notFound .nothing s)
            ∧ ∀ closed, answers (.sectionLoadEnd closed) s 28 .notFound .nothing s)
      ∧ ∀ d, s.permits.draft = some d →
          (∀ bs, permitOf bs = none → answers (.sectionLoadRecord bs) s 27 .badParameter .nothing s)
            ∧ (∀ bs r, permitOf bs = some r →
                (permitWf r = false ∨ r.number % 8 ≠ d.index ∨ r.number ≤ lastNumber d.records
                    ∨ 160 ≤ d.records.length →
                  answers (.sectionLoadRecord bs) s 27 .badParameter .nothing s)
                  ∧ (permitWf r = true → r.number % 8 = d.index → lastNumber d.records < r.number →
                      d.records.length < 160 →
                        answers (.sectionLoadRecord bs) s 27 .ok (.sectionCount (d.records.length + 1))
                          { s with permits := { s.permits with
                            draft := some { d with records := d.records ++ [r] } } }))
            ∧ ∀ closed,
                (65535 ≤ highestSectionGen s d.index →
                    answers (.sectionLoadEnd closed) s 28 .badParameter .nothing s)
                  ∧ (highestSectionGen s d.index < 65535 →
                      answers (.sectionLoadEnd closed) s 28 .ok
                        (.sectionKey ⟨highestSectionGen s d.index + 1, s.own⟩ d.records.length)
                        (judgeList [d.index]
                          (holdingsNotice
                            { s with permits := { s.permits with
                              draft := none
                              sections := s.permits.sections.set d.index
                                { s.sectionAt d.index with
                                  key := some ⟨highestSectionGen s d.index + 1, s.own⟩
                                  closed := closed, records := d.records } } }))))
    ∧ (∀ r : PermitRec, permitWf r = true ↔
        1 ≤ r.number ∧ r.number ≤ 999999 ∧ 1 ≤ r.zones.length ∧ r.zones.length ≤ 3
          ∧ (∀ z ∈ r.zones, 1 ≤ z ∧ z ≤ 4095) ∧ r.zones.Nodup
          ∧ (∀ v, r.vehicle = some v → 1 ≤ v.length ∧ v.length ≤ 8 ∧ r.cls ≠ .visitor
              ∧ ∀ b ∈ v, (65 ≤ b.toNat ∧ b.toNat ≤ 90) ∨ (48 ≤ b.toNat ∧ b.toNat ≤ 57))
          ∧ r.validFrom ≤ r.validTo ∧ r.validTo ≤ 65535 ∧ ∀ a, r.allowance = some a → a ≤ 1440)
    ∧ (∀ (r : PermitRec) (rs : List PermitRec), lastNumber [] = 0 ∧ lastNumber (rs ++ [r]) = r.number)
    ∧ ∀ (i n : Nat) (s : State), highestSectionGen s i ≤ n ↔
        (∀ k, s.sectionKey i = some k → k.gen ≤ n) ∧ ∀ p ∈ s.link.peers, ∀ k, peerSection i p = some k → k.gen ≤ n

/-- READ_SECTION, READ_USAGE, READ_TALLY and READ_JOURNAL: a parameter out of range is refused, READ_USAGE with unset zone time
too, and READ_JOURNAL where no such record is held, 0 asking for the newest; else the figures are given, a permit record as its
24 bytes. None changes anything (R118, R124, R136, R137, R193). The oldest held sequence is the greater of 1 and the next less
2,048; the protected records are those of the open segment and of the spans; the journal fill is their hundredths of 2,048, and
100 where the journal is full; the due figure is the greater of box fill and journal fill, and 0 at a COLLECTOR or an ENGINEER
(R127, R128, R132, R135). The advertised section key is the highest of the peer table (R118). A contribution stands in station
order, one for a station, in the one entry of its permit and day (R119). A USAGE frame stores each contribution of today or
later and 1 to 1,440 minutes, raised and never lowered, of six at most for a permit and day and 96 entries, and moves its
sender's position over a complete series or by one change, settlement being judged where the position moves and not else (R57,
R121, R123). How a complete usage series counts without a position, and that a complete series is no longer in reception (log
entries 26, 49), that a contribution of any permit number is stored (log entry 70), that a sequence above 4,294,967,295 is
refused as BAD_PARAMETER (log entry 21), that the advertising station given is the lowest-numbered (log entry 38), that only
the first failing condition of R123 is named (log entry 51), and that the known usage of a saturated entry without a held
record is a free value (log entry 39), are the model's reading or choice. A request is taken in every power state (log entry
9). -/
def Obligations.PermitAndAccountReads : Prop :=
  (∀ s : State, s.openTo anyRole = true →
    (∀ i n, 7 < i ∨ 999999 < n → answers (.readSection i n) s 29 .badParameter .nothing s)
      ∧ (∀ i n, i ≤ 7 → n ≤ 999999 →
          answers (.readSection i n) s 29 .ok
            (.sectionRead (s.sectionAt i).key (s.sectionAt i).closed (s.sectionAt i).records.length
              ((s.sectionAt i).behindSince.map fun t => (s.clock.elapsed - t) / 1000) (advertisedSection s i)
              (((s.sectionAt i).records.find? fun r => n ≤ r.number).map permitBytes)) s)
      ∧ (∀ n, n < 1 ∨ 999999 < n → answers (.readUsage n) s 30 .badParameter .nothing s)
      ∧ (∀ n, 1 ≤ n → n ≤ 999999 → s.clock.zone = none → answers (.readUsage n) s 30 .clockUnset .nothing s)
      ∧ (∀ n today, 1 ≤ n → n ≤ 999999 → s.today = some today →
          answers (.readUsage n) s 30 .ok
            (.usage s.unavailable s.permits.ownCtr s.permits.ownDay s.permits.usage.length
              ((s.usageOf n today).map fun e => (e, s.knownUsage n today (heldAllowance s n)))) s)
      ∧ answers .readTally s 31 .ok
          (.tally ((List.range 8).map fun i => (s.cash.counts[i]?.getD 0, s.denoms[i]?)) s.cash.coinTotal
            s.cash.totalValue s.cash.mixed s.capacity (min 100 (s.cash.coinTotal * 100 / s.capacity)) s.cash.nextSeq
            (oldestSeq s.cash) s.cash.openSeg s.cash.lastSeg s.cash.spans (protectedCount s.cash) (journalFill s.cash)
            (journalFull s.cash) s.dueFigure) s
      ∧ (∀ q, 4294967295 < q → answers (.readJournal q) s 32 .badParameter .nothing s)
      ∧ (∀ q, q ≤ 4294967295 →
          (s.cash.journal.find? (fun r => r.seq == (if q = 0 then s.cash.nextSeq - 1 else q)) = none →
              answers (.readJournal q) s 32 .notFound .nothing s)
            ∧ ∀ r, s.cash.journal.find? (fun r => r.seq == (if q = 0 then s.cash.nextSeq - 1 else q)) = some r →
                answers (.readJournal q) s 32 .ok (.journal r (isProtected s.cash r.seq)) s))
    ∧ (∀ c : Cash,
        (c.openSeg = none →
            protectedCount c = (c.spans.map fun sp => sp.lastSeq - sp.firstSeq + 1).sum)
          ∧ (∀ o, c.openSeg = some o →
              protectedCount c = o.count + (c.spans.map fun sp => sp.lastSeq - sp.firstSeq + 1).sum)
          ∧ (journalFull c = true ↔
              c.nextSeq = 4294967296
                ∨ (2048 < c.nextSeq
                    ∧ ((∃ o, c.openSeg = some o ∧ o.firstSeq ≤ c.nextSeq - 2048
                          ∧ c.nextSeq - 2048 < o.firstSeq + o.count)
                        ∨ ∃ sp ∈ c.spans, sp.firstSeq ≤ c.nextSeq - 2048 ∧ c.nextSeq - 2048 ≤ sp.lastSeq)))
          ∧ (journalFull c = true → journalFill c = 100)
          ∧ (journalFull c = false → journalFill c = protectedCount c * 100 / 2048)
          ∧ (c.nextSeq ≤ 1 → oldestSeq c = none)
          ∧ (1 < c.nextSeq → oldestSeq c = some (max 1 (c.nextSeq - 2048))))
    ∧ (∀ s : State,
        (s.isMachine = true →
            s.dueFigure = max (min 100 (s.cash.coinTotal * 100 / s.capacity)) (journalFill s.cash))
          ∧ (s.isMachine = false → s.dueFigure = 0))
    ∧ (∀ (i n : Nat) (s : State),
        ((∀ p ∈ s.link.peers, peerSection i p = none) → advertisedSection s i = none)
          ∧ (∀ before p after k, s.link.peers = before ++ p :: after → peerSection i p = some k →
              (∀ q ∈ s.link.peers, ∀ h, peerSection i q = some h → Key.higher h k = false) →
                (∀ q ∈ before, peerSection i q ≠ some k) → advertisedSection s i = some (k, p.station))
          ∧ ∀ r, findPermit n (s.sectionAt (n % 8)).records = some r → heldAllowance s n = r.allowance.getD 0)
    ∧ (∀ (n m k : Nat) (cs : List (Nat × Nat)) (e : UsageEntry) (t : List UsageEntry),
        contribOf n e = (e.contribs.find? fun x => x.1 == n).map (·.2)
          ∧ (insertContrib n m cs).find? (fun x => x.1 == n) = some (n, m)
          ∧ (k ≠ n → (insertContrib n m cs).find? (fun x => x.1 == k) = cs.find? fun x => x.1 == k)
          ∧ (cs.Pairwise (fun x y => x.1 < y.1) → (insertContrib n m cs).Pairwise fun x y => x.1 < y.1)
          ∧ ((∃ x ∈ t, x.permit = e.permit ∧ x.day = e.day) →
              putUsage e t = t.map fun x => if x.permit == e.permit && x.day == e.day then e else x)
          ∧ ((∀ x ∈ t, x.permit ≠ e.permit ∨ x.day ≠ e.day) → putUsage e t = t ++ [e]))
    ∧ (∀ (n : Nat) (s v : State),
        (∀ ser part es h, v = es.foldl (applyContrib n ser.start) s →
            h = usageAfterPart (v.usagePosOf n) ser part s.clock.elapsed →
              (h.pos ≠ (v.usagePosOf n).pos → takeUsage n (.series ser part es) s = judgeSettled (setUsagePos h v))
                ∧ (h.pos = (v.usagePosOf n).pos → takeUsage n (.series ser part es) s = setUsagePos h v))
          ∧ (∀ day counter permit minutes h, v = applyContrib n day s (permit, minutes) →
              h = usageAfterSingle (v.usagePosOf n) day counter →
                (h.pos ≠ (v.usagePosOf n).pos →
                    takeUsage n (.single day counter permit minutes) s = judgeSettled (setUsagePos h v))
                  ∧ (h.pos = (v.usagePosOf n).pos →
                      takeUsage n (.single day counter permit minutes) s = setUsagePos h v)))
    ∧ (∀ (n day permit minutes : Nat) (s : State),
        (s.today = none ∨ (∃ d, s.today = some d ∧ day < d) ∨ minutes < 1 ∨ 1440 < minutes →
            applyContrib n day s (permit, minutes) = s)
          ∧ ∀ d, s.today = some d → d ≤ day → 1 ≤ minutes → minutes ≤ 1440 →
              (∀ e, s.usageOf permit day = some e → ∀ e',
                  ((∀ m, contribOf n e = some m →
                        e' = { e with contribs := insertContrib n (max m minutes) e.contribs })
                      ∧ (contribOf n e = none → e.contribs.length < 6 →
                          e' = { e with contribs := insertContrib n minutes e.contribs })
                      ∧ (contribOf n e = none → 6 ≤ e.contribs.length → e' = { e with saturated := true })) →
                    applyContrib n day s (permit, minutes) =
                      { s with permits := { s.permits with usage := putUsage e' s.permits.usage } })
                ∧ (s.usageOf permit day = none →
                    (s.permits.usage.length < 96 →
                        applyContrib n day s (permit, minutes) =
                          { s with permits := { s.permits with
                            usage := s.permits.usage ++
                              [{ permit := permit, day := day, contribs := [(n, minutes)], saturated := false }] } })
                      ∧ (96 ≤ s.permits.usage.length →
                          applyContrib n day s (permit, minutes) =
                            { s with permits := { s.permits with lostDay := some day } })))
    ∧ (∀ (rx : Option SeriesRx) (ser : Series) (part now : Nat) (r : SeriesRx), r = joinSeries rx ser part now →
        ∀ h : UsagePos, h.series = rx →
              (seriesComplete r = false → usageAfterPart h ser part now = { h with series := some r })
                ∧ (seriesComplete r = true →
                    (h.pos = none → usageAfterPart h ser part now = { h with series := none })
                      ∧ ∀ d c, h.pos = some (d, c) →
                          (d < ser.start ∨ (d = ser.start ∧ c < ser.endPoint) →
                              usageAfterPart h ser part now =
                                { h with series := none, pos := some (ser.start, ser.endPoint) })
                            ∧ (ser.start < d ∨ (d = ser.start ∧ ser.endPoint ≤ c) →
                                usageAfterPart h ser part now = { h with series := none })))
    ∧ ∀ (day n : Nat) (h : UsagePos),
        (h.pos = none → usageAfterSingle h day n = if n = 1 then { h with pos := some (day, 1) } else h)
          ∧ ∀ d c, h.pos = some (d, c) →
              (d = day → usageAfterSingle h day n = if n = c + 1 then { h with pos := some (d, n) } else h)
                ∧ (d < day → usageAfterSingle h day n = if n = 1 then { h with pos := some (day, 1) } else h)
                ∧ (day < d → usageAfterSingle h day n = h)

/-! ### Rounds -/

/-- The collector's commands: ROUND_OPEN is refused with unset zone time, else closes a round that is open and begins the next
one with an empty sheet and places a ROUND_OPEN; ROUND_VISIT and ROUND_CLOSE without a round are refused, a visit to no station
or to the own one too; else a ROUND_VISIT is placed, and the round is closed with a ROUND_CLOSE placed (R139, R140). A frame
placed stands at the tail of the transmit queue; with 8 frames there, or in DORMANT, nothing changes (R31). A round is taken by
becoming OPEN under its number and collector, with ROUND_OPENED posted and every record of the log marked report due, unless it
is held already (R143). At an announce a machine follows its sender: the round of its own collector that shows another round or
none is closed (R144), and a collector's own open round is taken from IDLE, or from OPEN where the own collector's entry does
not show that round open (R143); the sender's due figure enters the zone due list, in its place by figure and station as
MarksGiven has it (R153). That a missing entry of the own collector does not show the round, and that an entry shows it by
number and state alone, are the model's reading or choice (log entries 77, 81). A request is taken in every power state (log
entry 9). -/
def Obligations.RoundsCommanded : Prop :=
  (∀ s : State, s.openTo collectorOnly = true →
    (s.clock.zone = none → answers .roundOpenCommand s 33 .clockUnset .nothing s)
      ∧ (∀ n t, s.clock.zone.isSome = true → n = (if s.rounds.counter = 65535 then 1 else s.rounds.counter + 1) →
          t = (if s.rounds.ctx.state = .opened then
                place .other 0 (.roundClose s.rounds.ctx.round)
                  { s with rounds := { s.rounds with
                    ctx := { s.rounds.ctx with state := .idle, visitRecord := none, visitStart := none } } }
              else s) →
            answers .roundOpenCommand s 33 .ok (.roundPlaced n t.canPlace)
              (place .other 0 (.roundOpen n)
                { t with rounds := { s.rounds with
                  counter := n, sheet := [], sheetRound := n, sheetOpened := s.zoneSec
                  ctx :=
                    { round := n, collector := some s.own, state := .opened, visitRecord := none
                      visitStart := none } } }))
      ∧ (s.rounds.ctx.state = .idle →
          (∀ n, answers (.roundVisitCommand n) s 34 .roundNone .nothing s)
            ∧ answers .roundCloseCommand s 35 .roundNone .nothing s)
      ∧ (s.rounds.ctx.state ≠ .idle →
          (∀ n, n < 1 ∨ 32 < n ∨ n = s.own → answers (.roundVisitCommand n) s 34 .badParameter .nothing s)
            ∧ (∀ n, 1 ≤ n → n ≤ 32 → n ≠ s.own →
                answers (.roundVisitCommand n) s 34 .ok (.placed s.canPlace)
                  (place .other n (.roundVisit s.rounds.ctx.round) s))
            ∧ answers .roundCloseCommand s 35 .ok (.roundPlaced s.rounds.ctx.round s.canPlace)
                (place .other 0 (.roundClose s.rounds.ctx.round)
                  { s with rounds := { s.rounds with
                    ctx := { s.rounds.ctx with state := .idle, visitRecord := none, visitStart := none } } })))
    ∧ (∀ (p : Placer) (dest : Nat) (body : FrameBody) (s : State),
        (s.link.tx.length < 8 → s.power.state ≠ .dormant →
            place p dest body s =
              { s with link := { s.link with
                tx := s.link.tx ++ [{ dest := dest, body := body, attempt := 0, placer := p }] } })
          ∧ (8 ≤ s.link.tx.length ∨ s.power.state = .dormant → place p dest body s = s))
    ∧ (∀ (n c : Nat) (s : State),
        (s.rounds.ctx.state ≠ .idle → s.rounds.ctx.round = n → s.rounds.ctx.collector = some c → takeRound n c s = s)
          ∧ (s.rounds.ctx.state = .idle ∨ s.rounds.ctx.round ≠ n ∨ s.rounds.ctx.collector ≠ some c →
              takeRound n c s =
                postEvent (.roundOpened n c)
                  { s with rounds := { s.rounds with
                    ctx := { round := n, collector := some c, state := .opened, visitRecord := none, visitStart := none }
                    log := s.rounds.log.map fun r => { r with due := true } } }))
    ∧ ∀ (n : Nat) (s : State),
        (s.peer n = none → roundAnnounceNotice n s = s)
          ∧ ∀ p u, s.peer n = some p →
              u = { s with rounds := { s.rounds with dueList := updateDue n p.due s.rounds.dueList } } →
                (s.isMachine = false → roundAnnounceNotice n s = u)
                  ∧ (s.isMachine = true → ∀ v,
                      (s.rounds.ctx.state ≠ .idle → s.rounds.ctx.collector = some n →
                          p.round ≠ s.rounds.ctx.round ∨ p.roundState = .idle →
                            v = { u with rounds := { u.rounds with ctx := RoundCtx.idle } }) →
                        (s.rounds.ctx.state = .idle ∨ s.rounds.ctx.collector ≠ some n
                            ∨ (p.round = s.rounds.ctx.round ∧ p.roundState ≠ .idle) → v = u) →
                          (p.role = .collector → p.roundState = .opened → p.collector = some n →
                              v.rounds.ctx.state = .idle
                                ∨ (v.rounds.ctx.state = .opened ∧ ∀ c q, v.rounds.ctx.collector = some c →
                                    s.peer c = some q → q.roundState ≠ .opened ∨ q.round ≠ v.rounds.ctx.round) →
                                roundAnnounceNotice n s = takeRound p.round n v)
                            ∧ (p.role ≠ .collector ∨ p.roundState ≠ .opened ∨ p.collector ≠ some n
                                ∨ (v.rounds.ctx.state ≠ .idle ∧ v.rounds.ctx.state ≠ .opened)
                                ∨ (v.rounds.ctx.state = .opened ∧ ∃ c q, v.rounds.ctx.collector = some c
                                    ∧ s.peer c = some q ∧ q.roundState = .opened ∧ q.round = v.rounds.ctx.round) →
                                roundAnnounceNotice n s = v))

/-- READ_SHEET is open to COLLECTOR stations and refused with ROLE_REFUSED at other roles; an index above 31 is refused with
BAD_PARAMETER; with or without zone time it changes no state and gives the sheet's round number, its opening zone time, whether
the round is still open, the entry count, and the entry at the index, absent beyond the count (R142). A COLLECTION_REPORT is
ignored while no round is open; else a new key is appended while the sheet holds under 32 entries, a held key is replaced where
its last segment lies later, in wrapping order from the first, and left where not; each is acknowledged, a new or replaced one
posted as REPORT_RECEIVED, and a full sheet posts SHEET_FULL alone (R141). That the round counts as open by the context's state
alone is the model's choice (log entry 82). A request is taken in every power state (log entry 9). -/
def Obligations.SheetRead : Prop :=
  (∀ (index : Nat) (s : State), s.takesRequest = true → s.setupDone = true →
    (s.isRole .collector = false → answers (.readSheet index) s 36 .roleRefused .nothing s)
      ∧ (s.isRole .collector = true →
          (31 < index → answers (.readSheet index) s 36 .badParameter .nothing s)
            ∧ (index ≤ 31 →
                ∃ e, answers (.readSheet index) s 36 .ok
                      (.sheet s.rounds.sheetRound s.rounds.sheetOpened (s.rounds.ctx.state != .idle)
                        s.rounds.sheet.length e) s
                  ∧ (s.rounds.sheet.length ≤ index → e = none)
                  ∧ ∀ h : index < s.rounds.sheet.length, e = some s.rounds.sheet[index])))
    ∧ (∀ first seg : Nat, segmentsAbove first seg = if first ≤ seg then seg - first else seg + 65535 - first)
    ∧ ∀ (n : Nat) (d : CollectionData) (s : State),
        (s.rounds.ctx.state = .idle → takeReport n d s = s)
          ∧ (s.rounds.ctx.state ≠ .idle →
              ((∀ x ∈ s.rounds.sheet, x.1 ≠ n ∨ x.2.firstSeg ≠ d.firstSeg) →
                  (s.rounds.sheet.length < 32 →
                      takeReport n d s =
                        place .other n (.collectionAck d.firstSeg d.lastSeg)
                          (postEvent (.reportReceived n d.firstSeg d.lastSeg d.totalValue d.attended false)
                            { s with rounds := { s.rounds with sheet := s.rounds.sheet ++ [(n, d)] } }))
                    ∧ (32 ≤ s.rounds.sheet.length →
                        takeReport n d s = postEvent (.sheetFull n d.firstSeg d.lastSeg) s))
                ∧ ∀ before held after, s.rounds.sheet = before ++ (n, held) :: after → held.firstSeg = d.firstSeg →
                    (∀ x ∈ before, x.1 ≠ n ∨ x.2.firstSeg ≠ d.firstSeg) →
                    (∀ x ∈ after, x.1 ≠ n ∨ x.2.firstSeg ≠ d.firstSeg) →
                      (segmentsAbove d.firstSeg held.lastSeg < segmentsAbove d.firstSeg d.lastSeg →
                          takeReport n d s =
                            place .other n (.collectionAck d.firstSeg d.lastSeg)
                              (postEvent (.reportReceived n d.firstSeg d.lastSeg d.totalValue d.attended true)
                                { s with rounds := { s.rounds with sheet := before ++ (n, d) :: after } }))
                        ∧ (segmentsAbove d.firstSeg d.lastSeg ≤ segmentsAbove d.firstSeg held.lastSeg →
                            takeReport n d s = place .other n (.collectionAck d.firstSeg d.lastSeg) s))

/-- READ_ROUND gives the context with the whole seconds left of the visit period, the log, the zone due list and, at a
COLLECTOR, the round counter; READ_FAULTS refuses a parameter out of range, else gives the first entry at or after the key, or
NOT_FOUND, with the counter and the numbers of entries. Neither changes anything (R154, R168). That READ_FAULTS gives its
figures with NOT_FOUND too is the model's choice (log entry 41). A FAULT_REPORT's entries are applied to the copies of its
sender, a higher change number over a lower, with the entry of R166 displaced from a full table or the copy lost, and the
sender's position moves over a complete series or by one change (R57, R165). That a complete series is no longer in reception,
and that the seconds left of a visit are rounded down, are the model's choice (log entries 49, 58). A request is taken in
every power state (log entry 9). -/
def Obligations.RoundAndFaultsRead : Prop :=
  (∀ s : State, s.openTo anyRole = true →
    answers .readRound s 37 .ok
        (.round { s.rounds.ctx with visitStart := none }
          (if s.rounds.ctx.state = .visited then
            s.rounds.ctx.visitStart.map fun t => (t + 600000 - s.clock.elapsed) / 1000
          else none)
          (s.rounds.log.map fun r => (r.data, r.due)) s.rounds.dueList
          (if s.isRole .collector = true then some s.rounds.counter else none)) s
      ∧ (∀ o k j, 32 < o ∨ 32 < j ∨ faultKindOf k = none → answers (.readFaults o k j) s 41 .badParameter .nothing s)
      ∧ ∀ o k j, o ≤ 32 → j ≤ 32 → (faultKindOf k).isSome = true →
          ∃ e, answers (.readFaults o k j) s 41 (if e.isSome = true then .ok else .notFound)
                (.faultRead e s.faults.counter s.faults.table.length (s.faults.table.countP (·.owner == s.own))) s
            ∧ (e = none → ∀ x ∈ s.faults.table, keyBefore x.owner (faultCode x.kind) x.subject o k j = true)
            ∧ ∀ x, e = some x → ∃ pre post, s.faults.table = pre ++ x :: post
                ∧ keyBefore x.owner (faultCode x.kind) x.subject o k j = false
                ∧ ∀ y ∈ pre, keyBefore y.owner (faultCode y.kind) y.subject o k j = true)
    ∧ (∀ (n : Nat) (s v : State),
        (∀ ser part es, v = es.foldl (fun t e => applyCopy n e t) s →
              takeFaultReport n (.series ser part es) s =
                setFaultPos (faultAfterPart (v.faultPosOf n) ser part s.clock.elapsed) v)
          ∧ ∀ counter e, v = applyCopy n e s →
              takeFaultReport n (.single counter e) s =
                setFaultPos (faultAfterSingle (v.faultPosOf n) counter) v)
    ∧ (∀ (n : Nat) (e : FaultEntry) (s : State),
        (e.owner ≠ n → applyCopy n e s = s)
          ∧ (e.owner = n →
              (∀ held, findFault e.owner e.kind e.subject s.faults.table = some held →
                  (e.change ≤ held.change → applyCopy n e s = s)
                    ∧ (held.change < e.change →
                        applyCopy n e s =
                          postFault e .copy (some e)
                            { s with faults := { s.faults with table := insertFault e s.faults.table } }))
                ∧ (findFault e.owner e.kind e.subject s.faults.table = none →
                    (s.faults.table.length < 64 →
                        applyCopy n e s =
                          postFault e .copy (some e)
                            { s with faults := { s.faults with table := insertFault e s.faults.table } })
                      ∧ (64 ≤ s.faults.table.length →
                          (evictee s.own false s.faults.table = none → applyCopy n e s = s)
                            ∧ ∀ x u, evictee s.own false s.faults.table = some x → u = evict x s →
                                applyCopy n e s =
                                  postFault e .copy (some e)
                                    { u with faults := { u.faults with
                                      table := insertFault e u.faults.table } }))))
    ∧ (∀ (rx : Option SeriesRx) (ser : Series) (part now : Nat) (r : SeriesRx), r = joinSeries rx ser part now →
        (∀ x, rx = some x → x.ser = ser → r = { x with got := insertNat part x.got, lastPart := now })
          ∧ ((∀ x, rx = some x → x.ser ≠ ser) → r = { ser := ser, got := [part], lastPart := now })
          ∧ (seriesComplete r = true ↔ ∀ i, i < r.ser.parts → i ∈ r.got)
          ∧ ∀ h : FaultPos, h.series = rx →
              (seriesComplete r = false → faultAfterPart h ser part now = { h with series := some r })
                ∧ (seriesComplete r = true →
                    faultAfterPart h ser part now =
                      { h with
                        series := none
                        pos := if h.pos < ser.endPoint ∧ ser.start ≤ h.pos + 1 then ser.endPoint else h.pos }))
    ∧ ∀ (n : Nat) (h : FaultPos), faultAfterSingle h n = if n = h.pos + 1 then { h with pos := n } else h

/-- The removal of the box in its own record write: the tally returns to zero, the open segment closes and becomes the last
one; with room in the log a span of its own and a record are added, and with four records there the newest span and the newest
record are extended: its counts, coin total and total value are summed, its round is that of the removal where both are
attended and 0 else, and it is due a report that waits for no mark (R133, R146); a sum beyond its field is a free value (log
entry 18). With no segment open, spans and log stay. Nothing else changes: not the context, the sheet or the round counter, and
no other unit. The box going absent while VISITED makes an attended removal, with the context REMOVED, its visit record that of
the record formed, and COLLECTION_TAKEN; in IDLE, OPEN and REPORTED an unattended one, with BOX_REMOVED_UNATTENDED, where the
door opening raises TAMPER, and neither changes the context; in REMOVED neither makes one (R147, R149). REMOVED is left with
the box present and the door closed, for REPORTED with the visit's record marked due, or for OPEN with no such record in the
log (R148); a visit that has run its 600 s expires when the door closes (R145). An acknowledgement that names a record's
segments removes it and its span, judges JOURNAL_FULL, posts COLLECTION_ACKED and turns REPORTED to OPEN for the visit's
record; any other changes nothing (R134, R151). That BOX_FULL is judged before COLLECTION_TAKEN is posted, and JOURNAL_FULL
before COLLECTION_ACKED, and that a merge lifts the hold of a report, are the model's reading and choice (log entries 52, 57,
62). -/
def Obligations.RemovalRecorded : Prop :=
  (∀ (attended : Bool) (s t : State), t = writeRemoval attended s →
    t.cash.counts = List.replicate 8 0 ∧ t.cash.coinTotal = 0 ∧ t.cash.totalValue = 0 ∧ t.cash.mixed = false
      ∧ t.cash.openSeg = none ∧ t.cash.journal = s.cash.journal ∧ t.cash.nextSeq = s.cash.nextSeq
      ∧ t.cash.values = s.cash.values ∧ t = { s with cash := t.cash, rounds := { s.rounds with log := t.rounds.log } }
      ∧ (s.cash.openSeg = none →
          t.cash.spans = s.cash.spans ∧ t.cash.lastSeg = s.cash.lastSeg ∧ t.rounds = s.rounds)
      ∧ ∀ o, s.cash.openSeg = some o →
          t.cash.lastSeg = o.number
            ∧ (s.rounds.log.length < 4 →
                (∃ sp : Span, t.cash.spans = s.cash.spans ++ [sp] ∧ sp.firstSeg = o.number ∧ sp.lastSeg = o.number
                    ∧ sp.firstSeq = o.firstSeq ∧ sp.lastSeq = s.cash.nextSeq - 1)
                  ∧ ∃ (r : LogRec) (d : CollectionData), t.rounds.log = s.rounds.log ++ [r] ∧ r.due = false
                      ∧ r.held = false ∧ r.data = d
                      ∧ d.firstSeg = o.number ∧ d.lastSeg = o.number
                      ∧ d.round = (if attended = true then s.rounds.ctx.round else 0) ∧ d.counts = s.cash.counts
                      ∧ d.coinTotal = s.cash.coinTotal ∧ d.totalValue = s.cash.totalValue ∧ d.firstSeq = o.firstSeq
                      ∧ d.lastSeq = s.cash.nextSeq - 1 ∧ d.removal = s.zoneSec ∧ d.attended = attended
                      ∧ d.mixed = s.cash.mixed)
            ∧ (4 ≤ s.rounds.log.length → ∀ before r spans sp, s.rounds.log = before ++ [r] →
                s.cash.spans = spans ++ [sp] →
                  t.cash.spans = spans ++ [{ sp with lastSeg := o.number, lastSeq := s.cash.nextSeq - 1 }]
                    ∧ ∃ (r' : LogRec) (d : CollectionData), t.rounds.log = before ++ [r'] ∧ r'.due = true
                        ∧ r'.held = false ∧ r'.data = d
                        ∧ d.firstSeg = r.data.firstSeg ∧ d.firstSeq = r.data.firstSeq ∧ d.lastSeg = o.number
                        ∧ d.lastSeq = s.cash.nextSeq - 1 ∧ d.attended = (r.data.attended && attended)
                        ∧ d.mixed = (r.data.mixed || s.cash.mixed) ∧ d.removal = s.zoneSec
                        ∧ d.round = (if r.data.attended = true ∧ attended = true then s.rounds.ctx.round else 0)
                        ∧ (∀ (j a b : Nat), r.data.counts[j]? = some a → s.cash.counts[j]? = some b → a + b < 4294967296 →
                            d.counts[j]? = some (a + b))
                        ∧ (r.data.coinTotal + s.cash.coinTotal < 4294967296 →
                            d.coinTotal = r.data.coinTotal + s.cash.coinTotal)
                        ∧ (r.data.totalValue + s.cash.totalValue < 281474976710656 →
                            d.totalValue = r.data.totalValue + s.cash.totalValue)))
    ∧ (∀ s t : State, t = writeRemoval true s → s.rounds.ctx.state = .visited → s.boxAbsent = true →
        boxChange s =
          postEvent
            (.collectionTaken true s.rounds.ctx.round
              (s.cash.openSeg.map fun o => (o.number, o.firstSeq, s.cash.nextSeq - 1)) s.cash.counts s.cash.coinTotal
              s.cash.totalValue (if s.rounds.log.length < 4 then .newSpan else .extend))
            (clearBoxFull
              { t with rounds := { t.rounds with
                ctx := { s.rounds.ctx with
                  state := .removed, visitStart := none
                  visitRecord :=
                    if s.cash.openSeg.isSome then (t.rounds.log.getLast?).map (·.data.firstSeg) else none } } }))
    ∧ (∀ s : State,
        (s.rounds.ctx.state = .visited → s.boxAbsent = false → boxChange s = s)
          ∧ (s.rounds.ctx.state = .removed → boxChange s = judgeRemoved s ∧ doorChange s = judgeRemoved s)
          ∧ (s.rounds.ctx.state ≠ .visited → s.rounds.ctx.state ≠ .removed →
              (s.boxAbsent = true →
                  boxChange s =
                    raiseFault .boxRemovedUnattended 0
                      (postEvent
                        (.collectionTaken false 0
                          (s.cash.openSeg.map fun o => (o.number, o.firstSeq, s.cash.nextSeq - 1)) s.cash.counts
                          s.cash.coinTotal s.cash.totalValue (if s.rounds.log.length < 4 then .newSpan else .extend))
                        (clearBoxFull (writeRemoval false s))))
                ∧ (s.boxAbsent = false → boxChange s = s)
                ∧ (boxChange s).rounds.ctx = s.rounds.ctx ∧ (doorChange s).rounds = s.rounds
                ∧ (s.doorOpen = true → doorChange s = raiseFault .tamper 0 s)
                ∧ (s.doorOpen = false → doorChange s = s))
          ∧ (s.rounds.ctx.state = .visited → ∀ t, s.rounds.ctx.visitStart = some t →
              (s.doorOpen = true ∨ s.clock.elapsed < t + 600000 → doorChange s = s)
                ∧ (s.doorOpen = false → t + 600000 ≤ s.clock.elapsed →
                    doorChange s =
                      postEvent (.visitExpired s.rounds.ctx.round)
                        { s with rounds := { s.rounds with
                          ctx := { s.rounds.ctx with state := .opened, visitStart := none } } })))
    ∧ (∀ s : State,
        (s.rounds.ctx.state ≠ .removed ∨ s.boxAbsent = true ∨ s.doorOpen = true → judgeRemoved s = s)
          ∧ (s.rounds.ctx.state = .removed → s.boxAbsent = false → s.doorOpen = false →
              (∀ seg, s.rounds.ctx.visitRecord = some seg → (∃ r ∈ s.rounds.log, r.data.firstSeg = seg) →
                  judgeRemoved s =
                    { s with rounds := { s.rounds with
                      ctx := { s.rounds.ctx with state := .reported }
                      log := s.rounds.log.map fun r => if seg == r.data.firstSeg then { r with due := true } else r } })
                ∧ (s.rounds.ctx.visitRecord = none
                      ∨ (∃ seg, s.rounds.ctx.visitRecord = some seg ∧ ∀ r ∈ s.rounds.log, r.data.firstSeg ≠ seg) →
                    judgeRemoved s =
                      { s with rounds := { s.rounds with
                        ctx := { s.rounds.ctx with state := .opened, visitRecord := none } } })))
    ∧ (∀ (sender first last : Nat) (s : State),
        ((∀ r ∈ s.rounds.log, r.data.firstSeg ≠ first ∨ r.data.lastSeg ≠ last) → takeAck sender first last s = s)
          ∧ ∀ before r after, s.rounds.log = before ++ r :: after → r.data.firstSeg = first → r.data.lastSeg = last →
              (∀ x ∈ before, x.data.firstSeg ≠ first ∨ x.data.lastSeg ≠ last) →
              (∀ x ∈ after, x.data.firstSeg ≠ first ∨ x.data.lastSeg ≠ last) →
                takeAck sender first last s =
                  postEvent (.collectionAcked first last r.data.totalValue sender)
                    (clearJournalFull
                      { s with
                        cash := { s.cash with
                          spans := s.cash.spans.filter fun sp => !(sp.firstSeg == first && sp.lastSeg == last) }
                        rounds := { s.rounds with
                          log := before ++ after
                          ctx :=
                            if s.rounds.ctx.state = .reported ∧ s.rounds.ctx.visitRecord = some first then
                              { s.rounds.ctx with state := .opened, visitRecord := none }
                            else s.rounds.ctx } }))
    ∧ ∀ s : State,
        (s.cash.coinTotal < s.capacity → clearBoxFull s = clearFault .boxFull 0 s)
          ∧ (s.capacity ≤ s.cash.coinTotal → clearBoxFull s = s)
          ∧ (journalFull s.cash = false → clearJournalFull s = clearFault .journalFull 0 s)
          ∧ (journalFull s.cash = true → clearJournalFull s = s)

/-! ### Faults -/

/-- RAISE_FAULT takes kinds 1 to 8: an entry that is absent or cleared becomes RAISED afresh with one occurrence, an entry
that stands gains an occurrence up to 255 and a last-raised time; a full table first loses the entry of R166 or refuses.
ACK_FAULT and CLEAR_FAULT judge their key, then the entry, and change an own entry that stands or send the word to its owner;
so do RESTART_STATION and PAGE_STATION to another station (R158 to R161, R166, R169, R170). An own change is stamped with the
raised counter, written, reported to the zone and posted, and counts as a change of the counter except at the counter's end,
where it stays (R17, R157); the units and the honoured frames raise, clear and acknowledge own entries by the same rules, a
raise that finds no room being lost (R158, R160 to R162). The entry displaced from a full table is the first of R166's four
steps that finds one: a CLEARED copy, an own CLEARED entry, an ACKNOWLEDGED copy, and for an own raise a RAISED copy, with the
oldest last-raised time, an absent one oldest, then by owner, kind and subject. FAULT_CHANGED is posted at GATEWAY and
ENGINEER stations for every change, at the others for own entries, with the figures after the change, none for a removal
(R167). The observer of a station is the station with no lower LIVE one beside the subject (R163); it raises STATION_SILENT at
a status notice of SILENT, STATION_DORMANT at an announce with the dormant flag where none stands, and the matching kind for
each peer it newly observes where none stands; an announce without the flag clears both own entries, STATION_SILENT before
STATION_DORMANT (R164). The role before the range of CLEAR_FAULT is the model's reading (log entry 40); a number or code above
its field refused as BAD_PARAMETER, the order of newly observed peers, and that of the two clears, are its choice (log entries
21, 59, 71). A request is taken in every power state (log entry 9). -/
def Obligations.FaultsCommanded : Prop :=
  (∀ (code : Nat) (s : State), s.openTo anyRole = true →
      (code = 0 ∨ 8 < code → answers (.raiseFault code) s 38 .badParameter .nothing s)
        ∧ ∀ k new, 1 ≤ code → code ≤ 8 → faultKindOf code = some k →
            new =
              { owner := s.own, kind := k, subject := 0, state := .raised, firstRaised := s.zoneSec
                lastRaised := s.zoneSec, occurrences := 1, change := nextChange s.faults.counter } →
              (∀ e, s.ownFault k 0 = some e →
                  (e.state = .cleared →
                      answers (.raiseFault code) s 38 .ok (.fault new) (changeOwn new .raise s))
                    ∧ (e.state ≠ .cleared → ∀ e',
                        e' =
                          { e with
                            occurrences := min (e.occurrences + 1) 255, lastRaised := s.zoneSec
                            change := nextChange s.faults.counter } →
                        answers (.raiseFault code) s 38 .ok (.fault e') (changeOwn e' .raise s)))
                ∧ (s.ownFault k 0 = none →
                    (s.faults.table.length < 64 →
                        answers (.raiseFault code) s 38 .ok (.fault new) (changeOwn new .raise s))
                      ∧ (64 ≤ s.faults.table.length →
                          (evictee s.own true s.faults.table = none →
                              answers (.raiseFault code) s 38 .tableFull .nothing s)
                            ∧ ∀ x, evictee s.own true s.faults.table = some x →
                                answers (.raiseFault code) s 38 .ok (.fault new)
                                  (changeOwn new .raise (evict x s)))))
    ∧ (∀ (owner code subject : Nat) (s : State),
        owner < 1 ∨ 32 < owner ∨ 32 < subject ∨ (code ≤ 16 ∧ subject ≠ 0) ∨ faultKindOf code = none →
          (s.openTo gatewayOnly = true → answers (.ackFault owner code subject) s 39 .badParameter .nothing s)
            ∧ (s.openTo (clearRole owner) = true →
                answers (.clearFault owner code subject) s 40 .badParameter .nothing s))
    ∧ (∀ (owner code subject : Nat) (k : FaultKind) (s : State),
        1 ≤ owner → owner ≤ 32 → subject ≤ 32 → 16 < code ∨ subject = 0 → faultKindOf code = some k →
          (s.openTo gatewayOnly = true →
              (findFault owner k subject s.faults.table = none →
                  answers (.ackFault owner code subject) s 39 .notFound .nothing s)
                ∧ ∀ e, findFault owner k subject s.faults.table = some e →
                    (owner ≠ s.own →
                        answers (.ackFault owner code subject) s 39 .ok (.placed s.canPlace)
                          (place .other owner (.faultAck k subject) s))
                      ∧ (owner = s.own → e.state ≠ .raised →
                          answers (.ackFault owner code subject) s 39 .ok (.fault e) s)
                      ∧ (owner = s.own → e.state = .raised → ∀ e',
                          e' = { e with state := .acknowledged, change := nextChange s.faults.counter } →
                            answers (.ackFault owner code subject) s 39 .ok (.fault e') (changeOwn e' .ack s)))
            ∧ (s.openTo (clearRole owner) = true →
                (owner ≠ s.own →
                    answers (.clearFault owner code subject) s 40 .ok (.placed s.canPlace)
                      (place .other owner (.faultClear k subject) s))
                  ∧ (owner = s.own → findFault owner k subject s.faults.table = none →
                      answers (.clearFault owner code subject) s 40 .notFound .nothing s)
                  ∧ ∀ e, owner = s.own → findFault owner k subject s.faults.table = some e →
                      (e.state = .cleared → answers (.clearFault owner code subject) s 40 .ok (.fault e) s)
                        ∧ (e.state ≠ .cleared → ∀ e',
                            e' = { e with state := .cleared, change := nextChange s.faults.counter } →
                              answers (.clearFault owner code subject) s 40 .ok (.fault e') (changeOwn e' .clear s))))
    ∧ (∀ (target n : Nat) (s : State),
        (s.openTo engineerOnly = true →
            (target < 1 ∨ 32 < target ∨ target = s.own ∨ 4294967295 < n →
                answers (.restartStation target n) s 42 .badParameter .nothing s)
              ∧ (1 ≤ target → target ≤ 32 → target ≠ s.own → n ≤ 4294967295 →
                  answers (.restartStation target n) s 42 .ok (.placed s.canPlace)
                    (place .other target (.restart n) s)))
          ∧ (s.openTo pagerRole = true →
              (target < 1 ∨ 32 < target ∨ target = s.own ∨ 65535 < n →
                  answers (.pageStation target n) s 43 .badParameter .nothing s)
                ∧ (1 ≤ target → target ≤ 32 → target ≠ s.own → n ≤ 65535 →
                    answers (.pageStation target n) s 43 .ok (.placed s.canPlace) (place .other target (.page n) s))))
    ∧ (∀ (e e' : FaultEntry) (cause : FaultCause) (s : State),
        e' = { e with change := min (s.faults.counter + 1) 4294967295 } →
          changeOwn e cause s =
            postFault e' cause (some e')
              (place .other 0 (.faultReport (.single e'.change e'))
                { s with
                  link :=
                    if e'.change = s.faults.counter then s.link
                    else { s.link with changedAt := some s.clock.elapsed }
                  faults := { s.faults with table := insertFault e' s.faults.table, counter := e'.change } }))
    ∧ (∀ (e x : FaultEntry) (cause : FaultCause) (after : Option FaultEntry) (s : State),
        (s.isRole .gateway = true ∨ s.isRole .engineer = true ∨ e.owner = s.own →
            postFault e cause after s =
              postEvent
                (.faultChanged e.owner e.kind e.subject cause
                  (after.map fun y =>
                    { state := y.state, occurrences := y.occurrences, lastRaised := y.lastRaised, change := y.change }))
                s)
          ∧ (s.isRole .gateway = false → s.isRole .engineer = false → e.owner ≠ s.own → postFault e cause after s = s)
          ∧ evict x s =
              postFault x .evict none
                { s with faults := { s.faults with table := s.faults.table.filter fun y => !sameFault x y } })
    ∧ (∀ (k : FaultKind) (j : Nat) (new : FaultEntry) (s : State),
        new =
          { owner := s.own, kind := k, subject := j, state := .raised, firstRaised := s.zoneSec
            lastRaised := s.zoneSec, occurrences := 1, change := nextChange s.faults.counter } →
          (s.ownFault k j = none →
              (s.faults.table.length < 64 → raiseFault k j s = changeOwn new .raise s)
                ∧ (64 ≤ s.faults.table.length →
                    (evictee s.own true s.faults.table = none → raiseFault k j s = s)
                      ∧ ∀ x, evictee s.own true s.faults.table = some x →
                          raiseFault k j s = changeOwn new .raise (evict x s))
                ∧ clearFault k j s = s ∧ ackFault k j s = s)
            ∧ ∀ e, s.ownFault k j = some e →
                (e.state = .cleared → raiseFault k j s = changeOwn new .raise s ∧ clearFault k j s = s)
                  ∧ (e.state ≠ .cleared →
                      raiseFault k j s =
                          changeOwn { e with occurrences := min (e.occurrences + 1) 255, lastRaised := s.zoneSec }
                            .raise s
                        ∧ clearFault k j s = changeOwn { e with state := .cleared } .clear s)
                  ∧ (e.state = .raised → ackFault k j s = changeOwn { e with state := .acknowledged } .ack s)
                  ∧ (e.state ≠ .raised → ackFault k j s = s))
    ∧ (∀ (own : Nat) (raise : Bool) (t : List FaultEntry) (step : Nat → FaultEntry → Prop),
        (∀ n e, step n e ↔
            (n = 1 ∧ e.owner ≠ own ∧ e.state = .cleared) ∨ (n = 2 ∧ e.owner = own ∧ e.state = .cleared)
              ∨ (n = 3 ∧ e.owner ≠ own ∧ e.state = .acknowledged)
              ∨ (n = 4 ∧ raise = true ∧ e.owner ≠ own ∧ e.state = .raised)) →
          (evictee own raise t = none ↔ ∀ n, ∀ e ∈ t, ¬step n e)
            ∧ ∀ x, evictee own raise t = some x → x ∈ t ∧ ∃ n, step n x
                ∧ (∀ m, ∀ e ∈ t, step m e → n ≤ m) ∧ ∀ e ∈ t, step n e → evictBefore e x = false)
    ∧ (∀ a b : FaultEntry,
        (a.lastRaised = none → b.lastRaised.isSome = true → evictBefore a b = true ∧ evictBefore b a = false)
          ∧ ∀ x y, a.lastRaised = some x → b.lastRaised = some y → x < y →
              evictBefore a b = true ∧ evictBefore b a = false)
    ∧ (∀ a b : FaultEntry, a.lastRaised = b.lastRaised →
        (evictBefore a b = true ↔
          a.owner < b.owner
            ∨ (a.owner = b.owner
                ∧ (faultCode a.kind < faultCode b.kind
                    ∨ (faultCode a.kind = faultCode b.kind ∧ a.subject < b.subject)))))
    ∧ (∀ (subject : Nat) (s : State),
        (s.observes subject = true ↔
            (∃ p ∈ s.link.peers, p.station = subject)
              ∧ ∀ p ∈ s.link.peers, p.station < s.own → p.station ≠ subject → p.status ≠ .live)
          ∧ (s.observes subject = true →
              faultStatusNotice subject .silent s = observeNewly (raiseFault .stationSilent subject s))
          ∧ (∀ st, st ≠ .silent ∨ s.observes subject = false → faultStatusNotice subject st s = observeNewly s)
          ∧ (s.observes subject = true → s.faultStands .stationDormant subject = false →
              faultAnnounceNotice subject true s = observeNewly (raiseFault .stationDormant subject s))
          ∧ (s.observes subject = false ∨ s.faultStands .stationDormant subject = true →
              faultAnnounceNotice subject true s = observeNewly s)
          ∧ faultAnnounceNotice subject false s =
              observeNewly (clearFault .stationDormant subject (clearFault .stationSilent subject s)))
    ∧ (∀ s u : State,
        u = (s.link.peers.filter fun p => s.observes p.station && !s.faults.observed.contains p.station).foldl
              (fun t p => raiseMatching p t) s →
          (observeNewly s).faults = { u.faults with observed := (observeNewly s).faults.observed }
            ∧ observeNewly s = { u with faults := (observeNewly s).faults }
            ∧ ∀ n, n ∈ (observeNewly s).faults.observed ↔ s.observes n = true)
    ∧ (∀ (p : PeerEntry) (s : State),
        (p.status = .live → raiseMatching p s = s)
          ∧ (∀ k, (p.status = .silent ∧ k = .stationSilent) ∨ (p.status = .dormant ∧ k = .stationDormant) →
              (s.faultStands k p.station = true → raiseMatching p s = s)
                ∧ (s.faultStands k p.station = false → raiseMatching p s = raiseFault k p.station s)))
    ∧ ∀ (e x : FaultEntry) (t : List FaultEntry) (counter owner : Nat) (s : State),
        nextChange counter = min (counter + 1) 4294967295
          ∧ (sameFault e x = true ↔ e.owner = x.owner ∧ e.kind = x.kind ∧ e.subject = x.subject)
          ∧ findFault e.owner e.kind e.subject (insertFault e t) = some e
          ∧ (∀ y ∈ t, sameFault e y = false → y ∈ insertFault e t) ∧ (∀ y ∈ insertFault e t, y = e ∨ y ∈ t)
          ∧ (clearRole owner s = true ↔ owner = s.own ∨ owner < 1 ∨ 32 < owner ∨ s.isRole .engineer = true)
          ∧ (pagerRole s = true ↔ s.isRole .engineer = true ∨ s.isRole .collector = true)

/-! ### Sense groups and power -/

/-- READ_SENSE gives each group's settings, settled state, run and change count. REST is refused with a sale open, then with
an event waiting; at an AWAKE station it takes effect when its response has been read, unless an event has come, and then the
station listens, with a supply warning due for DORMANT; elsewhere it changes nothing (R175, R177). That a station which has
entered DORMANT before the read stays there is the model's choice (log entry 72). A request is taken in every power state (log
entry 9). -/
def Obligations.SenseAndRest : Prop :=
  (∀ s : State, s.openTo anyRole = true →
      answers .readSense s 44 .ok
          (.sense (s.sense.groups.map fun x =>
            { settings := x.settings, settled := x.settled, runLevel := x.runLevel, runCount := x.runCount
              changes := x.changes })) s
        ∧ (s.sales.sale.isSome = true → answers .rest s 45 .saleOpen .nothing s)
        ∧ (s.sales.sale = none →
            (s.port.events ≠ [] → answers .rest s 45 .eventsPending .nothing s)
              ∧ (s.port.events = [] →
                  (s.power.state = .awake →
                      answers .rest s 45 .ok .nothing { s with power := { s.power with restTaken := true } })
                    ∧ (s.power.state ≠ .awake → answers .rest s 45 .ok .nothing s))))
    ∧ ∀ (r : Response) (s t : State), s.port.resetHigh = true → s.port.buffer = some r → s.power.restTaken = true →
        t =
          { s with
            port := { s.port with buffer := none, sdo := some (.whole (responseFrame r)) }
            power := { s.power with restTaken := false } } →
          (s.power.state ≠ .awake ∨ s.port.events ≠ [] → acts (.readTransfer true) s t)
            ∧ (s.power.state = .awake → s.port.events = [] →
                (s.power.warning = none →
                    acts (.readTransfer true) s
                      { t with power := { t.power with state := .listening }, link := { t.link with heldOn := true } })
                  ∧ (s.power.warning.isSome = true →
                      acts (.readTransfer true) s
                        (setDormantDue
                          { t with
                            power := { t.power with state := .listening }, link := { t.link with heldOn := true } })))

/-- READ_POWER is open to every role once Setup is done, with or without zone time, and changes no state: it gives the power
state, the settled level of SUPPLY_LOW or unsettled, the whole seconds left of a supply warning's 60 s, the dormant entry due
flag, the last wake cause, the count of dormant periods, and the last dormant period where one has ended (R182). A request is
taken in every power state (log entry 9). -/
def Obligations.PowerRead : Prop :=
  ∀ s : State, s.takesRequest = true →
    (s.setupDone = false → answers .readPower s 46 .notSetUp .nothing s)
      ∧ (s.setupDone = true →
          answers .readPower s 46 .ok
            (.power s.power.state s.power.supply
              (match s.power.warning with
                | none => none
                | some t => some ((t + 60000 - s.clock.elapsed) / 1000))
              s.power.dormantDue s.power.wakeCause s.power.periods s.power.lastPeriod) s)

/-- SENSE_SAMPLE at the end of a sample period of an enabled group: the run goes on or begins again, up to the debounce count.
FIRST_SETTLED: an UNSETTLED group with a complete run takes its condition, TILT upright clears its fault, and DOOR and BOX let
a REMOVED round be judged. SENSE_GROUP_CHANGE: a settled group with a complete run of the other condition changes, is counted
and posted, and is handed to its unit. Elsewhere the three change nothing (R171 to R174). That an undue row has no effect, and
that a sample sets the pin to the level it carries, are the model's choice, as is that the count of agreeing samples alone
completes a run (log entries 3, 5, 78). -/
def Obligations.SenseGroupsSettle : Prop :=
  ∀ (g : Nat) (x : SenseGroup) (s : State), s.port.resetHigh = true → x = s.groupAt g →
    (x.settled = .disabled ∨ s.clock.elapsed < x.lastSample + periodMs x →
        ∀ level, acts (.senseSample g level) s s)
      ∧ (x.settled ≠ .disabled → x.lastSample + periodMs x ≤ s.clock.elapsed → ∀ level,
          acts (.senseSample g level) s
            { s with sense :=
              { groups := s.sense.groups.set g
                  { x with
                    runLevel := level, lastSample := x.lastSample + periodMs x
                    runCount :=
                      if x.runCount ≠ 0 ∧ x.runLevel = level then min (x.runCount + 1) (settingsOf x).debounce else 1 }
                pins := s.sense.pins.set (3 * g + (settingsOf x).input) level } })
      ∧ (x.settled = .disabled ∨ x.runCount = 0 ∨ x.runCount < (settingsOf x).debounce →
          acts (.firstSettled g) s s ∧ acts (.senseGroupChange g) s s)
      ∧ ∀ c, x.settled ≠ .disabled → x.runCount ≠ 0 → (settingsOf x).debounce ≤ x.runCount →
          c = (if x.runLevel = (settingsOf x).activeHigh then .active else .inactive) →
            (x.settled = .unsettled →
                acts (.senseGroupChange g) s s
                  ∧ ∀ u, u = { s with sense := { s.sense with groups := s.sense.groups.set g { x with settled := c } } } →
                      (g = 2 → c = .inactive → acts (.firstSettled g) s (clearFault .tilt 0 u))
                        ∧ (g ≤ 1 → s.isMachine = true → u.groupKnown 0 = true → u.groupKnown 1 = true →
                            acts (.firstSettled g) s (judgeRemoved u))
                        ∧ (3 ≤ g ∨ (g = 2 ∧ c = .active) ∨ (g ≤ 1 ∧ s.isMachine = false)
                            ∨ (g ≤ 1 ∧ (u.groupKnown 0 = false ∨ u.groupKnown 1 = false)) →
                          acts (.firstSettled g) s u))
              ∧ (x.settled ≠ .unsettled →
                  acts (.firstSettled g) s s
                    ∧ (x.settled = c → acts (.senseGroupChange g) s s)
                    ∧ (x.settled ≠ c → ∀ u,
                        u =
                          postEvent (.senseChanged g (c == .active) s.zoneSec)
                            { s with sense := { s.sense with
                              groups := s.sense.groups.set g
                                { x with settled := c, changes := min (x.changes + 1) 65535 } } } →
                          (g = 0 → acts (.senseGroupChange g) s (if s.isMachine then doorChange u else u))
                            ∧ (g = 1 → acts (.senseGroupChange g) s (if s.isMachine then boxChange u else u))
                            ∧ (g = 2 → c = .active → acts (.senseGroupChange g) s (raiseFault .tilt 0 u))
                            ∧ (g = 2 → c = .inactive → acts (.senseGroupChange g) s (clearFault .tilt 0 u))
                            ∧ (3 ≤ g → acts (.senseGroupChange g) s u)))

/-- Two asserted samples of WAKE_BUTTON after a released one make a press, which wakes a LISTENING station that is not due for
DORMANT. 16 agreeing samples of SUPPLY_LOW settle its level: asserted, it warns an AWAKE station and makes a LISTENING one due
for DORMANT; deasserted after that, it withdraws what stands or ends DORMANT, and as the first settled level it changes
nothing; 60 s of a warning make the station due. A station that is due enters DORMANT at the end of its last announce, or at
once where it sends none (R178 to R181), and not at the end of another announce or of an exchange frame. The entry counts the
period and notes its instant, abandons an open sale with SALE_ABANDONED and releases its pin, keeps of the transmit queue only
a frame on the line, and ends the intake and the supply (R34, R48, R52, R73, R104, R180). The exit posts SUPPLY_LOW RESTORED
with the instant and the length in whole seconds, makes the station AWAKE before Setup or with a wake-class event waiting or
recorded, and LISTENING else, and starts the silence timing of the peers afresh (R29, R181). Where the samples have settled
nothing new, the rows of the two pins only move the pin, and the others change nothing: that the SUPPLY_LOW rows bring the pin
to their level there and WAKE_BUTTON_PRESS to its other level, and that the rows take what the samples have found where they
have, the rounding of line times, that a due flag cleared while the last announce is on the line gives no entry, that the entry
does not wait for the read of a REST's response, that the instant of the entry becomes absent at the exit, and that an exit
within an exchange period leaves the receiver off until a condition of R17 holds, are the model's choice (log entries 3, 6, 12,
65, 72, 64, 80). -/
def Obligations.SupplyAndWake : Prop :=
  (∀ p : Power,
      samplePins p =
          { p with
            supplyRunLevel := p.supplyPin
            supplyRunCount :=
              if p.supplyRunCount ≠ 0 ∧ p.supplyRunLevel = p.supplyPin then min (p.supplyRunCount + 1) 16 else 1
            buttonRun := sampleButton p.buttonPin p.buttonRun }
        ∧ (∀ run, run ≠ .press → sampleButton false run = .released)
        ∧ sampleButton true .waiting = .waiting ∧ sampleButton true .released = .once ∧ sampleButton true .once = .press
        ∧ ∀ level, sampleButton level .press = .press)
    ∧ (∀ s : State, s.port.resetHigh = true →
        (s.power.buttonRun ≠ .press →
            acts .wakeButtonPress s { s with power := { s.power with buttonPin := !s.power.buttonPin } })
          ∧ (s.power.buttonRun = .press →
              (s.power.state = .listening → s.power.dormantDue = false →
                  acts .wakeButtonPress s
                    { s with power := { s.power with buttonRun := .waiting, state := .awake, wakeCause := .button } })
                ∧ (s.power.state ≠ .listening ∨ s.power.dormantDue = true →
                    acts .wakeButtonPress s { s with power := { s.power with buttonRun := .waiting } })))
    ∧ (∀ (level : Bool) (s : State),
        s.supplyDue level = true ↔
          s.power.supplyRunCount = 16 ∧ s.power.supplyRunLevel = level ∧ s.power.supply ≠ some level)
    ∧ (∀ s : State, s.port.resetHigh = true →
      (s.supplyDue true = false → acts .supplyLowAssert s { s with power := { s.power with supplyPin := true } })
      ∧ (s.supplyDue false = false → acts .supplyLowDeassert s { s with power := { s.power with supplyPin := false } })
      ∧ (s.supplyDue true = true →
          (s.power.state = .awake →
              acts .supplyLowAssert s
                (postEvent (.supplyLow .warning)
                  { s with power := { s.power with supply := some true, warning := some s.clock.elapsed } }))
            ∧ (s.power.state = .listening →
                acts .supplyLowAssert s (setDormantDue { s with power := { s.power with supply := some true } }))
            ∧ (s.power.state = .dormant →
                acts .supplyLowAssert s { s with power := { s.power with supply := some true } }))
      ∧ (s.supplyDue false = true → s.power.supply = none →
          acts .supplyLowDeassert s { s with power := { s.power with supply := some false } })
      ∧ (s.supplyDue false = true → s.power.supply = some true →
          (s.power.state = .dormant →
              acts .supplyLowDeassert s (exitDormant { s with power := { s.power with supply := some false } }))
            ∧ (s.power.state ≠ .dormant → s.power.warning = none → s.power.dormantDue = false →
                acts .supplyLowDeassert s { s with power := { s.power with supply := some false } })
            ∧ (s.power.warning.isSome = true ∨ s.power.dormantDue = true → ∀ u,
                u =
                  { s with power := { s.power with supply := some false, warning := none, dormantDue := false } } →
                  (s.power.state = .awake → acts .supplyLowDeassert s (postEvent (.supplyLow .withdrawn) u))
                    ∧ (s.power.state = .listening → acts .supplyLowDeassert s u)))
      ∧ (∀ t, s.power.warning = some t →
          (t + 60000 ≤ s.clock.elapsed → acts .awakeGraceExpiry s (setDormantDue s))
            ∧ (s.clock.elapsed < t + 60000 → acts .awakeGraceExpiry s s))
      ∧ (s.power.warning = none → acts .awakeGraceExpiry s s)
      ∧ (s.power.dormantDue = false → acts .dormantEntry s s)
      ∧ (s.power.dormantDue = true →
          (∀ start a, s.link.line = some (.announce start a) →
              (start + announceMs ≤ s.clock.elapsed → a.dormant = true ∨ s.clock.zone = none ∨ s.setupDone = false →
                  acts .dormantEntry s
                    (enterDormant
                      { s with link := { s.link with
                        line := none, access := resumeAccess s.clock.elapsed s.link.lcd s.link.access
                        path := if s.link.lcd then .waitQuiet s.clock.elapsed else .idle } }))
                ∧ (s.clock.elapsed < start + announceMs → s.clock.zone = none ∨ s.setupDone = false →
                    acts .dormantEntry s (enterDormant s))
                ∧ (s.clock.elapsed < start + announceMs ∨ a.dormant = false →
                    s.clock.zone.isSome = true → s.setupDone = true → acts .dormantEntry s s))
            ∧ ((∀ start a, s.link.line ≠ some (.announce start a)) →
                (s.clock.zone = none ∨ s.setupDone = false → acts .dormantEntry s (enterDormant s))
                  ∧ (s.clock.zone.isSome = true → s.setupDone = true → acts .dormantEntry s s))))
    ∧ (∀ s : State,
        (s.clock.zone.isSome = true → s.setupDone = true →
            setDormantDue s = { s with power := { s.power with warning := none, dormantDue := true } })
          ∧ (s.clock.zone = none ∨ s.setupDone = false →
              setDormantDue s = enterDormant { s with power := { s.power with warning := none, dormantDue := true } }))
    ∧ (∀ s d v : State,
        d =
          { s with power := { s.power with
            state := .dormant, warning := none, dormantDue := false
            dormantSince := some (s.clock.elapsed, s.clock.zone.map fun z => z / 1000)
            periods := min (s.power.periods + 1) 65535 } } →
          (s.sales.sale = none → v = d) →
            (∀ r w, s.sales.sale = some r →
              w = postEvent (.saleAbandoned .dormant r.escrow r.coinTotal r.card (r.permit.map (·.number)) r.pin) d →
                (s.tariff.retired = none →
                    v =
                      { w with
                        sales := { sale := none, openMark := false }
                        tariff := { s.tariff with pin := none, retired := none } })
                  ∧ (s.tariff.retired.isSome = true →
                      v =
                        holdingsNotice
                          { w with
                            sales := { sale := none, openMark := false }
                            tariff := { s.tariff with pin := none, retired := none } })) →
              enterDormant s =
                { v with
                  link := { v.link with tx := keptFrames v.link.line v.link.tx, access := .off, heldOn := false }
                  repl := { v.repl with intake := none, supply := [] } })
    ∧ (∀ (start : Nat) (tx : List TxFrame),
        keptFrames (some (.exchange start)) tx = tx.take 1 ∧ keptFrames none tx = []
          ∧ ∀ a, keptFrames (some (.announce start a)) tx = [])
    ∧ (∀ (s u t : State) (since : Nat) (zone : Option Nat) (seconds : Nat), s.power.dormantSince = some (since, zone) →
        seconds = (s.clock.elapsed - since) / 1000 → u = postEvent (.supplyLow (.restored zone seconds)) s →
          t =
            { u with
              link := { u.link with
                peers := u.link.peers.map fun p =>
                  if p.status == .silent then p else { p with lastHeard := s.clock.elapsed }
                heldOn := s.inWindow }
              power := { u.power with
                recorded := none, dormantSince := none, lastPeriod := some (zone, seconds) } } →
            (s.setupDone = false →
                exitDormant s =
                  { t with power := { t.power with state := .awake, wakeCause := .supplyRestored } })
              ∧ (s.setupDone = true →
                  (∀ n, wakeName u = some n →
                      exitDormant s = { t with power := { t.power with state := .awake, wakeCause := .event n } })
                    ∧ (wakeName u = none →
                        exitDormant s = { t with power := { t.power with state := .listening } })))
    ∧ ∀ s : State,
        ((∀ e ∈ s.port.events, wakeClass e.event = false) → wakeName s = s.power.recorded)
          ∧ (∀ before e after, s.port.events = before ++ e :: after → (∀ x ∈ before, wakeClass x.event = false) →
              wakeClass e.event = true → wakeName s = some (eventName e.event))
          ∧ (s.inWindow = true ↔ ∃ z, s.clock.zone = some z ∧ z % 32000 < 4000)
/-! ### Frames -/

/-- A frame is dropped without effect while the part cannot receive, and at each filter of R20; a sender equal to the own
number raises DUPLICATE_NUMBER once in 32 s (R21). Past the filters a frame other than an announce is dropped where its sender
has no entry, and counts its sender as heard where the sender's role does not allow it (R22). The filters pass a frame of the
own zone from a station number, for the own number or for all, whose fields are in range, and not from the own number; the step
that drops any other is the first of these that fails, in the order of R20, so that DUPLICATE_NUMBER is raised where the sender
alone fails. Which kinds go to all, to one station or to either, and which roles a kind is honoured from, are Table 2.2; the
ranges are those of Tables 12.2 to 12.4: keys, objects, station numbers, a due figure to 100, a fragment's count and data
length, entry counts, and fault subjects by their kind (R20, R22, R35, R43, R155, R192). A frame that passes them while another
waits finds no place: it counts as addressed to the station where it is, and is discarded (R17, R23). That a frame row carries
the frame by content, that the fields for which R192 names no range are not judged, that a FAULT_ACK or FAULT_CLEAR about its
own destination passes, and that a frame so discarded leaves its sender's last-heard time as it was, are the model's choice or
reading (log entries 8, 23, 88, 69). -/
def Obligations.FramesFiltered : Prop :=
  (∀ (i : Instr) (h : FrameHeader) (body : FrameBody) (s : State), s.port.resetHigh = true →
    carriedFrame i = some (h, body) →
      (s.canReceive = false → acts i s s)
        ∧ (s.canReceive = true →
            (∀ st, filterStep s.zoneNo s.own h body = some st → st ≠ .sender → acts i s s)
              ∧ (filterStep s.zoneNo s.own h body = some .sender → acts i s (ownNumberHeard s))
              ∧ (filterStep s.zoneNo s.own h body = none → s.hasPlace = false → acts i s (noteAddressed h s))
              ∧ (filterStep s.zoneNo s.own h body = none → s.hasPlace = true → isAnnounce body = false →
                  (s.peer h.sender = none → acts i s (noteAddressed h s))
                    ∧ ∀ p, s.peer h.sender = some p → senderTrusted body p.role = false → acts i s (heard h s))))
    ∧ (∀ (bytes : List Byte) (s : State), s.port.resetHigh = true →
        (s.canReceive = false → acts (.frameDiscarded bytes) s s)
          ∧ (s.canReceive = true →
              (filterBytes s.zoneNo s.own bytes = .inl .sender → acts (.frameDiscarded bytes) s (ownNumberHeard s))
                ∧ (filterBytes s.zoneNo s.own bytes ≠ .inl .sender → acts (.frameDiscarded bytes) s s)))
    ∧ (∀ s : State,
        (∀ t, s.link.lastDuplicate = some t → s.clock.elapsed < t + 32000 → ownNumberHeard s = s)
          ∧ (s.link.lastDuplicate = none ∨ (∃ t, s.link.lastDuplicate = some t ∧ t + 32000 ≤ s.clock.elapsed) →
              ownNumberHeard s =
                raiseFault .duplicateNumber 0 { s with link := { s.link with lastDuplicate := some s.clock.elapsed } }))
    ∧ (∀ (h : FrameHeader) (s : State),
        (h.dest = s.own → s.link.handing = false →
            noteAddressed h s = { s with link := { s.link with addressedAt := some s.clock.elapsed } })
          ∧ (h.dest ≠ s.own ∨ s.link.handing = true → noteAddressed h s = s)
          ∧ (s.hasPlace = true ↔ s.link.handing = true ∨ s.link.waiting = none))
    ∧ (∀ (zone own : Nat) (h : FrameHeader) (body : FrameBody),
        filterStep zone own h body = none ↔
          h.zone = zone ∧ 1 ≤ h.sender ∧ h.sender ≤ 32 ∧ destFits body h.dest = true ∧ bodyOk body = true
            ∧ (h.dest = 0 ∨ h.dest = own) ∧ h.sender ≠ own)
    ∧ (∀ (zone own : Nat) (h : FrameHeader) (body : FrameBody) (inRange : Prop),
        (inRange ↔ 1 ≤ h.sender ∧ h.sender ≤ 32 ∧ destFits body h.dest = true ∧ bodyOk body = true) →
          (filterStep zone own h body = some .zone ↔ h.zone ≠ zone)
            ∧ filterStep zone own h body ≠ some .check
            ∧ (filterStep zone own h body = some .header ↔ h.zone = zone ∧ ¬inRange)
            ∧ (filterStep zone own h body = some .dest ↔ h.zone = zone ∧ inRange ∧ h.dest ≠ 0 ∧ h.dest ≠ own)
            ∧ (filterStep zone own h body = some .sender ↔
                h.zone = zone ∧ inRange ∧ (h.dest = 0 ∨ h.dest = own) ∧ h.sender = own))
    ∧ (∀ (body : FrameBody) (dest : Nat), destFits body dest = true ↔
        match body with
        | .announce _ | .amendment _ _ _ _ | .roundOpen _ | .roundClose _ => dest = 0
        | .usage _ | .faultReport _ => dest ≤ 32
        | _ => 1 ≤ dest ∧ dest ≤ 32)
    ∧ (∀ (body : FrameBody) (role : Role), senderTrusted body role = true ↔
        match body with
        | .amendment _ _ _ _ | .faultAck _ _ => role = .gateway
        | .faultClear _ _ | .restart _ => role = .engineer
        | .roundOpen _ | .roundVisit _ | .roundClose _ | .collectionAck _ _ => role = .collector
        | .collectionReport _ => role = .fixed ∨ role = .gateway
        | .page _ => role = .engineer ∨ role = .collector
        | _ => True)
    ∧ (∀ body : FrameBody, bodyOk body = true ↔
        match body with
        | .announce a =>
          a.due ≤ 100 ∧ Key.okOpt a.active = true ∧ Key.okOpt a.pending = true ∧ a.sections.length = 8
            ∧ (∀ k ∈ a.sections, Key.okOpt k = true) ∧ ∀ c, a.collector = some c → 1 ≤ c ∧ c ≤ 32
        | .request (.image obj key _) | .notHeld obj key | .superseded obj key => objOk obj = true ∧ Key.ok key = true
        | .fragment f =>
          objOk f.obj = true ∧ Key.ok f.key = true ∧ 1 ≤ f.count ∧ f.count ≤ 41 ∧ 1 ≤ f.data.length ∧ f.data.length ≤ 96
            ∧ (f.index + 1 = f.count → f.data.length = f.length - 96 * (f.count - 1))
            ∧ (f.index + 1 ≠ f.count → f.data.length = 96)
        | .amendment i old new change =>
          i ≤ 7 ∧ Key.ok old = true ∧ Key.ok new = true
            ∧ ∀ r, change = .add r ∨ change = .replace r → ∀ z ∈ r.zones, z ≤ 4095
        | .usage (.series ser _ entries) => 1 ≤ ser.parts ∧ entries.length ≤ 8
        | .faultReport (.series ser _ entries) =>
          1 ≤ ser.parts ∧ entries.length ≤ 4 ∧ ∀ e ∈ entries, faultEntryOk e = true
        | .faultReport (.single _ e) => faultEntryOk e = true
        | .faultAck k subject | .faultClear k subject => subjectOk k subject = true
        | .collectionReport d => d.counts.length = 8
        | _ => True)
    ∧ (∀ (k : Key) (obj : ImageObj),
        (Key.ok k = true ↔ 1 ≤ k.gen ∧ k.gen ≤ 65535 ∧ 1 ≤ k.pub ∧ k.pub ≤ 32)
          ∧ Key.okOpt none = true ∧ Key.okOpt (some k) = Key.ok k
          ∧ (objOk obj = true ↔ ∀ i, obj = .sect i → i ≤ 7))
    ∧ (∀ (k : FaultKind) (subject : Nat),
        (subjectOk k subject = true ↔
            (faultCode k ≤ 16 ∧ subject = 0) ∨ (16 < faultCode k ∧ 1 ≤ subject ∧ subject ≤ 32)))
    ∧ (∀ e : FaultEntry, faultEntryOk e = true ↔
        1 ≤ e.owner ∧ e.owner ≤ 32 ∧ subjectOk e.kind e.subject = true ∧ e.subject ≠ e.owner
          ∧ 1 ≤ e.occurrences ∧ e.occurrences ≤ 255)
    ∧ [FaultKind.coinMech, .printer, .paperLow, .paperOut, .cardReader, .display, .keypad, .hostOther, .tamper,
        .boxRemovedUnattended, .tilt, .boxFull, .journalFull, .tariffMissing, .permitStale, .duplicateNumber,
        .stationSilent, .stationDormant].map faultCode = (List.range 18).map (· + 1)

/-- An honoured frame of each kind is handed to the unit that owns it, its sender heard: REQUEST, FRAGMENT, NOT_HELD and
SUPERSEDED to the replication unit, AMENDMENT and USAGE to the permit store, the fault frames to the fault unit, the round
frames to the round unit of a machine, COLLECTION_REPORT to a collector's; RESTART with the own number starts a restart, and
PAGE is posted (R22, R43, R45, R49, R54, R121, R141, R143 to R145, R151, R160, R161, R165, R169, R170). A FRAGMENT is accepted
from the provider for the object, key and index asked for, with the data length of its place, fragment 0 with a length and a
count that fit the object and every later one with what fragment 0 stated (R43). NOT_HELD of the key, and a SUPERSEDED whose
key is not higher or does not qualify, exclude the provider; another SUPERSEDED raises the entry, its candidates the sender
and the LIVE peers that advertise the key (R45). What the units then do is stated with their own reads and commands. That a
frame row carries the frame by content, that a SUPERSEDED's key is tested as an active one, and that of two RESTARTs the later
one's engineer is noted, are the model's choice (log entries 8, 54, 63). -/
def Obligations.FramesHonoured : Prop :=
  (∀ (h : FrameHeader) (s : State),
    (∀ r, s.honours h (.request r) = true → acts (.request h r) s (takeRequest h.sender r (heard h s)))
      ∧ (∀ f, s.honours h (.fragment f) = true →
          (∀ i, s.repl.intake = some i → acceptsFragment i h.sender f = true →
              acts (.fragment h f) s (takeFragment i f (heard h s)))
            ∧ (s.repl.intake = none ∨ (∃ i, s.repl.intake = some i ∧ acceptsFragment i h.sender f = false) →
                acts (.fragment h f) s (heard h s)))
      ∧ (∀ obj key, s.honours h (.notHeld obj key) = true →
          (∀ i, s.repl.intake = some i → i.provider = h.sender → i.obj = obj → i.key = key →
              acts (.notHeld h obj key) s (excludeProvider i (heard h s)))
            ∧ ((∀ i, s.repl.intake = some i → ¬(i.provider = h.sender ∧ i.obj = obj ∧ i.key = key)) →
                acts (.notHeld h obj key) s (heard h s)))
      ∧ (∀ obj key, s.honours h (.superseded obj key) = true →
          (∀ i, s.repl.intake = some i → i.provider = h.sender → i.obj = obj →
              (Key.higher key i.key = true → s.qualifies obj key = true →
                  acts (.superseded h obj key) s
                    (updateIntake
                      { heard h s with repl := { s.repl with
                        want := s.repl.want.map fun e =>
                          if e.obj == obj then
                            { e with
                              key := key, pendingOnly := s.pendingOnly obj key false
                              cands := insertNat h.sender (s.candidates obj key []), excluded := [], timeouts := 0 }
                          else e } }))
                ∧ (Key.higher key i.key = false ∨ s.qualifies obj key = false →
                    acts (.superseded h obj key) s (excludeProvider i (heard h s))))
            ∧ ((∀ i, s.repl.intake = some i → ¬(i.provider = h.sender ∧ i.obj = obj)) →
                acts (.superseded h obj key) s (heard h s)))
      ∧ (∀ i old new c, s.honours h (.amendment i old new c) = true →
          acts (.amendment h i old new c) s (amendFromFrame h.sender i old new c (heard h s)))
      ∧ (∀ u, s.honours h (.usage u) = true → acts (.usage h u) s (takeUsage h.sender u (heard h s)))
      ∧ (∀ r, s.honours h (.faultReport r) = true →
          acts (.faultReport h r) s (takeFaultReport h.sender r (heard h s)))
      ∧ (∀ k j, s.honours h (.faultAck k j) = true → acts (.faultAck h k j) s (ackFault k j (heard h s)))
      ∧ (∀ k j, s.honours h (.faultClear k j) = true → acts (.faultClear h k j) s (clearFault k j (heard h s)))
      ∧ (∀ n, s.honours h (.roundOpen n) = true →
          (s.isMachine = true → s.rounds.ctx.state = .idle ∨ s.rounds.ctx.state = .opened →
              acts (.roundOpenFrame h n) s (takeRound n h.sender (heard h s)))
            ∧ (s.isMachine = false ∨ (s.rounds.ctx.state ≠ .idle ∧ s.rounds.ctx.state ≠ .opened) →
                acts (.roundOpenFrame h n) s (heard h s)))
      ∧ (∀ n, s.honours h (.roundVisit n) = true →
          (s.isMachine = true → s.rounds.ctx.state = .idle ∨ s.rounds.ctx.state = .opened →
              ∀ u, u = takeRound n h.sender (heard h s) →
                acts (.roundVisitFrame h n) s
                  (postEvent (.visit n h.sender)
                    { u with rounds := { u.rounds with
                      ctx := { u.rounds.ctx with state := .visited, visitStart := some s.clock.elapsed } } }))
            ∧ (s.isMachine = true → s.rounds.ctx.state = .visited → s.rounds.ctx.round = n →
                s.rounds.ctx.collector = some h.sender →
                  acts (.roundVisitFrame h n) s
                    { heard h s with rounds := { s.rounds with
                      ctx := { s.rounds.ctx with visitStart := some s.clock.elapsed } } })
            ∧ (s.isMachine = true → s.rounds.ctx.state = .reported → s.rounds.ctx.round = n →
                s.rounds.ctx.collector = some h.sender →
                  acts (.roundVisitFrame h n) s
                    { heard h s with rounds := { s.rounds with
                      log := s.rounds.log.map fun r => { r with due := true } } })
            ∧ (s.isMachine = false ∨ s.rounds.ctx.state = .removed
                  ∨ ((s.rounds.ctx.state = .visited ∨ s.rounds.ctx.state = .reported)
                      ∧ (s.rounds.ctx.round ≠ n ∨ s.rounds.ctx.collector ≠ some h.sender)) →
                acts (.roundVisitFrame h n) s (heard h s)))
      ∧ (∀ n, s.honours h (.roundClose n) = true →
          (s.isMachine = true → s.rounds.ctx.round = n → s.rounds.ctx.collector = some h.sender →
              acts (.roundCloseFrame h n) s
                { heard h s with rounds := { s.rounds with
                  ctx := { round := 0, collector := none, state := .idle, visitRecord := none, visitStart := none } } })
            ∧ (s.isMachine = false ∨ s.rounds.ctx.round ≠ n ∨ s.rounds.ctx.collector ≠ some h.sender →
                acts (.roundCloseFrame h n) s (heard h s)))
      ∧ (∀ d, s.honours h (.collectionReport d) = true →
          (s.isRole .collector = true → acts (.collectionReport h d) s (takeReport h.sender d (heard h s)))
            ∧ (s.isRole .collector = false → acts (.collectionReport h d) s (heard h s)))
      ∧ (∀ f l, s.honours h (.collectionAck f l) = true →
          (s.isMachine = true → acts (.collectionAck h f l) s (takeAck h.sender f l (heard h s)))
            ∧ (s.isMachine = false → acts (.collectionAck h f l) s (heard h s)))
      ∧ (∀ n, s.honours h (.restart n) = true →
          (n = s.port.unique.toNat % 4294967296 →
              acts (.restart h n) s { heard h s with faults := { s.faults with restartBy := some h.sender } })
            ∧ (n ≠ s.port.unique.toNat % 4294967296 → acts (.restart h n) s (heard h s)))
      ∧ ∀ c, s.honours h (.page c) = true → acts (.page h c) s (postEvent (.paged h.sender c) (heard h s)))
    ∧ (∀ (i : Intake) (n : Nat) (f : FragmentBody),
        acceptsFragment i n f = true ↔
          n = i.provider ∧ f.obj = i.obj ∧ f.key = i.key ∧ f.index = i.next
            ∧ f.data.length = (if f.index + 1 = f.count then f.length - 96 * (f.count - 1) else 96)
            ∧ (∀ x, i.info = some x → x = { count := f.count, length := f.length, check := f.check })
            ∧ (i.info = none → f.index = 0 ∧ (i.obj = .tariff → f.length = 324 ∧ f.count = 4)
                ∧ ∀ j, i.obj = .sect j →
                    ∃ r, r ≤ 160 ∧ f.length = 8 + 24 * r ∧ f.count = (f.length + 95) / 96))
    ∧ (∀ (i : Intake) (s : State),
        excludeProvider i s =
          updateIntake
            { s with repl := { s.repl with
              want := s.repl.want.map fun e =>
                if e.obj == i.obj then
                  { e with
                    cands := e.cands.filter (· != i.provider), excluded := insertNat i.provider e.excluded
                    timeouts := 0 }
                else e } })
    ∧ ∀ (h : FrameHeader) (s : State),
        heard h s = noteHeard h.sender (noteAddressed h s)
          ∧ noteHeard h.sender s =
              { s with link := { s.link with
                peers := s.link.peers.map fun p =>
                  if p.station == h.sender then { p with lastHeard := s.clock.elapsed } else p } }

/-- ANNOUNCE completes wherever the frame is accepted: the sender's entry is made or overwritten and a changed status told to
the fault unit, the time is judged, an announce of a gathering window counts for R17, then the replication unit, the round
unit, the fault unit and the permit store take their notice in this order (R26, R28, R17). The entry carries every field of the
announce, an absent quality for one above 3 or absent, the status it announces, now as last heard, and the last dormant
announce, absent in a new entry without one. The replication unit judges the want list and the intake, then the fault and the
usage stream of the sender against the positions held: a counter ahead is asked for unless a part of its series came in this
zone cycle, a counter behind discards what came from the sender and begins again: its copies of faults, or its contributions of
the days in question with the entries left empty, the saturated flags of the others kept (R38, R55, R121). A position is held
for each peer and set for its owner alone; a peer without one has 0 for faults and none for usage. The permit store judges its
eight sections, clears PERMIT_STALE where a change of their states leaves none behind, and becomes settled after two
cycle-start marks with every peer's usage of today held (R108, R109, R123). That the status notice comes before the others, an
effective-from with an absent pending key, what a cycle's start is after a step or while zone time is unset, the order in which
copies are discarded, that the want list is judged before the streams and the faults before the usage, and that the row carries
the announce by content, are the model's reading or choice (log entries 8, 31, 44, 48, 60, 67). -/
def Obligations.AnnounceTaken : Prop :=
  (∀ (h : FrameHeader) (ms : Nat) (a : AnnounceBody) (s u w : State), s.accepts h (.announce a) = true →
      u = judgeTime h.sender ms a (takeEntry h.sender a (noteAddressed h s)) →
        (∀ z, u.clock.zone = some z → z % 32000 < 4000 →
            w = { u with link := { u.link with windowHeard := insertNat h.sender u.link.windowHeard } }) →
          (u.clock.zone = none ∨ (∃ z, u.clock.zone = some z ∧ 4000 ≤ z % 32000) → w = u) →
            acts (.announce h ms a) s
              (permitAnnounceNotice (faultAnnounceNotice h.sender a.dormant
                (roundAnnounceNotice h.sender (replAnnounceNotice h.sender w)))))
    ∧ (∀ (n : Nat) (a : AnnounceBody) (s u : State),
        u =
          { s with link := { s.link with
            peers := insertPeer (announcedEntry n s.clock.elapsed a (s.peer n)) s.link.peers } } →
          (s.peer n = none ∨ (∃ p, s.peer n = some p ∧ p.status = if a.dormant then .dormant else .live) →
              takeEntry n a s = u)
            ∧ ∀ p, s.peer n = some p → p.status ≠ (if a.dormant then .dormant else .live) →
                takeEntry n a s = faultStatusNotice n (if a.dormant then .dormant else .live) u)
    ∧ (∀ (n : Nat) (a : AnnounceBody) (s : State), ∃ e, (takeEntry n a s).peer n = some e
        ∧ e.station = n ∧ e.role = a.role ∧ e.lastHeard = s.clock.elapsed
        ∧ e.status = (if a.dormant then .dormant else .live) ∧ e.dormant = a.dormant ∧ e.hostAwake = a.hostAwake
        ∧ e.reports = a.reports ∧ e.active = a.active ∧ e.pending = a.pending
        ∧ e.pendingEff = (if a.pending.isSome then some a.pendingEff else none)
        ∧ e.sections = a.sections ∧ e.faultCtr = a.faultCtr ∧ e.usageCtr = a.usageCtr ∧ e.usageDay = a.usageDay
        ∧ e.due = a.due ∧ e.round = a.round ∧ e.collector = a.collector ∧ e.roundState = a.roundState
        ∧ (∀ q, a.quality = some q → q ≤ 3 → e.quality = some q)
        ∧ (∀ q, a.quality = some q → 3 < q → e.quality = none)
        ∧ (a.quality = none → e.quality = none)
        ∧ (a.dormant = true → e.dormantHeard = some s.clock.elapsed)
        ∧ (s.peer n = none → a.dormant = false → e.dormantHeard = none)
        ∧ ∀ p, s.peer n = some p → a.dormant = false → e.dormantHeard = p.dormantHeard)
    ∧ (∀ (n m : Nat) (a : AnnounceBody) (s : State), m ≠ n → (takeEntry n a s).peer m = s.peer m)
    ∧ (∀ (n : Nat) (s u : State), u = updateIntake (judgeWant (some n) s) →
        (u.peer n = none → replAnnounceNotice n s = u)
          ∧ ∀ p, u.peer n = some p → replAnnounceNotice n s = judgeUsageStream p (judgeFaultStream p u))
    ∧ (∀ (owner : Nat) (r : RequestBody) (rx : Option SeriesRx) (s : State),
        (s.seriesRecent rx = true ↔
            ∃ x z, rx = some x ∧ s.clock.zone = some z ∧ s.clock.elapsed ≤ x.lastPart + z % 32000)
          ∧ (s.seriesRecent rx = true → requestStream owner r rx s = s)
          ∧ (s.seriesRecent rx = false → requestStream owner r rx s = place .other owner (.request r) s))
    ∧ (∀ (p : PeerEntry) (h : FaultPos) (s : State), h = s.faultPosOf p.station →
        (h.pos = p.faultCtr → judgeFaultStream p s = s)
          ∧ (h.pos < p.faultCtr →
              judgeFaultStream p s = requestStream p.station (.faults (h.pos + 1)) h.series s)
          ∧ (p.faultCtr < h.pos → ∀ u, u = setFaultPos { h with pos := 0 } (dropCopies p.station s) →
              (p.faultCtr = 0 → judgeFaultStream p s = u)
                ∧ (0 < p.faultCtr → judgeFaultStream p s = requestStream p.station (.faults 1) h.series u)))
    ∧ (∀ (p : PeerEntry) (s : State),
        (s.today = none ∨ (∃ d, s.today = some d ∧ p.usageDay < d) → judgeUsageStream p s = s)
          ∧ (∀ d, s.today = some d → d ≤ p.usageDay → judgeUsageStream p s = compareUsage p (alignUsageDay p s))
          ∧ ∀ x : UsagePos, x = s.usagePosOf p.station →
              (x.pos = none → alignUsageDay p s = setUsagePos { x with pos := some (p.usageDay, 0) } s)
                ∧ ∀ d c, x.pos = some (d, c) →
                    (d = p.usageDay → alignUsageDay p s = s)
                      ∧ (d < p.usageDay → alignUsageDay p s = setUsagePos { x with pos := some (p.usageDay, 0) } s)
                      ∧ (p.usageDay < d →
                          alignUsageDay p s =
                            setUsagePos { x with pos := some (p.usageDay, 0) }
                              { s with permits := { s.permits with
                                usage := removeContribs p.station (fun y => p.usageDay < y) s.permits.usage } })
                      ∧ (c = p.usageCtr → compareUsage p s = s)
                      ∧ (c < p.usageCtr → compareUsage p s = requestStream p.station .usage x.series s)
                      ∧ (p.usageCtr < c → ∀ u,
                          u =
                            setUsagePos { x with pos := some (d, 0) }
                              { s with permits := { s.permits with
                                usage := removeContribs p.station (fun y => y == d) s.permits.usage } } →
                            (p.usageCtr = 0 → compareUsage p s = u)
                              ∧ (0 < p.usageCtr →
                                  compareUsage p s = requestStream p.station .usage x.series u)))
    ∧ (∀ (h : FaultPos) (x : UsagePos) (n : Nat) (s : State),
        (setFaultPos h s).faultPosOf n = (if n = h.owner then h else s.faultPosOf n)
          ∧ (setUsagePos x s).usagePosOf n = (if n = x.owner then x else s.usagePosOf n)
          ∧ setFaultPos h s =
              { s with faults := { s.faults with positions := (setFaultPos h s).faults.positions } }
          ∧ setUsagePos x s =
              { s with permits := { s.permits with positions := (setUsagePos x s).permits.positions } }
          ∧ (s.faults.positions = [] → s.faultPosOf n = { owner := n, pos := 0, series := none })
          ∧ (s.permits.positions = [] → s.usagePosOf n = { owner := n, pos := none, series := none }))
    ∧ (∀ (owner : Nat) (s : State),
        dropCopies owner s =
          (s.faults.table.filter fun e => e.owner == owner).foldl (fun t e => postFault e .discard none t)
            { s with faults := { s.faults with table := s.faults.table.filter fun e => e.owner != owner } })
    ∧ (∀ (station : Nat) (which : Nat → Bool) (l : List UsageEntry),
        removeContribs station which l =
          (l.map fun e =>
            if which e.day = true then { e with contribs := e.contribs.filter (·.1 != station) } else e).filter
              (!·.contribs.isEmpty))
    ∧ ∀ s t : State,
        permitAnnounceNotice s = judgeSettled (judgeSections s)
          ∧ (t = (List.range 8).foldl judgeSection s →
              (t.behindMap = s.behindMap → judgeSections s = t)
                ∧ (t.behindMap ≠ s.behindMap →
                    ((∃ p ∈ t.permits.sections, p.behindSince.isSome = true) → judgeSections s = t)
                      ∧ ((∀ p ∈ t.permits.sections, p.behindSince = none) →
                          judgeSections s = clearFault .permitStale 0 t)))
          ∧ (2 ≤ s.permits.cycleMarks →
              (∀ p ∈ s.link.peers, s.isToday p.usageDay = true →
                  s.usagePos p.station = some (p.usageDay, p.usageCtr)) →
                judgeSettled s = { s with permits := { s.permits with settled := true } })
          ∧ (s.permits.cycleMarks < 2
                ∨ (∃ p ∈ s.link.peers, s.isToday p.usageDay = true
                    ∧ s.usagePos p.station ≠ some (p.usageDay, p.usageCtr)) →
              judgeSettled s = s)

/-! ### The line and the timers -/

/-- Medium access: a line that goes idle starts the backoff wait of a frame that waits for it; the wait over, the frame goes
onto an idle line if it fits the exchange period, waits for the next one if not, and on a busy line tries again until its
eighth attempt drops it; a frame or an announce that has gone out whole leaves the line (R15, R18, R24, R32, R33). A frame fits
where its line time, 10 bits a byte at 19,200 a second, is not more than the time to the next cycle start (R15). The unit that
placed a frame is told that it was sent: the intake's REQUEST makes it RECEIVING, with the progress time now; the supply's head
goes on to its next index, or leaves the queue after its last; a report's mark is cleared; then the refused placements of the
intake and the supply are tried again (R33, R42, R50, R150). Of a dropped frame it is told too: a REQUEST that has gone stale
gives way to the present one, the supply places its frame again, and a report waits for the next mark. That undue rows have no
effect, the level of LCD between rows, the rounding of line times, the wait for quiet after an own transmission on a busy line,
the pause of a backoff by an announce, the instant of a dropped fragment's placement, its index in a head replaced meanwhile,
the order of the retries, that a wait which ends in a gathering window holds the frame unsampled, that a dropped report does
not hold a record merged since, and that a due flag cleared meanwhile leaves the announce an ordinary end, are the model's
choice or reading (log entries 3, 5, 12, 13, 24, 27, 86, 47, 85, 62, 65). -/
def Obligations.MediumAccess : Prop :=
  (∀ s : State, s.port.resetHigh = true →
    (s.link.access = .waitIdle → s.link.line = none → s.inExchange = true →
        acts .mediumIdle s { s with link := { s.link with lcd := false, access := .backoff s.clock.elapsed } })
      ∧ (s.link.access ≠ .waitIdle ∨ s.link.line.isSome = true ∨ s.inExchange = false →
          acts .mediumIdle s { s with link := { s.link with lcd := false } })
      ∧ (s.backoffOver = false → ∀ lcd, acts (.backoffWaitExpiry lcd) s s)
      ∧ (∀ start f rest, s.link.access = .backoff start → s.link.tx = f :: rest →
          start + ((s.own + f.attempt) % 8 + 1) * 20 ≤ s.clock.elapsed →
            (s.inExchange = false → ∀ lcd,
                acts (.backoffWaitExpiry lcd) s { s with link := { s.link with lcd := lcd, access := .held } })
              ∧ (s.inExchange = true →
                  (f.attempt < 7 →
                      acts (.backoffWaitExpiry true) s
                        { s with link := { s.link with
                          lcd := true, access := .waitIdle, tx := { f with attempt := f.attempt + 1 } :: rest } })
                    ∧ (7 ≤ f.attempt →
                        acts (.backoffWaitExpiry true) s
                          (noticeDropped f { s with link := { s.link with lcd := true, access := .off, tx := rest } }))
                    ∧ (s.headFits f = false →
                        acts (.backoffWaitExpiry false) s
                          { s with link := { s.link with lcd := false, access := .held } })
                    ∧ (s.headFits f = true →
                        acts (.backoffWaitExpiry false) s
                          { s with link := { s.link with
                            lcd := false, access := .off, line := some (.exchange s.clock.elapsed)
                            path :=
                              (match s.link.path with
                                | .collecting _ _ _ => .idle
                                | p => p) } })))
      ∧ (s.frameOut = false → ∀ lcd, acts (.frameSent lcd) s s)
      ∧ (∀ start f rest lcd, s.link.line = some (.exchange start) → s.link.tx = f :: rest →
          start + lineMs (frameLength f.body) ≤ s.clock.elapsed →
            acts (.frameSent lcd) s
              (noticeSent f
                { s with link := { s.link with
                  lcd := lcd, line := none, tx := rest, access := .off
                  path := if lcd then .waitQuiet s.clock.elapsed else .idle } }))
      ∧ (s.announceOut = false ∨ s.entryDue = true → ∀ lcd, acts (.announceEnded lcd) s s)
      ∧ (s.announceOut = true → s.entryDue = false → ∀ lcd,
          acts (.announceEnded lcd) s
            { s with link := { s.link with
              lcd := lcd, line := none, access := resumeAccess s.clock.elapsed lcd s.link.access
              path := if lcd then .waitQuiet s.clock.elapsed else .idle } }))
    ∧ (∀ (f : TxFrame) (s : State),
        s.headFits f = true ↔
          s.mayTransmit = true ∧ ∃ z, s.clock.zone = some z ∧ 4000 ≤ z % 32000
            ∧ (8 + (bodyBytes f.body).length) * 10 * 1000 ≤ (32000 - z % 32000) * 19200)
    ∧ (∀ (f : TxFrame) (s : State),
        (f.placer = .intake →
            (∀ i, s.repl.intake = some i → i.placed = true →
                noticeSent f s =
                    serve (requestIntake
                      { s with repl := { s.repl with
                        intake := some { i with phase := .receiving, progress := s.clock.elapsed, placed := false } } })
                  ∧ noticeDropped f s =
                      { s with repl := { s.repl with intake := some { i with placed := false } } })
              ∧ (s.repl.intake = none ∨ (∃ i, s.repl.intake = some i ∧ i.placed = false) →
                  noticeSent f s = serve (requestIntake s)
                    ∧ noticeDropped f s = requestIntake s))
          ∧ (f.placer = .supply →
              (s.repl.supply = [] → noticeSent f s = serve (requestIntake s) ∧ noticeDropped f s = s)
                ∧ ∀ e rest, s.repl.supply = e :: rest →
                    noticeDropped f s =
                        serve { s with repl := { s.repl with supply := { e with placed := false } :: rest } }
                      ∧ (e.placed = false → noticeSent f s = serve (requestIntake s))
                      ∧ (e.placed = true →
                          (e.next + 1 < s.framesOf e →
                              noticeSent f s =
                                serve (requestIntake
                                  { s with repl := { s.repl with
                                    supply :=
                                      { e with next := e.next + 1, placed := false, sentHigh := e.placedHigh } :: rest } }))
                            ∧ (s.framesOf e ≤ e.next + 1 →
                                (rest = [] →
                                    noticeSent f s =
                                      serve (requestIntake { s with repl := { s.repl with supply := [] } }))
                                  ∧ ∀ x more, rest = x :: more →
                                      noticeSent f s =
                                        serve (requestIntake
                                          { s with repl := { s.repl with
                                            supply := { x with series := x.series.or (s.fixedSeries x) } :: more } }))))
          ∧ (∀ first last, f.placer = .report first last →
              noticeSent f s =
                  serve (requestIntake
                    { s with rounds := { s.rounds with
                      log := s.rounds.log.map fun r =>
                        if r.data.firstSeg == first && r.data.lastSeg == last then { r with due := false } else r } })
                ∧ noticeDropped f s =
                    { s with rounds := { s.rounds with
                      log := s.rounds.log.map fun r =>
                        if r.data.firstSeg == first && r.data.lastSeg == last then { r with held := true } else r } })
          ∧ (f.placer = .other → noticeSent f s = serve (requestIntake s) ∧ noticeDropped f s = s))
    ∧ (∀ (e : SupplyEntry) (s : State),
        (∀ obj key img, e.item = .image obj key → s.heldImage obj key = some img →
            s.framesOf e = (img.length + 95) / 96)
          ∧ ∀ ser, (∃ c, e.item = .faults c) ∨ e.item = .usage → e.series = some ser → s.framesOf e = ser.parts)
    ∧ ∀ (body : FrameBody) (n elapsed : Nat) (lcd : Bool) (a : Access),
        frameLength body = 8 + (bodyBytes body).length
          ∧ n * 10 * 1000 ≤ lineMs n * 19200 ∧ (∀ ms, n * 10 * 1000 ≤ ms * 19200 → lineMs n ≤ ms)
          ∧ (∀ ran, resumeAccess elapsed lcd (.paused ran) = .backoff (elapsed - ran))
          ∧ resumeAccess elapsed true .waitIdle = .waitIdle ∧ resumeAccess elapsed false .waitIdle = .backoff elapsed
          ∧ ((∀ ran, a ≠ .paused ran) → a ≠ .waitIdle → resumeAccess elapsed lcd a = a)

/-- The receive path: a byte begins or joins the frame in collection, a bad stop bit or a length above 112 abandons it, and
the byte that completes it takes the frame through the filters: one from the own number is judged for DUPLICATE_NUMBER, one
that passes them counts as addressed where it is and goes to the waiting place where that is free. A gap of more than 3 ms
abandons a frame, and quiet of 3 ms ends the wait for quiet; a byte after either begins a frame. A byte is part of another
transmission, so LCD is high with it; both lines are disregarded while the part transmits (R17, R18, R19, R20, R21, R23). That
a byte's instant is a whole millisecond, its start bit a byte's line time earlier, that it sets LCD high, that the quiet after
a gap runs from the last byte, that a frame discarded for want of a place leaves its sender's last-heard time as it was, and
that the gap and quiet rows change nothing before their instant, are the model's choice (log entries 3, 5, 11, 12, 43, 69). -/
def Obligations.BytesReceived : Prop :=
  ∀ s : State, s.port.resetHigh = true →
    (s.link.line.isSome = true → ∀ b ok, acts (.byteReceived b ok) s s)
      ∧ (s.link.line = none → s.setupDone = false ∨ s.link.receiver = false → ∀ b ok,
          acts (.byteReceived b ok) s { s with link := { s.link with lcd := true } })
      ∧ (s.link.line = none → s.setupDone = true → s.link.receiver = true → ∀ b now, now = s.clock.elapsed →
          (s.link.path = .idle ∨ (∃ since, s.link.path = .waitQuiet since ∧ since + 3 ≤ now)
              ∨ (∃ bytes start last, s.link.path = .collecting bytes start last ∧ last + 4 ≤ now) →
              acts (.byteReceived b true) s
                  { s with link := { s.link with lcd := true, path := .collecting [b] (now - lineMs 1) now } }
                ∧ acts (.byteReceived b false) s
                    { s with link := { s.link with lcd := true, path := .waitQuiet now } })
            ∧ (∀ since, s.link.path = .waitQuiet since → now < since + 3 → ∀ ok,
                acts (.byteReceived b ok) s { s with link := { s.link with lcd := true, path := .waitQuiet now } })
            ∧ (∀ bs bytes start last, s.link.path = .collecting bytes start last → now < last + 4 → bs = bytes ++ [b] →
                (∀ ok, ok = false ∨ (6 ≤ bs.length ∧ 112 < fieldAt bs 5 1) →
                    acts (.byteReceived b ok) s
                      { s with link := { s.link with lcd := true, path := .waitQuiet now } })
                  ∧ (bs.length < 6 ∨ (fieldAt bs 5 1 ≤ 112 ∧ bs.length ≠ 8 + fieldAt bs 5 1) →
                      acts (.byteReceived b true) s
                        { s with link := { s.link with lcd := true, path := .collecting bs start now } })
                  ∧ (6 ≤ bs.length → fieldAt bs 5 1 ≤ 112 → bs.length = 8 + fieldAt bs 5 1 → ∀ u,
                      u = { s with link := { s.link with lcd := true, path := .idle } } →
                        (filterBytes s.zoneNo s.own bs = .inl .sender →
                            acts (.byteReceived b true) s (ownNumberHeard u))
                          ∧ (∀ st, filterBytes s.zoneNo s.own bs = .inl st → st ≠ .sender →
                              acts (.byteReceived b true) s u)
                          ∧ ∀ h body, filterBytes s.zoneNo s.own bs = .inr (h, body) →
                              (s.link.waiting = none →
                                  acts (.byteReceived b true) s
                                    { u with link := { u.link with
                                      addressedAt :=
                                        if h.dest = s.own ∧ s.link.handing = false then some now
                                        else s.link.addressedAt
                                      waiting := some { bytes := bs, start := start, finish := now } } })
                                ∧ (s.link.waiting.isSome = true →
                                    acts (.byteReceived b true) s
                                      { u with link := { u.link with
                                        addressedAt :=
                                          if h.dest = s.own ∧ s.link.handing = false then some now
                                          else s.link.addressedAt } }))))
      ∧ (∀ bytes start last, s.link.path = .collecting bytes start last →
          acts .lineQuiet s s
            ∧ (last + 4 ≤ s.clock.elapsed →
                acts .receiveGapTimeout s { s with link := { s.link with path := .waitQuiet last } })
            ∧ (s.clock.elapsed < last + 4 → acts .receiveGapTimeout s s))
      ∧ (∀ since, s.link.path = .waitQuiet since →
          acts .receiveGapTimeout s s
            ∧ (since + 3 ≤ s.clock.elapsed → acts .lineQuiet s { s with link := { s.link with path := .idle } })
            ∧ (s.clock.elapsed < since + 3 → acts .lineQuiet s s))
      ∧ (s.link.path = .idle → acts .receiveGapTimeout s s ∧ acts .lineQuiet s s)

/-- Four durations that run out: an intake without progress for 3 s counts a timeout, asks again and gives its provider up at
the third, which leaves the entry's candidates for its excluded set and counts anew (R39, R44); a peer unheard for 256 s, and
for 24 h where it was DORMANT, is SILENT, leaves every candidate list and is told to the fault unit (R28, R29, R39); a section
behind for an hour raises PERMIT_STALE at a machine, once (R109); a visit of 600 s expires with the door closed (R145). Before
that, each changes nothing. That an undue row has no effect, that a peer leaves the candidate lists at this row, and that it
does so before the fault unit is told, are the model's choice or reading (log entries 3, 15, 61). -/
def Obligations.DurationsRunOut : Prop :=
  (∀ s : State, s.port.resetHigh = true →
    (s.repl.intake = none → acts .intakeProgressTimeout s s)
      ∧ (∀ i, s.repl.intake = some i →
          (i.phase = .requesting ∨ s.clock.elapsed < i.progress + 3000 → acts .intakeProgressTimeout s s)
            ∧ (i.phase = .receiving → i.progress + 3000 ≤ s.clock.elapsed → ∀ n,
                n = ((s.wantOf i.obj).map (·.timeouts)).getD 0 + 1 →
                  (n < 3 →
                      acts .intakeProgressTimeout s
                        (requestIntake
                          (mapWant i.obj (fun w => { w with timeouts := n })
                            { s with repl := { s.repl with
                              intake := some { i with phase := .requesting, placed := false } } })))
                    ∧ (3 ≤ n →
                        acts .intakeProgressTimeout s (updateIntake (mapWant i.obj (excludePeer i.provider) s)))))
      ∧ (∀ n, s.peer n = none → acts (.peerSilence n) s s)
      ∧ (∀ n p, s.peer n = some p →
          (s.power.state = .dormant ∨ s.clock.elapsed < p.lastHeard + 256000 ∨ p.status = .silent →
              acts (.peerSilence n) s s)
            ∧ (∀ t, p.status = .dormant → p.dormantHeard = some t → s.clock.elapsed < t + 86400000 →
                acts (.peerSilence n) s s)
            ∧ (s.power.state ≠ .dormant → p.lastHeard + 256000 ≤ s.clock.elapsed →
                p.status = .live
                    ∨ (p.status = .dormant ∧ ∃ t, p.dormantHeard = some t ∧ t + 86400000 ≤ s.clock.elapsed) →
                  acts (.peerSilence n) s
                    (faultStatusNotice n .silent
                      (dropCandidate n
                        { s with link := { s.link with
                          peers := s.link.peers.map fun q =>
                            if q.station == n then { q with status := .silent } else q } }))))
      ∧ (∀ i p, p = s.sectionAt i →
          (p.behindSince = none ∨ p.staleRaised = true → acts (.sectionBehindExpiry i) s s)
            ∧ ∀ t, p.behindSince = some t →
                (s.clock.elapsed < t + 3600000 → acts (.sectionBehindExpiry i) s s)
                  ∧ (p.staleRaised = false → t + 3600000 ≤ s.clock.elapsed → ∀ u,
                      u =
                        { s with permits := { s.permits with
                          sections := s.permits.sections.set i { p with staleRaised := true } } } →
                        acts (.sectionBehindExpiry i) s (if s.isMachine then raiseFault .permitStale 0 u else u)))
      ∧ (s.rounds.ctx.state ≠ .visited ∨ s.doorOpen = true → acts .visitPeriodExpiry s s)
      ∧ ∀ t, s.rounds.ctx.visitStart = some t →
          (s.clock.elapsed < t + 600000 → acts .visitPeriodExpiry s s)
            ∧ (s.rounds.ctx.state = .visited → s.doorOpen = false → t + 600000 ≤ s.clock.elapsed →
                acts .visitPeriodExpiry s
                  (postEvent (.visitExpired s.rounds.ctx.round)
                    { s with rounds := { s.rounds with
                      ctx := { s.rounds.ctx with state := .opened, visitStart := none } } })))
    ∧ (∀ (obj : ImageObj) (f : WantEntry → WantEntry) (s : State),
        mapWant obj f s =
          { s with repl := { s.repl with want := s.repl.want.map fun w => if w.obj = obj then f w else w } })
    ∧ (∀ (n : Nat) (w : WantEntry),
        excludePeer n w =
          { w with cands := w.cands.filter (· != n), excluded := insertNat n w.excluded, timeouts := 0 })
    ∧ ∀ (n : Nat) (s : State),
        dropCandidate n s =
          updateIntake
            { s with repl := { s.repl with
              want := s.repl.want.map fun w => { w with cands := w.cands.filter (· != n) } } }

/-! ### Encodings -/

/-- Every frame that can be sent is read back: its bytes, taken through the filters, give the header and the body it was made
of, or are dropped at the step that the filters name (Tables 12.1 to 12.5, R20). Any other bytes are dropped: in the order of
R20 those of another zone, those whose check is not the CRC of the header and body, then those whose length byte disagrees with
their number or whose kind and body bytes spell no frame. What passes is the frame of its own bytes, but for the unused bits of
an ANNOUNCE, a FAULT_REPORT and a COLLECTION_REPORT, which are read by their fields (Tables 12.2 to 12.4, R192). The check of a
frame is the CRC over its header and body, sent high byte first. The CRC, which is also the check of an image, has the
polynomial x^16 + x^12 + x^5 + 1, is preset to H'FFFF, and takes each byte most significant bit first, without reflection or
final inversion (R192). Which fields step 3 of R20 leaves unjudged is the model's reading, and that a time whose present flag
is clear is sent as 0 its choice (log entries 23, 74). -/
def Obligations.FramesReadBack : Prop :=
  (∀ (zone own : Nat) (h : FrameHeader) (body : FrameBody), FrameHeader.fits h = true → FrameBody.fits body = true →
    filterBytes zone own (frameBytes h body) =
      match filterStep zone own h body with
      | some st => .inl st
      | none => .inr (h, body))
    ∧ crc [] = 0xFFFF#16
    ∧ (∀ (bs : List Byte) (b : Byte), crc (bs ++ [b]) = crcShift^[8] (crc bs ^^^ (b.zeroExtend 16 <<< 8)))
    ∧ (∀ c : Crc, crcShift c = if c.msb = true then (c <<< 1) ^^^ 0x1021#16 else c <<< 1)
    ∧ (∀ (h : FrameHeader) (body : FrameBody) (core : List Byte),
        core =
            be 2 h.zone ++ be 1 h.sender ++ be 1 h.dest ++ be 1 (frameCode body) ++ be 1 (bodyBytes body).length
              ++ bodyBytes body →
          frameBytes h body = core ++ be 2 (crc core).toNat)
    ∧ (∀ (zone own n : Nat) (bytes : List Byte) (h : FrameHeader), n = bytes.length - 2 →
        h = { zone := fieldAt bytes 0 2, sender := fieldAt bytes 2 1, dest := fieldAt bytes 3 1 } →
          (h.zone ≠ zone → filterBytes zone own bytes = .inl .zone)
            ∧ (h.zone = zone →
                (fieldAt bytes n 2 ≠ (crc (bytes.take n)).toNat → filterBytes zone own bytes = .inl .check)
                  ∧ (fieldAt bytes n 2 = (crc (bytes.take n)).toNat →
                      (bytes.length ≠ 8 + fieldAt bytes 5 1
                          ∨ bodyOf (fieldAt bytes 4 1) (bytesAt bytes 6 (n - 6)) = none →
                          filterBytes zone own bytes = .inl .header)
                        ∧ ∀ body, bytes.length = 8 + fieldAt bytes 5 1 →
                            bodyOf (fieldAt bytes 4 1) (bytesAt bytes 6 (n - 6)) = some body →
                              (∀ st, filterStep zone own h body = some st → filterBytes zone own bytes = .inl st)
                                ∧ (filterStep zone own h body = none →
                                    filterBytes zone own bytes = .inr (h, body)))))
    ∧ (∀ (zone own : Nat) (bytes : List Byte) (h : FrameHeader) (body : FrameBody),
        filterBytes zone own bytes = .inr (h, body) →
          filterStep zone own h body = none ∧ (frameCode body ∉ [1, 8, 14] → bytes = frameBytes h body))
    ∧ (∀ (k : Nat) (b : List Byte) (body : FrameBody),
        (bodyOf k b = some body → frameCode body = k)
          ∧ (k ∉ [1, 8, 14] →
              (bodyOf k b = some body ↔ frameCode body = k ∧ bodyBytes body = b ∧ FrameBody.fits body = true)))
    ∧ (∀ (b : List Byte) (a : AnnounceBody), bodyOf 1 b = some (.announce a) ↔
        b.length = 56
          ∧ ([Role.fixed, .gateway, .collector, .engineer][fieldAt b 0 1 - 1]? = some a.role ∧ fieldAt b 0 1 ≠ 0)
          ∧ a.zoneSec = fieldAt b 1 4 ∧ a.zoneMs = fieldAt b 5 2
          ∧ a.quality = (if fieldAt b 7 1 ≤ 3 then some (fieldAt b 7 1) else none)
          ∧ a.dormant = (fieldAt b 8 1).testBit 0 ∧ a.hostAwake = (fieldAt b 8 1).testBit 1
          ∧ a.reports = (fieldAt b 8 1).testBit 2
          ∧ a.active = keyAt b 9 ∧ fieldAt b 11 1 ≤ 32 ∧ a.pending = keyAt b 12 ∧ fieldAt b 14 1 ≤ 32
          ∧ a.pendingEff = fieldAt b 15 4 ∧ a.sections = (List.range 8).map (fun i => keyAt b (19 + 3 * i))
          ∧ a.faultCtr = fieldAt b 43 4 ∧ a.usageCtr = fieldAt b 47 2 ∧ a.usageDay = fieldAt b 49 2
          ∧ a.due = fieldAt b 51 1 ∧ a.round = fieldAt b 52 2
          ∧ a.collector = (if fieldAt b 54 1 = 0 then none else some (fieldAt b 54 1))
          ∧ [RoundState.idle, .opened, .visited, .removed, .reported][fieldAt b 55 1]? = some a.roundState)
    ∧ (∀ (b : List Byte) (e : Nat), e = fieldAt b 11 1 →
        (∀ start endPoint part parts entries,
            bodyOf 8 b = some (.faultReport (.series ⟨start, endPoint, parts⟩ part entries)) ↔
              b.length = 12 + 17 * e ∧ e ≤ 4 ∧ fieldAt b 0 1 = 1 ∧ start = fieldAt b 1 4 ∧ endPoint = fieldAt b 5 4
                ∧ part = fieldAt b 9 1 ∧ parts = fieldAt b 10 1 ∧ entries.length = e
                ∧ ∀ i x, entries[i]? = some x → faultEntryOf (bytesAt b (12 + 17 * i) 17) = some x)
          ∧ ∀ counter x, bodyOf 8 b = some (.faultReport (.single counter x)) ↔
              b.length = 29 ∧ e = 1 ∧ fieldAt b 0 1 = 2 ∧ fieldAt b 1 4 = 0 ∧ counter = fieldAt b 5 4
                ∧ fieldAt b 9 2 = 0 ∧ faultEntryOf (bytesAt b 12 17) = some x)
    ∧ (∀ (b : List Byte) (x : FaultEntry), faultEntryOf b = some x ↔
        x.owner = fieldAt b 0 1 ∧ faultCode x.kind = fieldAt b 1 1 ∧ x.subject = fieldAt b 2 1
          ∧ ([FaultState.raised, .acknowledged, .cleared][fieldAt b 3 1 % 4 - 1]? = some x.state ∧ fieldAt b 3 1 % 4 ≠ 0)
          ∧ x.firstRaised = (if (fieldAt b 3 1).testBit 6 = true then some (fieldAt b 4 4) else none)
          ∧ x.lastRaised = (if (fieldAt b 3 1).testBit 7 = true then some (fieldAt b 8 4) else none)
          ∧ x.occurrences = fieldAt b 12 1 ∧ x.change = fieldAt b 13 4)
    ∧ (∀ (b : List Byte) (d : CollectionData), bodyOf 14 b = some (.collectionReport d) ↔
        b.length = 61 ∧ d.firstSeg = fieldAt b 0 2 ∧ d.lastSeg = fieldAt b 2 2 ∧ d.round = fieldAt b 4 2
          ∧ d.counts = (List.range 8).map (fun i => fieldAt b (6 + 4 * i) 4) ∧ d.coinTotal = fieldAt b 38 4
          ∧ d.totalValue = fieldAt b 42 6 ∧ d.firstSeq = fieldAt b 48 4 ∧ d.lastSeq = fieldAt b 52 4
          ∧ d.removal = (if (fieldAt b 60 1).testBit 2 = true then some (fieldAt b 56 4) else none)
          ∧ d.attended = (fieldAt b 60 1).testBit 0 ∧ d.mixed = (fieldAt b 60 1).testBit 1)
    ∧ ∀ (b : List Byte) (off : Nat),
        keyAt b off = if fieldAt b off 2 = 0 then none else some ⟨fieldAt b off 2, fieldAt b (off + 2) 1⟩

/-- Every permit record, tariff set and section that its layout can carry is read back from its image (Tables 12.5 and 12.6).
The fragments that serve an image, put together in the order of their indices, are the image: each but the last carries 96
bytes, and their number is the fragment count (R43, R50, Table 3.1). A fragment accepted joins the intake's bytes; the last
one completes the image, whose check failing counts a failure of the provider, and whose store's answer ends the intake,
declines the key or excludes the provider (R43, R47). A failure raises the entry's timeout count: below 3 the same provider is
asked again, at 3 it is excluded; a declined key stands as the object's declined key, and its want entry is gone (R40, R44,
R47). That an accepted fragment makes a waiting REQUEST stale is the model's choice (log entry 55). -/
def Obligations.ImagesReadBack : Prop :=
  ((∀ r : PermitRec, PermitRec.fits r = true → (permitBytes r).length = 24 ∧ permitOf (permitBytes r) = some r)
    ∧ (∀ t : TariffSet, TariffSet.fits t = true → (tariffImage t).length = 324 ∧ tariffOf (tariffImage t) = some t)
    ∧ ∀ (i : Nat) (p : PermitSection), i ≤ 7 → sectionFits p = true →
        (sectionImage i p).length = 8 + 24 * p.records.length
          ∧ sectionOf (sectionImage i p) = some (i, p.key, p.closed, p.records))
    ∧ (∀ img : List Byte,
    (List.range (fragmentCount img.length)).flatMap (fun j => bytesAt img (96 * j) 96) = img
      ∧ ∀ j, j < fragmentCount img.length →
          (bytesAt img (96 * j) 96).length = fragmentBytes img.length (fragmentCount img.length) j)
    ∧ (∀ (i : Intake) (n : Nat) (s : State), n = ((s.wantOf i.obj).map (·.timeouts)).getD 0 + 1 →
        (n < 3 →
            countFailure i s =
              requestIntake
                { s with repl := { s.repl with
                  intake := some { i with phase := .requesting, placed := false }
                  want := s.repl.want.map fun w => if w.obj == i.obj then { w with timeouts := n } else w } })
          ∧ (3 ≤ n →
              countFailure i s = excludeProvider i { s with repl := { s.repl with intake := some i } }))
    ∧ (∀ (obj : ImageObj) (key : Key) (s : State),
        declineKey obj key s =
          updateIntake
            { s with repl := { s.repl with
              declined := (obj, key) :: s.repl.declined.filter (fun x => x.1 != obj)
              want := s.repl.want.filter (fun w => w.obj != obj) } })
    ∧ (∀ (i j : Intake) (f : FragmentBody) (s u : State),
        j =
          { i with
            next := i.next + 1, info := some { count := f.count, length := f.length, check := f.check }
            bytes := i.bytes ++ f.data, progress := s.clock.elapsed, phase := .receiving, placed := false } →
          u =
            { s with repl := { s.repl with
              intake := some j
              want := s.repl.want.map fun w => if w.obj == i.obj then { w with timeouts := 0 } else w } } →
            (i.next + 1 ≠ f.count → takeFragment i f s = u)
              ∧ (i.next + 1 = f.count →
                  (crc j.bytes ≠ f.check →
                      takeFragment i f s = countFailure { j with bytes := [], info := none, next := 0 } u)
                    ∧ (crc j.bytes = f.check → ∀ t o,
                        storeImage j { u with repl := { u.repl with intake := none } } = (t, o) →
                          (o = .installed → takeFragment i f s = updateIntake t)
                            ∧ (o = .declined → takeFragment i f s = declineKey i.obj i.key t)
                            ∧ (o = .invalid → takeFragment i f s = excludeProvider j t))))
    ∧ ∀ (i : Intake) (n : Nat) (s : State),
        (i.obj = .tariff → storeImage i s = tariffImageIn i.key i.bytes i.provider s)
          ∧ (i.obj = .sect n → storeImage i s = sectionImageIn n i.key i.bytes i.provider s)
end

