-- ==== Sys2Proof/Laws/State.lean ====
section
/-! SUPPORT. What each plain update of the state leaves in each of its fields: one equation per field, true by definition. -/

namespace Sys2Proof.Machine

@[simp] theorem noteCounterChange_fields (s : State) :
    (noteCounterChange s).clock = s.clock ∧ (noteCounterChange s).link = { s.link with changedAt := some s.clock.elapsed } ∧
      (noteCounterChange s).repl = s.repl ∧ (noteCounterChange s).tariff = s.tariff ∧
      (noteCounterChange s).sales = s.sales ∧ (noteCounterChange s).permits = s.permits ∧
      (noteCounterChange s).cash = s.cash ∧ (noteCounterChange s).rounds = s.rounds ∧
      (noteCounterChange s).faults = s.faults ∧ (noteCounterChange s).sense = s.sense ∧
      (noteCounterChange s).power = s.power ∧ (noteCounterChange s).port = s.port ∧
      (noteCounterChange s).pending = s.pending :=
  ⟨rfl, rfl, rfl, rfl, rfl, rfl, rfl, rfl, rfl, rfl, rfl, rfl, rfl⟩

/-- A change noted where there is one touches `changedAt` alone. -/
@[simp] theorem noteIf_fields (p : Prop) [Decidable p] (s : State) :
    (noteIf p s).clock = s.clock ∧
      (noteIf p s).link = { s.link with changedAt := if p then some s.clock.elapsed else s.link.changedAt } ∧
      (noteIf p s).repl = s.repl ∧ (noteIf p s).tariff = s.tariff ∧ (noteIf p s).sales = s.sales ∧
      (noteIf p s).permits = s.permits ∧ (noteIf p s).cash = s.cash ∧ (noteIf p s).rounds = s.rounds ∧
      (noteIf p s).faults = s.faults ∧ (noteIf p s).sense = s.sense ∧ (noteIf p s).power = s.power ∧
      (noteIf p s).port = s.port ∧ (noteIf p s).pending = s.pending := by
  unfold noteIf
  split <;> exact ⟨rfl, rfl, rfl, rfl, rfl, rfl, rfl, rfl, rfl, rfl, rfl, rfl, rfl⟩

@[simp] theorem setSection_fields (i : Nat) (p : PermitSection) (s : State) :
    (setSection i p s).clock = s.clock ∧ (setSection i p s).link = s.link ∧ (setSection i p s).repl = s.repl ∧
      (setSection i p s).tariff = s.tariff ∧ (setSection i p s).sales = s.sales ∧
      (setSection i p s).permits = { s.permits with sections := s.permits.sections.set i p } ∧
      (setSection i p s).cash = s.cash ∧ (setSection i p s).rounds = s.rounds ∧
      (setSection i p s).faults = s.faults ∧ (setSection i p s).sense = s.sense ∧
      (setSection i p s).power = s.power ∧ (setSection i p s).port = s.port ∧
      (setSection i p s).pending = s.pending :=
  ⟨rfl, rfl, rfl, rfl, rfl, rfl, rfl, rfl, rfl, rfl, rfl, rfl, rfl⟩

@[simp] theorem setIntake_fields (i : Option Intake) (s : State) :
    (setIntake i s).clock = s.clock ∧ (setIntake i s).link = s.link ∧
      (setIntake i s).repl = { s.repl with intake := i } ∧ (setIntake i s).tariff = s.tariff ∧
      (setIntake i s).sales = s.sales ∧ (setIntake i s).permits = s.permits ∧ (setIntake i s).cash = s.cash ∧
      (setIntake i s).rounds = s.rounds ∧ (setIntake i s).faults = s.faults ∧ (setIntake i s).sense = s.sense ∧
      (setIntake i s).power = s.power ∧ (setIntake i s).port = s.port ∧ (setIntake i s).pending = s.pending :=
  ⟨rfl, rfl, rfl, rfl, rfl, rfl, rfl, rfl, rfl, rfl, rfl, rfl, rfl⟩

@[simp] theorem setSupply_fields (q : List SupplyEntry) (s : State) :
    (setSupply q s).clock = s.clock ∧ (setSupply q s).link = s.link ∧
      (setSupply q s).repl = { s.repl with supply := q } ∧ (setSupply q s).tariff = s.tariff ∧
      (setSupply q s).sales = s.sales ∧ (setSupply q s).permits = s.permits ∧ (setSupply q s).cash = s.cash ∧
      (setSupply q s).rounds = s.rounds ∧ (setSupply q s).faults = s.faults ∧ (setSupply q s).sense = s.sense ∧
      (setSupply q s).power = s.power ∧ (setSupply q s).port = s.port ∧ (setSupply q s).pending = s.pending :=
  ⟨rfl, rfl, rfl, rfl, rfl, rfl, rfl, rfl, rfl, rfl, rfl, rfl, rfl⟩

@[simp] theorem setFaultPos_fields (p : FaultPos) (s : State) :
    (setFaultPos p s).clock = s.clock ∧ (setFaultPos p s).link = s.link ∧ (setFaultPos p s).repl = s.repl ∧
      (setFaultPos p s).tariff = s.tariff ∧ (setFaultPos p s).sales = s.sales ∧
      (setFaultPos p s).permits = s.permits ∧ (setFaultPos p s).cash = s.cash ∧
      (setFaultPos p s).rounds = s.rounds ∧
      (setFaultPos p s).faults = { s.faults with positions := p :: s.faults.positions.filter (·.owner != p.owner) } ∧
      (setFaultPos p s).sense = s.sense ∧ (setFaultPos p s).power = s.power ∧ (setFaultPos p s).port = s.port ∧
      (setFaultPos p s).pending = s.pending :=
  ⟨rfl, rfl, rfl, rfl, rfl, rfl, rfl, rfl, rfl, rfl, rfl, rfl, rfl⟩

@[simp] theorem setUsagePos_fields (p : UsagePos) (s : State) :
    (setUsagePos p s).clock = s.clock ∧ (setUsagePos p s).link = s.link ∧ (setUsagePos p s).repl = s.repl ∧
      (setUsagePos p s).tariff = s.tariff ∧ (setUsagePos p s).sales = s.sales ∧
      (setUsagePos p s).permits = { s.permits with positions := p :: s.permits.positions.filter (·.owner != p.owner) } ∧
      (setUsagePos p s).cash = s.cash ∧ (setUsagePos p s).rounds = s.rounds ∧ (setUsagePos p s).faults = s.faults ∧
      (setUsagePos p s).sense = s.sense ∧ (setUsagePos p s).power = s.power ∧ (setUsagePos p s).port = s.port ∧
      (setUsagePos p s).pending = s.pending :=
  ⟨rfl, rfl, rfl, rfl, rfl, rfl, rfl, rfl, rfl, rfl, rfl, rfl, rfl⟩

@[simp] theorem setTariff_fields (t : Tariff) (s : State) :
    (setTariff t s).clock = s.clock ∧ (setTariff t s).link = s.link ∧ (setTariff t s).repl = s.repl ∧
      (setTariff t s).tariff = t ∧ (setTariff t s).sales = s.sales ∧ (setTariff t s).permits = s.permits ∧
      (setTariff t s).cash = s.cash ∧ (setTariff t s).rounds = s.rounds ∧ (setTariff t s).faults = s.faults ∧
      (setTariff t s).sense = s.sense ∧ (setTariff t s).power = s.power ∧ (setTariff t s).port = s.port ∧
      (setTariff t s).pending = s.pending :=
  ⟨rfl, rfl, rfl, rfl, rfl, rfl, rfl, rfl, rfl, rfl, rfl, rfl, rfl⟩

@[simp] theorem setCtx_fields (c : RoundCtx) (s : State) :
    (setCtx c s).clock = s.clock ∧ (setCtx c s).link = s.link ∧ (setCtx c s).repl = s.repl ∧
      (setCtx c s).tariff = s.tariff ∧ (setCtx c s).sales = s.sales ∧ (setCtx c s).permits = s.permits ∧
      (setCtx c s).cash = s.cash ∧ (setCtx c s).rounds = { s.rounds with ctx := c } ∧
      (setCtx c s).faults = s.faults ∧ (setCtx c s).sense = s.sense ∧ (setCtx c s).power = s.power ∧
      (setCtx c s).port = s.port ∧ (setCtx c s).pending = s.pending :=
  ⟨rfl, rfl, rfl, rfl, rfl, rfl, rfl, rfl, rfl, rfl, rfl, rfl, rfl⟩

@[simp] theorem setLog_fields (l : List LogRec) (s : State) :
    (setLog l s).clock = s.clock ∧ (setLog l s).link = s.link ∧ (setLog l s).repl = s.repl ∧
      (setLog l s).tariff = s.tariff ∧ (setLog l s).sales = s.sales ∧ (setLog l s).permits = s.permits ∧
      (setLog l s).cash = s.cash ∧ (setLog l s).rounds = { s.rounds with log := l } ∧
      (setLog l s).faults = s.faults ∧ (setLog l s).sense = s.sense ∧ (setLog l s).power = s.power ∧
      (setLog l s).port = s.port ∧ (setLog l s).pending = s.pending :=
  ⟨rfl, rfl, rfl, rfl, rfl, rfl, rfl, rfl, rfl, rfl, rfl, rfl, rfl⟩

@[simp] theorem setSheet_fields (l : List (Nat × CollectionData)) (s : State) :
    (setSheet l s).clock = s.clock ∧ (setSheet l s).link = s.link ∧ (setSheet l s).repl = s.repl ∧
      (setSheet l s).tariff = s.tariff ∧ (setSheet l s).sales = s.sales ∧ (setSheet l s).permits = s.permits ∧
      (setSheet l s).cash = s.cash ∧ (setSheet l s).rounds = { s.rounds with sheet := l } ∧
      (setSheet l s).faults = s.faults ∧ (setSheet l s).sense = s.sense ∧ (setSheet l s).power = s.power ∧
      (setSheet l s).port = s.port ∧ (setSheet l s).pending = s.pending :=
  ⟨rfl, rfl, rfl, rfl, rfl, rfl, rfl, rfl, rfl, rfl, rfl, rfl, rfl⟩

@[simp] theorem setLcd_fields (level : Bool) (s : State) :
    (setLcd level s).clock = s.clock ∧ (setLcd level s).link = { s.link with lcd := level } ∧
      (setLcd level s).repl = s.repl ∧ (setLcd level s).tariff = s.tariff ∧ (setLcd level s).sales = s.sales ∧
      (setLcd level s).permits = s.permits ∧ (setLcd level s).cash = s.cash ∧ (setLcd level s).rounds = s.rounds ∧
      (setLcd level s).faults = s.faults ∧ (setLcd level s).sense = s.sense ∧ (setLcd level s).power = s.power ∧
      (setLcd level s).port = s.port ∧ (setLcd level s).pending = s.pending :=
  ⟨rfl, rfl, rfl, rfl, rfl, rfl, rfl, rfl, rfl, rfl, rfl, rfl, rfl⟩

@[simp] theorem setAccess_fields (a : Access) (s : State) :
    (setAccess a s).clock = s.clock ∧ (setAccess a s).link = { s.link with access := a } ∧
      (setAccess a s).repl = s.repl ∧ (setAccess a s).tariff = s.tariff ∧ (setAccess a s).sales = s.sales ∧
      (setAccess a s).permits = s.permits ∧ (setAccess a s).cash = s.cash ∧ (setAccess a s).rounds = s.rounds ∧
      (setAccess a s).faults = s.faults ∧ (setAccess a s).sense = s.sense ∧ (setAccess a s).power = s.power ∧
      (setAccess a s).port = s.port ∧ (setAccess a s).pending = s.pending :=
  ⟨rfl, rfl, rfl, rfl, rfl, rfl, rfl, rfl, rfl, rfl, rfl, rfl, rfl⟩

@[simp] theorem setPath_fields (p : RxPath) (s : State) :
    (setPath p s).clock = s.clock ∧ (setPath p s).link = { s.link with path := p } ∧ (setPath p s).repl = s.repl ∧
      (setPath p s).tariff = s.tariff ∧ (setPath p s).sales = s.sales ∧ (setPath p s).permits = s.permits ∧
      (setPath p s).cash = s.cash ∧ (setPath p s).rounds = s.rounds ∧ (setPath p s).faults = s.faults ∧
      (setPath p s).sense = s.sense ∧ (setPath p s).power = s.power ∧ (setPath p s).port = s.port ∧
      (setPath p s).pending = s.pending :=
  ⟨rfl, rfl, rfl, rfl, rfl, rfl, rfl, rfl, rfl, rfl, rfl, rfl, rfl⟩

@[simp] theorem setPort_fields (p : Port) (s : State) :
    (setPort p s).clock = s.clock ∧ (setPort p s).link = s.link ∧ (setPort p s).repl = s.repl ∧
      (setPort p s).tariff = s.tariff ∧ (setPort p s).sales = s.sales ∧ (setPort p s).permits = s.permits ∧
      (setPort p s).cash = s.cash ∧ (setPort p s).rounds = s.rounds ∧ (setPort p s).faults = s.faults ∧
      (setPort p s).sense = s.sense ∧ (setPort p s).power = s.power ∧ (setPort p s).port = p ∧
      (setPort p s).pending = s.pending :=
  ⟨rfl, rfl, rfl, rfl, rfl, rfl, rfl, rfl, rfl, rfl, rfl, rfl, rfl⟩

@[simp] theorem setDraft_fields (d : Option Draft) (s : State) :
    (setDraft d s).clock = s.clock ∧ (setDraft d s).link = s.link ∧ (setDraft d s).repl = s.repl ∧
      (setDraft d s).tariff = { s.tariff with draft := d } ∧ (setDraft d s).sales = s.sales ∧
      (setDraft d s).permits = s.permits ∧ (setDraft d s).cash = s.cash ∧ (setDraft d s).rounds = s.rounds ∧
      (setDraft d s).faults = s.faults ∧ (setDraft d s).sense = s.sense ∧ (setDraft d s).power = s.power ∧
      (setDraft d s).port = s.port ∧ (setDraft d s).pending = s.pending :=
  ⟨rfl, rfl, rfl, rfl, rfl, rfl, rfl, rfl, rfl, rfl, rfl, rfl, rfl⟩

@[simp] theorem setSale_fields (r : Sale) (s : State) :
    (setSale r s).clock = s.clock ∧ (setSale r s).link = s.link ∧ (setSale r s).repl = s.repl ∧
      (setSale r s).tariff = s.tariff ∧ (setSale r s).sales = { s.sales with sale := some r } ∧
      (setSale r s).permits = s.permits ∧ (setSale r s).cash = s.cash ∧ (setSale r s).rounds = s.rounds ∧
      (setSale r s).faults = s.faults ∧ (setSale r s).sense = s.sense ∧ (setSale r s).power = s.power ∧
      (setSale r s).port = s.port ∧ (setSale r s).pending = s.pending :=
  ⟨rfl, rfl, rfl, rfl, rfl, rfl, rfl, rfl, rfl, rfl, rfl, rfl, rfl⟩

@[simp] theorem setSectionDraft_fields (d : Option SectionDraft) (s : State) :
    (setSectionDraft d s).clock = s.clock ∧ (setSectionDraft d s).link = s.link ∧
      (setSectionDraft d s).repl = s.repl ∧ (setSectionDraft d s).tariff = s.tariff ∧
      (setSectionDraft d s).sales = s.sales ∧ (setSectionDraft d s).permits = { s.permits with draft := d } ∧
      (setSectionDraft d s).cash = s.cash ∧ (setSectionDraft d s).rounds = s.rounds ∧
      (setSectionDraft d s).faults = s.faults ∧ (setSectionDraft d s).sense = s.sense ∧
      (setSectionDraft d s).power = s.power ∧ (setSectionDraft d s).port = s.port ∧
      (setSectionDraft d s).pending = s.pending :=
  ⟨rfl, rfl, rfl, rfl, rfl, rfl, rfl, rfl, rfl, rfl, rfl, rfl, rfl⟩

@[simp] theorem setGroup_fields (g : Nat) (x : SenseGroup) (s : State) :
    (setGroup g x s).clock = s.clock ∧ (setGroup g x s).link = s.link ∧ (setGroup g x s).repl = s.repl ∧
      (setGroup g x s).tariff = s.tariff ∧ (setGroup g x s).sales = s.sales ∧
      (setGroup g x s).permits = s.permits ∧ (setGroup g x s).cash = s.cash ∧ (setGroup g x s).rounds = s.rounds ∧
      (setGroup g x s).faults = s.faults ∧
      (setGroup g x s).sense = { s.sense with groups := s.sense.groups.set g x } ∧
      (setGroup g x s).power = s.power ∧ (setGroup g x s).port = s.port ∧ (setGroup g x s).pending = s.pending :=
  ⟨rfl, rfl, rfl, rfl, rfl, rfl, rfl, rfl, rfl, rfl, rfl, rfl, rfl⟩

@[simp] theorem setSupplyLevel_fields (level : Bool) (s : State) :
    (setSupplyLevel level s).clock = s.clock ∧ (setSupplyLevel level s).link = s.link ∧
      (setSupplyLevel level s).repl = s.repl ∧ (setSupplyLevel level s).tariff = s.tariff ∧
      (setSupplyLevel level s).sales = s.sales ∧ (setSupplyLevel level s).permits = s.permits ∧
      (setSupplyLevel level s).cash = s.cash ∧ (setSupplyLevel level s).rounds = s.rounds ∧
      (setSupplyLevel level s).faults = s.faults ∧ (setSupplyLevel level s).sense = s.sense ∧
      (setSupplyLevel level s).power = { s.power with supply := some level } ∧
      (setSupplyLevel level s).port = s.port ∧ (setSupplyLevel level s).pending = s.pending :=
  ⟨rfl, rfl, rfl, rfl, rfl, rfl, rfl, rfl, rfl, rfl, rfl, rfl, rfl⟩

@[simp] theorem setSupplyPin_fields (level : Bool) (s : State) :
    (setSupplyPin level s).clock = s.clock ∧
      (setSupplyPin level s).link = s.link ∧
      (setSupplyPin level s).repl = s.repl ∧
      (setSupplyPin level s).tariff = s.tariff ∧
      (setSupplyPin level s).sales = s.sales ∧
      (setSupplyPin level s).permits = s.permits ∧
      (setSupplyPin level s).cash = s.cash ∧
      (setSupplyPin level s).rounds = s.rounds ∧
      (setSupplyPin level s).faults = s.faults ∧
      (setSupplyPin level s).sense = s.sense ∧
      (setSupplyPin level s).power = { s.power with supplyPin := level } ∧
      (setSupplyPin level s).port = s.port ∧
      (setSupplyPin level s).pending = s.pending :=
  ⟨rfl, rfl, rfl, rfl, rfl, rfl, rfl, rfl, rfl, rfl, rfl, rfl, rfl⟩

@[simp] theorem setButtonPin_fields (level : Bool) (s : State) :
    (setButtonPin level s).clock = s.clock ∧
      (setButtonPin level s).link = s.link ∧
      (setButtonPin level s).repl = s.repl ∧
      (setButtonPin level s).tariff = s.tariff ∧
      (setButtonPin level s).sales = s.sales ∧
      (setButtonPin level s).permits = s.permits ∧
      (setButtonPin level s).cash = s.cash ∧
      (setButtonPin level s).rounds = s.rounds ∧
      (setButtonPin level s).faults = s.faults ∧
      (setButtonPin level s).sense = s.sense ∧
      (setButtonPin level s).power = { s.power with buttonPin := level } ∧
      (setButtonPin level s).port = s.port ∧
      (setButtonPin level s).pending = s.pending :=
  ⟨rfl, rfl, rfl, rfl, rfl, rfl, rfl, rfl, rfl, rfl, rfl, rfl, rfl⟩

@[simp] theorem setQuality_fields (q : Nat) (s : State) :
    (setQuality q s).clock = { s.clock with quality := some q, ageStart := some s.clock.elapsed } ∧
      (setQuality q s).link = s.link ∧ (setQuality q s).repl = s.repl ∧ (setQuality q s).tariff = s.tariff ∧
      (setQuality q s).sales = s.sales ∧ (setQuality q s).permits = s.permits ∧ (setQuality q s).cash = s.cash ∧
      (setQuality q s).rounds = s.rounds ∧ (setQuality q s).faults = s.faults ∧ (setQuality q s).sense = s.sense ∧
      (setQuality q s).power = s.power ∧ (setQuality q s).port = s.port ∧ (setQuality q s).pending = s.pending :=
  ⟨rfl, rfl, rfl, rfl, rfl, rfl, rfl, rfl, rfl, rfl, rfl, rfl, rfl⟩

@[simp] theorem beginHanding_fields (s : State) :
    (beginHanding s).clock = s.clock ∧ (beginHanding s).link = { s.link with waiting := none, handing := true } ∧
      (beginHanding s).repl = s.repl ∧ (beginHanding s).tariff = s.tariff ∧ (beginHanding s).sales = s.sales ∧
      (beginHanding s).permits = s.permits ∧ (beginHanding s).cash = s.cash ∧ (beginHanding s).rounds = s.rounds ∧
      (beginHanding s).faults = s.faults ∧ (beginHanding s).sense = s.sense ∧ (beginHanding s).power = s.power ∧
      (beginHanding s).port = s.port ∧ (beginHanding s).pending = s.pending :=
  ⟨rfl, rfl, rfl, rfl, rfl, rfl, rfl, rfl, rfl, rfl, rfl, rfl, rfl⟩

@[simp] theorem endHanding_fields (s : State) :
    (endHanding s).clock = s.clock ∧ (endHanding s).link = { s.link with handing := false } ∧
      (endHanding s).repl = s.repl ∧ (endHanding s).tariff = s.tariff ∧ (endHanding s).sales = s.sales ∧
      (endHanding s).permits = s.permits ∧ (endHanding s).cash = s.cash ∧ (endHanding s).rounds = s.rounds ∧
      (endHanding s).faults = s.faults ∧ (endHanding s).sense = s.sense ∧ (endHanding s).power = s.power ∧
      (endHanding s).port = s.port ∧ (endHanding s).pending = s.pending :=
  ⟨rfl, rfl, rfl, rfl, rfl, rfl, rfl, rfl, rfl, rfl, rfl, rfl, rfl⟩

@[simp] theorem tick_fields (s : State) :
    (tick s).clock = tickClock s.clock ∧ (tick s).link = s.link ∧ (tick s).repl = s.repl ∧
      (tick s).tariff = s.tariff ∧ (tick s).sales = s.sales ∧ (tick s).permits = s.permits ∧
      (tick s).cash = s.cash ∧ (tick s).rounds = s.rounds ∧ (tick s).faults = s.faults ∧ (tick s).sense = s.sense ∧
      (tick s).power = pinsAt (tickClock s.clock).elapsed s.power ∧ (tick s).port = s.port ∧ (tick s).pending = s.pending :=
  ⟨rfl, rfl, rfl, rfl, rfl, rfl, rfl, rfl, rfl, rfl, rfl, rfl, rfl⟩

@[simp] theorem popHead_fields (s : State) :
    (popHead s).clock = s.clock ∧ (popHead s).link = { s.link with tx := s.link.tx.tail, access := .off } ∧
      (popHead s).repl = s.repl ∧ (popHead s).tariff = s.tariff ∧ (popHead s).sales = s.sales ∧
      (popHead s).permits = s.permits ∧ (popHead s).cash = s.cash ∧ (popHead s).rounds = s.rounds ∧
      (popHead s).faults = s.faults ∧ (popHead s).sense = s.sense ∧ (popHead s).power = s.power ∧
      (popHead s).port = s.port ∧ (popHead s).pending = s.pending :=
  ⟨rfl, rfl, rfl, rfl, rfl, rfl, rfl, rfl, rfl, rfl, rfl, rfl, rfl⟩

@[simp] theorem overrun_fields (s : State) :
    (overrun s).clock = s.clock ∧ (overrun s).link = s.link ∧ (overrun s).repl = s.repl ∧
      (overrun s).tariff = s.tariff ∧ (overrun s).sales = s.sales ∧ (overrun s).permits = s.permits ∧
      (overrun s).cash = s.cash ∧ (overrun s).rounds = s.rounds ∧ (overrun s).faults = s.faults ∧
      (overrun s).sense = s.sense ∧ (overrun s).power = s.power ∧
      (overrun s).port = { s.port with overrunSeen := true } ∧ (overrun s).pending = s.pending :=
  ⟨rfl, rfl, rfl, rfl, rfl, rfl, rfl, rfl, rfl, rfl, rfl, rfl, rfl⟩

@[simp] theorem respond_eq (code : Nat) (st : Status) (r : Result) (u : State) :
    respond code (st, r, u) = setPort { u.port with buffer := some { status := st, code := code, result := r } } u :=
  rfl

/-- A response is placed in the buffer and touches nothing else of the state the command leaves. -/
@[simp] theorem respond_fields (code : Nat) (a : Answer) :
    (respond code a).clock = a.2.2.clock ∧ (respond code a).link = a.2.2.link ∧ (respond code a).repl = a.2.2.repl ∧
      (respond code a).tariff = a.2.2.tariff ∧ (respond code a).sales = a.2.2.sales ∧
      (respond code a).permits = a.2.2.permits ∧ (respond code a).cash = a.2.2.cash ∧
      (respond code a).rounds = a.2.2.rounds ∧ (respond code a).faults = a.2.2.faults ∧
      (respond code a).sense = a.2.2.sense ∧ (respond code a).power = a.2.2.power ∧
      (respond code a).pending = a.2.2.pending ∧
      (respond code a).port = { a.2.2.port with buffer := some ⟨a.1, code, a.2.1⟩ } := by
  simp [respond]

end Sys2Proof.Machine
end

