-- ==== Sys2Proof/Laws/Frames.lean ====
section
/-! SUPPORT. What each operation leaves unchanged among the clock, the queue of commands, the sale unit and the tariff store
(of an operation that changes the store, the pin alone), the Setup record, the home, the RESET_N level and the response buffer. -/

namespace Sys2Proof.Machine

theorem foldl_keeps {β γ : Type} (g : State → γ) (f : State → β → State) (h : ∀ t x, g (f t x) = g t) (l : List β) (s : State) :
    g (l.foldl f s) = g s := by
  induction l generalizing s with
  | nil => rfl
  | cons x xs ih => simp [List.foldl, ih, h]

@[simp] theorem postEvent_keeps (e : Event) (s : State) :
    (postEvent e s).clock = s.clock ∧ (postEvent e s).pending = s.pending ∧ (postEvent e s).sales = s.sales ∧
      (postEvent e s).tariff = s.tariff ∧ (postEvent e s).port.setup = s.port.setup ∧
      (postEvent e s).port.home = s.port.home ∧ (postEvent e s).port.resetHigh = s.port.resetHigh ∧
      (postEvent e s).port.buffer = s.port.buffer := by
  simp [postEvent]

@[simp] theorem place_keeps (placer : Placer) (dest : Nat) (body : FrameBody) (s : State) :
    (place placer dest body s).clock = s.clock ∧ (place placer dest body s).pending = s.pending ∧
      (place placer dest body s).sales = s.sales ∧ (place placer dest body s).tariff = s.tariff ∧
      (place placer dest body s).port.setup = s.port.setup ∧ (place placer dest body s).port.home = s.port.home ∧
      (place placer dest body s).port.resetHigh = s.port.resetHigh ∧
      (place placer dest body s).port.buffer = s.port.buffer := by
  unfold place; split <;> simp

@[simp] theorem startAccess_keeps (s : State) :
    (startAccess s).clock = s.clock ∧ (startAccess s).pending = s.pending ∧ (startAccess s).sales = s.sales ∧
      (startAccess s).tariff = s.tariff ∧ (startAccess s).port.setup = s.port.setup ∧
      (startAccess s).port.home = s.port.home ∧ (startAccess s).port.resetHigh = s.port.resetHigh ∧
      (startAccess s).port.buffer = s.port.buffer := by
  unfold startAccess; split <;> simp

@[simp] theorem startTransmission_keeps (line : OnLine) (s : State) :
    (startTransmission line s).clock = s.clock ∧ (startTransmission line s).pending = s.pending ∧
      (startTransmission line s).sales = s.sales ∧ (startTransmission line s).tariff = s.tariff ∧
      (startTransmission line s).port.setup = s.port.setup ∧ (startTransmission line s).port.home = s.port.home ∧
      (startTransmission line s).port.resetHigh = s.port.resetHigh ∧
      (startTransmission line s).port.buffer = s.port.buffer := by
  simp [startTransmission]

@[simp] theorem takeUpChannel_keeps (s : State) :
    (takeUpChannel s).clock = s.clock ∧ (takeUpChannel s).pending = s.pending ∧ (takeUpChannel s).sales = s.sales ∧
      (takeUpChannel s).tariff = s.tariff ∧ (takeUpChannel s).port.setup = s.port.setup ∧
      (takeUpChannel s).port.home = s.port.home ∧ (takeUpChannel s).port.resetHigh = s.port.resetHigh ∧
      (takeUpChannel s).port.buffer = s.port.buffer := by
  simp [takeUpChannel]

@[simp] theorem postFault_keeps (e : FaultEntry) (cause : FaultCause) (after : Option FaultEntry) (s : State) :
    (postFault e cause after s).clock = s.clock ∧ (postFault e cause after s).pending = s.pending ∧
      (postFault e cause after s).sales = s.sales ∧ (postFault e cause after s).tariff = s.tariff ∧
      (postFault e cause after s).port.setup = s.port.setup ∧ (postFault e cause after s).port.home = s.port.home ∧
      (postFault e cause after s).port.resetHigh = s.port.resetHigh ∧
      (postFault e cause after s).port.buffer = s.port.buffer := by
  unfold postFault; split <;> simp

@[simp] theorem evict_keeps (e : FaultEntry) (s : State) :
    (evict e s).clock = s.clock ∧ (evict e s).pending = s.pending ∧ (evict e s).sales = s.sales ∧
      (evict e s).tariff = s.tariff ∧ (evict e s).port.setup = s.port.setup ∧
      (evict e s).port.home = s.port.home ∧ (evict e s).port.resetHigh = s.port.resetHigh ∧
      (evict e s).port.buffer = s.port.buffer := by
  simp [evict]

theorem makeRoom_keeps {b : Bool} {s t : State} (h : makeRoom b s = some t) :
    t.clock = s.clock ∧ t.pending = s.pending ∧ t.sales = s.sales ∧ t.tariff = s.tariff ∧
      t.port.setup = s.port.setup ∧ t.port.home = s.port.home ∧ t.port.resetHigh = s.port.resetHigh ∧
      t.port.buffer = s.port.buffer := by
  unfold makeRoom at h
  split at h
  · simp only [Option.some.injEq] at h
    simp [← h]
  · cases he : evictee s.own b s.faults.table with
    | none => simp [he] at h
    | some e =>
      simp [he] at h
      simp [← h]

@[simp] theorem changeOwn_keeps (e : FaultEntry) (cause : FaultCause) (s : State) :
    (changeOwn e cause s).clock = s.clock ∧ (changeOwn e cause s).pending = s.pending ∧
      (changeOwn e cause s).sales = s.sales ∧ (changeOwn e cause s).tariff = s.tariff ∧
      (changeOwn e cause s).port.setup = s.port.setup ∧ (changeOwn e cause s).port.home = s.port.home ∧
      (changeOwn e cause s).port.resetHigh = s.port.resetHigh ∧ (changeOwn e cause s).port.buffer = s.port.buffer := by
  simp [changeOwn]

theorem tryRaise_keeps {kind : FaultKind} {subject : Nat} {s t : State} (h : tryRaise kind subject s = some t) :
    t.clock = s.clock ∧ t.pending = s.pending ∧ t.sales = s.sales ∧ t.tariff = s.tariff ∧
      t.port.setup = s.port.setup ∧ t.port.home = s.port.home ∧ t.port.resetHigh = s.port.resetHigh ∧
      t.port.buffer = s.port.buffer := by
  unfold tryRaise at h
  split at h
  · cases hr : makeRoom true s with
    | none => simp [hr] at h
    | some u =>
      simp [hr] at h
      simp [← h, makeRoom_keeps hr]
  · split at h <;> (simp only [Option.some.injEq] at h; simp [← h])

@[simp] theorem raiseFault_keeps (kind : FaultKind) (subject : Nat) (s : State) :
    (raiseFault kind subject s).clock = s.clock ∧ (raiseFault kind subject s).pending = s.pending ∧
      (raiseFault kind subject s).sales = s.sales ∧ (raiseFault kind subject s).tariff = s.tariff ∧
      (raiseFault kind subject s).port.setup = s.port.setup ∧ (raiseFault kind subject s).port.home = s.port.home ∧
      (raiseFault kind subject s).port.resetHigh = s.port.resetHigh ∧
      (raiseFault kind subject s).port.buffer = s.port.buffer := by
  unfold raiseFault
  cases h : tryRaise kind subject s with
  | none => simp
  | some t => simpa using tryRaise_keeps h

@[simp] theorem clearFault_keeps (kind : FaultKind) (subject : Nat) (s : State) :
    (clearFault kind subject s).clock = s.clock ∧ (clearFault kind subject s).pending = s.pending ∧
      (clearFault kind subject s).sales = s.sales ∧ (clearFault kind subject s).tariff = s.tariff ∧
      (clearFault kind subject s).port.setup = s.port.setup ∧ (clearFault kind subject s).port.home = s.port.home ∧
      (clearFault kind subject s).port.resetHigh = s.port.resetHigh ∧
      (clearFault kind subject s).port.buffer = s.port.buffer := by
  unfold clearFault; (repeat' split) <;> simp

@[simp] theorem ackFault_keeps (kind : FaultKind) (subject : Nat) (s : State) :
    (ackFault kind subject s).clock = s.clock ∧ (ackFault kind subject s).pending = s.pending ∧
      (ackFault kind subject s).sales = s.sales ∧ (ackFault kind subject s).tariff = s.tariff ∧
      (ackFault kind subject s).port.setup = s.port.setup ∧ (ackFault kind subject s).port.home = s.port.home ∧
      (ackFault kind subject s).port.resetHigh = s.port.resetHigh ∧
      (ackFault kind subject s).port.buffer = s.port.buffer := by
  unfold ackFault; (repeat' split) <;> simp

@[simp] theorem applyCopy_keeps (sender : Nat) (e : FaultEntry) (s : State) :
    (applyCopy sender e s).clock = s.clock ∧ (applyCopy sender e s).pending = s.pending ∧
      (applyCopy sender e s).sales = s.sales ∧ (applyCopy sender e s).tariff = s.tariff ∧
      (applyCopy sender e s).port.setup = s.port.setup ∧ (applyCopy sender e s).port.home = s.port.home ∧
      (applyCopy sender e s).port.resetHigh = s.port.resetHigh ∧
      (applyCopy sender e s).port.buffer = s.port.buffer := by
  unfold applyCopy
  split
  · simp
  · split
    · split <;> simp
    · split
      · simp
      · rename_i hr
        simp [makeRoom_keeps hr]

@[simp] theorem dropCopies_keeps (owner : Nat) (s : State) :
    (dropCopies owner s).clock = s.clock ∧ (dropCopies owner s).pending = s.pending ∧
      (dropCopies owner s).sales = s.sales ∧ (dropCopies owner s).tariff = s.tariff ∧
      (dropCopies owner s).port.setup = s.port.setup ∧ (dropCopies owner s).port.home = s.port.home ∧
      (dropCopies owner s).port.resetHigh = s.port.resetHigh ∧ (dropCopies owner s).port.buffer = s.port.buffer := by
  unfold dropCopies
  dsimp only
  refine ⟨?_, ?_, ?_, ?_, ?_, ?_, ?_, ?_⟩
  · rw [foldl_keeps (fun t => t.clock) _ (by intros; simp)]
  · rw [foldl_keeps (fun t => t.pending) _ (by intros; simp)]
  · rw [foldl_keeps (fun t => t.sales) _ (by intros; simp)]
  · rw [foldl_keeps (fun t => t.tariff) _ (by intros; simp)]
  · rw [foldl_keeps (fun t => t.port.setup) _ (by intros; simp)]
  · rw [foldl_keeps (fun t => t.port.home) _ (by intros; simp)]
  · rw [foldl_keeps (fun t => t.port.resetHigh) _ (by intros; simp)]
  · rw [foldl_keeps (fun t => t.port.buffer) _ (by intros; simp)]

@[simp] theorem raiseMatching_keeps (p : PeerEntry) (s : State) :
    (raiseMatching p s).clock = s.clock ∧ (raiseMatching p s).pending = s.pending ∧
      (raiseMatching p s).sales = s.sales ∧ (raiseMatching p s).tariff = s.tariff ∧
      (raiseMatching p s).port.setup = s.port.setup ∧ (raiseMatching p s).port.home = s.port.home ∧
      (raiseMatching p s).port.resetHigh = s.port.resetHigh ∧ (raiseMatching p s).port.buffer = s.port.buffer := by
  unfold raiseMatching; (repeat' split) <;> simp

@[simp] theorem observeNewly_keeps (s : State) :
    (observeNewly s).clock = s.clock ∧ (observeNewly s).pending = s.pending ∧ (observeNewly s).sales = s.sales ∧
      (observeNewly s).tariff = s.tariff ∧ (observeNewly s).port.setup = s.port.setup ∧
      (observeNewly s).port.home = s.port.home ∧ (observeNewly s).port.resetHigh = s.port.resetHigh ∧
      (observeNewly s).port.buffer = s.port.buffer := by
  unfold observeNewly
  dsimp only
  refine ⟨?_, ?_, ?_, ?_, ?_, ?_, ?_, ?_⟩
  · rw [foldl_keeps (fun t => t.clock) _ (by intros; simp)]
  · rw [foldl_keeps (fun t => t.pending) _ (by intros; simp)]
  · rw [foldl_keeps (fun t => t.sales) _ (by intros; simp)]
  · rw [foldl_keeps (fun t => t.tariff) _ (by intros; simp)]
  · rw [foldl_keeps (fun t => t.port.setup) _ (by intros; simp)]
  · rw [foldl_keeps (fun t => t.port.home) _ (by intros; simp)]
  · rw [foldl_keeps (fun t => t.port.resetHigh) _ (by intros; simp)]
  · rw [foldl_keeps (fun t => t.port.buffer) _ (by intros; simp)]

@[simp] theorem faultStatusNotice_keeps (subject : Nat) (status : PeerStatus) (s : State) :
    (faultStatusNotice subject status s).clock = s.clock ∧
      (faultStatusNotice subject status s).pending = s.pending ∧
      (faultStatusNotice subject status s).sales = s.sales ∧
      (faultStatusNotice subject status s).tariff = s.tariff ∧
      (faultStatusNotice subject status s).port.setup = s.port.setup ∧
      (faultStatusNotice subject status s).port.home = s.port.home ∧
      (faultStatusNotice subject status s).port.resetHigh = s.port.resetHigh ∧
      (faultStatusNotice subject status s).port.buffer = s.port.buffer := by
  unfold faultStatusNotice; split <;> simp

@[simp] theorem faultAnnounceNotice_keeps (sender : Nat) (dormant : Bool) (s : State) :
    (faultAnnounceNotice sender dormant s).clock = s.clock ∧
      (faultAnnounceNotice sender dormant s).pending = s.pending ∧
      (faultAnnounceNotice sender dormant s).sales = s.sales ∧
      (faultAnnounceNotice sender dormant s).tariff = s.tariff ∧
      (faultAnnounceNotice sender dormant s).port.setup = s.port.setup ∧
      (faultAnnounceNotice sender dormant s).port.home = s.port.home ∧
      (faultAnnounceNotice sender dormant s).port.resetHigh = s.port.resetHigh ∧
      (faultAnnounceNotice sender dormant s).port.buffer = s.port.buffer := by
  unfold faultAnnounceNotice; (repeat' split) <;> simp

@[simp] theorem raiseBoxFull_keeps (now : Bool) (s : State) :
    (raiseBoxFull now s).clock = s.clock ∧ (raiseBoxFull now s).pending = s.pending ∧
      (raiseBoxFull now s).sales = s.sales ∧ (raiseBoxFull now s).tariff = s.tariff ∧
      (raiseBoxFull now s).port.setup = s.port.setup ∧ (raiseBoxFull now s).port.home = s.port.home ∧
      (raiseBoxFull now s).port.resetHigh = s.port.resetHigh ∧ (raiseBoxFull now s).port.buffer = s.port.buffer := by
  unfold raiseBoxFull; split <;> simp

@[simp] theorem clearBoxFull_keeps (s : State) :
    (clearBoxFull s).clock = s.clock ∧ (clearBoxFull s).pending = s.pending ∧ (clearBoxFull s).sales = s.sales ∧
      (clearBoxFull s).tariff = s.tariff ∧ (clearBoxFull s).port.setup = s.port.setup ∧
      (clearBoxFull s).port.home = s.port.home ∧ (clearBoxFull s).port.resetHigh = s.port.resetHigh ∧
      (clearBoxFull s).port.buffer = s.port.buffer := by
  unfold clearBoxFull; split <;> simp

@[simp] theorem raiseJournalFull_keeps (s : State) :
    (raiseJournalFull s).clock = s.clock ∧ (raiseJournalFull s).pending = s.pending ∧
      (raiseJournalFull s).sales = s.sales ∧ (raiseJournalFull s).tariff = s.tariff ∧
      (raiseJournalFull s).port.setup = s.port.setup ∧ (raiseJournalFull s).port.home = s.port.home ∧
      (raiseJournalFull s).port.resetHigh = s.port.resetHigh ∧ (raiseJournalFull s).port.buffer = s.port.buffer := by
  unfold raiseJournalFull; split <;> simp

@[simp] theorem clearJournalFull_keeps (s : State) :
    (clearJournalFull s).clock = s.clock ∧ (clearJournalFull s).pending = s.pending ∧
      (clearJournalFull s).sales = s.sales ∧ (clearJournalFull s).tariff = s.tariff ∧
      (clearJournalFull s).port.setup = s.port.setup ∧ (clearJournalFull s).port.home = s.port.home ∧
      (clearJournalFull s).port.resetHigh = s.port.resetHigh ∧ (clearJournalFull s).port.buffer = s.port.buffer := by
  unfold clearJournalFull; split <;> simp

@[simp] theorem takeOffer_keeps (r : JournalRec) (escrow : List Nat) (s : State) :
    (takeOffer r escrow s).clock = s.clock ∧ (takeOffer r escrow s).pending = s.pending ∧
      (takeOffer r escrow s).sales = s.sales ∧ (takeOffer r escrow s).tariff = s.tariff ∧
      (takeOffer r escrow s).port.setup = s.port.setup ∧ (takeOffer r escrow s).port.home = s.port.home ∧
      (takeOffer r escrow s).port.resetHigh = s.port.resetHigh ∧
      (takeOffer r escrow s).port.buffer = s.port.buffer := by
  simp [takeOffer]

@[simp] theorem cashSetup_keeps (s : State) :
    (cashSetup s).clock = s.clock ∧ (cashSetup s).pending = s.pending ∧ (cashSetup s).sales = s.sales ∧
      (cashSetup s).tariff = s.tariff ∧ (cashSetup s).port.setup = s.port.setup ∧
      (cashSetup s).port.home = s.port.home ∧ (cashSetup s).port.resetHigh = s.port.resetHigh ∧
      (cashSetup s).port.buffer = s.port.buffer := by
  unfold cashSetup; (repeat' split) <;> simp

@[simp] theorem clearStale_keeps (s : State) :
    (clearStale s).clock = s.clock ∧ (clearStale s).pending = s.pending ∧ (clearStale s).sales = s.sales ∧
      (clearStale s).tariff = s.tariff ∧ (clearStale s).port.setup = s.port.setup ∧
      (clearStale s).port.home = s.port.home ∧ (clearStale s).port.resetHigh = s.port.resetHigh ∧
      (clearStale s).port.buffer = s.port.buffer := by
  unfold clearStale; split <;> simp

@[simp] theorem judgeSection_keeps (s : State) (i : Nat) :
    (judgeSection s i).clock = s.clock ∧ (judgeSection s i).pending = s.pending ∧
      (judgeSection s i).sales = s.sales ∧ (judgeSection s i).tariff = s.tariff ∧
      (judgeSection s i).port.setup = s.port.setup ∧ (judgeSection s i).port.home = s.port.home ∧
      (judgeSection s i).port.resetHigh = s.port.resetHigh ∧ (judgeSection s i).port.buffer = s.port.buffer := by
  unfold judgeSection; dsimp only; (repeat' split) <;> simp

@[simp] theorem judgeList_keeps (is : List Nat) (s : State) :
    (judgeList is s).clock = s.clock ∧
      (judgeList is s).pending = s.pending ∧
      (judgeList is s).sales = s.sales ∧
      (judgeList is s).tariff = s.tariff ∧
      (judgeList is s).port.setup = s.port.setup ∧
      (judgeList is s).port.home = s.port.home ∧
      (judgeList is s).port.resetHigh = s.port.resetHigh ∧
      (judgeList is s).port.buffer = s.port.buffer := by
  unfold judgeList
  dsimp only
  split <;> refine ⟨?_, ?_, ?_, ?_, ?_, ?_, ?_, ?_⟩
  · rw [foldl_keeps (fun t => t.clock) _ (by intros; simp)]
  · rw [foldl_keeps (fun t => t.pending) _ (by intros; simp)]
  · rw [foldl_keeps (fun t => t.sales) _ (by intros; simp)]
  · rw [foldl_keeps (fun t => t.tariff) _ (by intros; simp)]
  · rw [foldl_keeps (fun t => t.port.setup) _ (by intros; simp)]
  · rw [foldl_keeps (fun t => t.port.home) _ (by intros; simp)]
  · rw [foldl_keeps (fun t => t.port.resetHigh) _ (by intros; simp)]
  · rw [foldl_keeps (fun t => t.port.buffer) _ (by intros; simp)]
  · simp only [clearStale_keeps]; rw [foldl_keeps (fun t => t.clock) _ (by intros; simp)]
  · simp only [clearStale_keeps]; rw [foldl_keeps (fun t => t.pending) _ (by intros; simp)]
  · simp only [clearStale_keeps]; rw [foldl_keeps (fun t => t.sales) _ (by intros; simp)]
  · simp only [clearStale_keeps]; rw [foldl_keeps (fun t => t.tariff) _ (by intros; simp)]
  · simp only [clearStale_keeps]; rw [foldl_keeps (fun t => t.port.setup) _ (by intros; simp)]
  · simp only [clearStale_keeps]; rw [foldl_keeps (fun t => t.port.home) _ (by intros; simp)]
  · simp only [clearStale_keeps]; rw [foldl_keeps (fun t => t.port.resetHigh) _ (by intros; simp)]
  · simp only [clearStale_keeps]; rw [foldl_keeps (fun t => t.port.buffer) _ (by intros; simp)]

@[simp] theorem judgeSections_keeps (s : State) :
    (judgeSections s).clock = s.clock ∧
      (judgeSections s).pending = s.pending ∧
      (judgeSections s).sales = s.sales ∧
      (judgeSections s).tariff = s.tariff ∧
      (judgeSections s).port.setup = s.port.setup ∧
      (judgeSections s).port.home = s.port.home ∧
      (judgeSections s).port.resetHigh = s.port.resetHigh ∧
      (judgeSections s).port.buffer = s.port.buffer := by
  simp [judgeSections]

@[simp] theorem addOwnUsage_keeps (permit : Nat) (day : Nat) (minutes : Nat) (s : State) :
    (addOwnUsage permit day minutes s).clock = s.clock ∧ (addOwnUsage permit day minutes s).pending = s.pending ∧
      (addOwnUsage permit day minutes s).sales = s.sales ∧
      (addOwnUsage permit day minutes s).tariff = s.tariff ∧
      (addOwnUsage permit day minutes s).port.setup = s.port.setup ∧
      (addOwnUsage permit day minutes s).port.home = s.port.home ∧
      (addOwnUsage permit day minutes s).port.resetHigh = s.port.resetHigh ∧
      (addOwnUsage permit day minutes s).port.buffer = s.port.buffer := by
  unfold addOwnUsage; split <;> simp

@[simp] theorem applyContrib_keeps (sender : Nat) (day : Nat) (s : State) (c : Nat × Nat) :
    (applyContrib sender day s c).clock = s.clock ∧ (applyContrib sender day s c).pending = s.pending ∧
      (applyContrib sender day s c).sales = s.sales ∧ (applyContrib sender day s c).tariff = s.tariff ∧
      (applyContrib sender day s c).port.setup = s.port.setup ∧
      (applyContrib sender day s c).port.home = s.port.home ∧
      (applyContrib sender day s c).port.resetHigh = s.port.resetHigh ∧
      (applyContrib sender day s c).port.buffer = s.port.buffer := by
  unfold applyContrib; (repeat' split) <;> simp

@[simp] theorem rolloverUsage_keeps (today : Nat) (s : State) :
    (rolloverUsage today s).clock = s.clock ∧ (rolloverUsage today s).pending = s.pending ∧
      (rolloverUsage today s).sales = s.sales ∧ (rolloverUsage today s).tariff = s.tariff ∧
      (rolloverUsage today s).port.setup = s.port.setup ∧ (rolloverUsage today s).port.home = s.port.home ∧
      (rolloverUsage today s).port.resetHigh = s.port.resetHigh ∧
      (rolloverUsage today s).port.buffer = s.port.buffer := by
  simp [rolloverUsage]

@[simp] theorem judgeSettled_keeps (s : State) :
    (judgeSettled s).clock = s.clock ∧ (judgeSettled s).pending = s.pending ∧ (judgeSettled s).sales = s.sales ∧
      (judgeSettled s).tariff = s.tariff ∧ (judgeSettled s).port.setup = s.port.setup ∧
      (judgeSettled s).port.home = s.port.home ∧ (judgeSettled s).port.resetHigh = s.port.resetHigh ∧
      (judgeSettled s).port.buffer = s.port.buffer := by
  unfold judgeSettled; split <;> simp

@[simp] theorem judgeWant_keeps (sender : Option Nat) (s : State) :
    (judgeWant sender s).clock = s.clock ∧ (judgeWant sender s).pending = s.pending ∧
      (judgeWant sender s).sales = s.sales ∧ (judgeWant sender s).tariff = s.tariff ∧
      (judgeWant sender s).port.setup = s.port.setup ∧ (judgeWant sender s).port.home = s.port.home ∧
      (judgeWant sender s).port.resetHigh = s.port.resetHigh ∧ (judgeWant sender s).port.buffer = s.port.buffer := by
  simp [judgeWant]

@[simp] theorem mapWant_keeps (obj : ImageObj) (f : WantEntry → WantEntry) (s : State) :
    (mapWant obj f s).clock = s.clock ∧ (mapWant obj f s).pending = s.pending ∧ (mapWant obj f s).sales = s.sales ∧
      (mapWant obj f s).tariff = s.tariff ∧ (mapWant obj f s).port.setup = s.port.setup ∧
      (mapWant obj f s).port.home = s.port.home ∧ (mapWant obj f s).port.resetHigh = s.port.resetHigh ∧
      (mapWant obj f s).port.buffer = s.port.buffer := by
  simp [mapWant]

@[simp] theorem beginHead_keeps (s : State) :
    (beginHead s).clock = s.clock ∧ (beginHead s).pending = s.pending ∧ (beginHead s).sales = s.sales ∧
      (beginHead s).tariff = s.tariff ∧ (beginHead s).port.setup = s.port.setup ∧
      (beginHead s).port.home = s.port.home ∧ (beginHead s).port.resetHigh = s.port.resetHigh ∧
      (beginHead s).port.buffer = s.port.buffer := by
  simp [beginHead]

@[simp] theorem forgetTimeouts_keeps (i : Intake) (s : State) :
    (forgetTimeouts i s).clock = s.clock ∧
      (forgetTimeouts i s).pending = s.pending ∧
      (forgetTimeouts i s).sales = s.sales ∧
      (forgetTimeouts i s).tariff = s.tariff ∧
      (forgetTimeouts i s).port.setup = s.port.setup ∧
      (forgetTimeouts i s).port.home = s.port.home ∧
      (forgetTimeouts i s).port.resetHigh = s.port.resetHigh ∧
      (forgetTimeouts i s).port.buffer = s.port.buffer := by
  unfold forgetTimeouts; split <;> simp

@[simp] theorem followHead_keeps (i : Intake) (s : State) :
    (followHead i s).clock = s.clock ∧
      (followHead i s).pending = s.pending ∧
      (followHead i s).sales = s.sales ∧
      (followHead i s).tariff = s.tariff ∧
      (followHead i s).port.setup = s.port.setup ∧
      (followHead i s).port.home = s.port.home ∧
      (followHead i s).port.resetHigh = s.port.resetHigh ∧
      (followHead i s).port.buffer = s.port.buffer := by
  unfold followHead; (repeat' split) <;> simp

@[simp] theorem followIntake_keeps (s : State) :
    (followIntake s).clock = s.clock ∧ (followIntake s).pending = s.pending ∧ (followIntake s).sales = s.sales ∧
      (followIntake s).tariff = s.tariff ∧ (followIntake s).port.setup = s.port.setup ∧
      (followIntake s).port.home = s.port.home ∧ (followIntake s).port.resetHigh = s.port.resetHigh ∧
      (followIntake s).port.buffer = s.port.buffer := by
  unfold followIntake; (repeat' split) <;> simp

@[simp] theorem pruneCandidates_keeps (s : State) :
    (pruneCandidates s).clock = s.clock ∧ (pruneCandidates s).pending = s.pending ∧
      (pruneCandidates s).sales = s.sales ∧ (pruneCandidates s).tariff = s.tariff ∧
      (pruneCandidates s).port.setup = s.port.setup ∧ (pruneCandidates s).port.home = s.port.home ∧
      (pruneCandidates s).port.resetHigh = s.port.resetHigh ∧ (pruneCandidates s).port.buffer = s.port.buffer := by
  simp [pruneCandidates]

@[simp] theorem sendRequest_keeps (s : State) :
    (sendRequest s).clock = s.clock ∧ (sendRequest s).pending = s.pending ∧ (sendRequest s).sales = s.sales ∧
      (sendRequest s).tariff = s.tariff ∧ (sendRequest s).port.setup = s.port.setup ∧
      (sendRequest s).port.home = s.port.home ∧ (sendRequest s).port.resetHigh = s.port.resetHigh ∧
      (sendRequest s).port.buffer = s.port.buffer := by
  unfold sendRequest; (repeat' split) <;> simp

@[simp] theorem requestIntake_keeps (s : State) :
    (requestIntake s).clock = s.clock ∧ (requestIntake s).pending = s.pending ∧ (requestIntake s).sales = s.sales ∧
      (requestIntake s).tariff = s.tariff ∧ (requestIntake s).port.setup = s.port.setup ∧
      (requestIntake s).port.home = s.port.home ∧ (requestIntake s).port.resetHigh = s.port.resetHigh ∧
      (requestIntake s).port.buffer = s.port.buffer := by
  unfold requestIntake; split <;> simp

@[simp] theorem updateIntake_keeps (s : State) :
    (updateIntake s).clock = s.clock ∧ (updateIntake s).pending = s.pending ∧ (updateIntake s).sales = s.sales ∧
      (updateIntake s).tariff = s.tariff ∧ (updateIntake s).port.setup = s.port.setup ∧
      (updateIntake s).port.home = s.port.home ∧ (updateIntake s).port.resetHigh = s.port.resetHigh ∧
      (updateIntake s).port.buffer = s.port.buffer := by
  unfold updateIntake; dsimp only; (repeat' split) <;> simp

@[simp] theorem excludeProvider_keeps (i : Intake) (s : State) :
    (excludeProvider i s).clock = s.clock ∧ (excludeProvider i s).pending = s.pending ∧
      (excludeProvider i s).sales = s.sales ∧ (excludeProvider i s).tariff = s.tariff ∧
      (excludeProvider i s).port.setup = s.port.setup ∧ (excludeProvider i s).port.home = s.port.home ∧
      (excludeProvider i s).port.resetHigh = s.port.resetHigh ∧ (excludeProvider i s).port.buffer = s.port.buffer := by
  simp [excludeProvider]

@[simp] theorem countFailure_keeps (i : Intake) (s : State) :
    (countFailure i s).clock = s.clock ∧ (countFailure i s).pending = s.pending ∧
      (countFailure i s).sales = s.sales ∧ (countFailure i s).tariff = s.tariff ∧
      (countFailure i s).port.setup = s.port.setup ∧ (countFailure i s).port.home = s.port.home ∧
      (countFailure i s).port.resetHigh = s.port.resetHigh ∧ (countFailure i s).port.buffer = s.port.buffer := by
  unfold countFailure; dsimp only; (repeat' split) <;> simp

@[simp] theorem dropCandidate_keeps (n : Nat) (s : State) :
    (dropCandidate n s).clock = s.clock ∧ (dropCandidate n s).pending = s.pending ∧
      (dropCandidate n s).sales = s.sales ∧ (dropCandidate n s).tariff = s.tariff ∧
      (dropCandidate n s).port.setup = s.port.setup ∧ (dropCandidate n s).port.home = s.port.home ∧
      (dropCandidate n s).port.resetHigh = s.port.resetHigh ∧ (dropCandidate n s).port.buffer = s.port.buffer := by
  simp [dropCandidate]

@[simp] theorem fixHead_keeps (s : State) :
    (fixHead s).clock = s.clock ∧ (fixHead s).pending = s.pending ∧ (fixHead s).sales = s.sales ∧
      (fixHead s).tariff = s.tariff ∧ (fixHead s).port.setup = s.port.setup ∧
      (fixHead s).port.home = s.port.home ∧ (fixHead s).port.resetHigh = s.port.resetHigh ∧
      (fixHead s).port.buffer = s.port.buffer := by
  unfold fixHead; split <;> simp

@[simp] theorem serve_keeps (s : State) :
    (serve s).clock = s.clock ∧ (serve s).pending = s.pending ∧ (serve s).sales = s.sales ∧
      (serve s).tariff = s.tariff ∧ (serve s).port.setup = s.port.setup ∧
      (serve s).port.home = s.port.home ∧ (serve s).port.resetHigh = s.port.resetHigh ∧
      (serve s).port.buffer = s.port.buffer := by
  unfold serve; dsimp only; (repeat' split) <;> simp

@[simp] theorem replaceSupply_keeps (e : SupplyEntry) (s : State) :
    (replaceSupply e s).clock = s.clock ∧
      (replaceSupply e s).pending = s.pending ∧
      (replaceSupply e s).sales = s.sales ∧
      (replaceSupply e s).tariff = s.tariff ∧
      (replaceSupply e s).port.setup = s.port.setup ∧
      (replaceSupply e s).port.home = s.port.home ∧
      (replaceSupply e s).port.resetHigh = s.port.resetHigh ∧
      (replaceSupply e s).port.buffer = s.port.buffer := by
  unfold replaceSupply; dsimp only; split <;> simp

@[simp] theorem enterSupply_keeps (e : SupplyEntry) (s : State) :
    (enterSupply e s).clock = s.clock ∧ (enterSupply e s).pending = s.pending ∧ (enterSupply e s).sales = s.sales ∧
      (enterSupply e s).tariff = s.tariff ∧ (enterSupply e s).port.setup = s.port.setup ∧
      (enterSupply e s).port.home = s.port.home ∧ (enterSupply e s).port.resetHigh = s.port.resetHigh ∧
      (enterSupply e s).port.buffer = s.port.buffer := by
  unfold enterSupply; dsimp only; (repeat' split) <;> simp

@[simp] theorem answerNotHeld_keeps (requester : Nat) (obj : ImageObj) (key : Key) (s : State) :
    (answerNotHeld requester obj key s).clock = s.clock ∧ (answerNotHeld requester obj key s).pending = s.pending ∧
      (answerNotHeld requester obj key s).sales = s.sales ∧
      (answerNotHeld requester obj key s).tariff = s.tariff ∧
      (answerNotHeld requester obj key s).port.setup = s.port.setup ∧
      (answerNotHeld requester obj key s).port.home = s.port.home ∧
      (answerNotHeld requester obj key s).port.resetHigh = s.port.resetHigh ∧
      (answerNotHeld requester obj key s).port.buffer = s.port.buffer := by
  unfold answerNotHeld; split <;> simp

@[simp] theorem requestImage_keeps (sender : Nat) (obj : ImageObj) (key : Key) (start : Nat) (s : State) :
    (requestImage sender obj key start s).clock = s.clock ∧
      (requestImage sender obj key start s).pending = s.pending ∧
      (requestImage sender obj key start s).sales = s.sales ∧
      (requestImage sender obj key start s).tariff = s.tariff ∧
      (requestImage sender obj key start s).port.setup = s.port.setup ∧
      (requestImage sender obj key start s).port.home = s.port.home ∧
      (requestImage sender obj key start s).port.resetHigh = s.port.resetHigh ∧
      (requestImage sender obj key start s).port.buffer = s.port.buffer := by
  unfold requestImage; (repeat' split) <;> simp

@[simp] theorem answerEntry_keeps (s : State) (e : SupplyEntry) :
    (answerEntry s e).clock = s.clock ∧ (answerEntry s e).pending = s.pending ∧ (answerEntry s e).sales = s.sales ∧
      (answerEntry s e).tariff = s.tariff ∧ (answerEntry s e).port.setup = s.port.setup ∧
      (answerEntry s e).port.home = s.port.home ∧ (answerEntry s e).port.resetHigh = s.port.resetHigh ∧
      (answerEntry s e).port.buffer = s.port.buffer := by
  unfold answerEntry; split <;> simp

@[simp] theorem keepSupply_keeps (keep : SupplyEntry → Bool) (s : State) :
    (keepSupply keep s).clock = s.clock ∧ (keepSupply keep s).pending = s.pending ∧
      (keepSupply keep s).sales = s.sales ∧ (keepSupply keep s).tariff = s.tariff ∧
      (keepSupply keep s).port.setup = s.port.setup ∧ (keepSupply keep s).port.home = s.port.home ∧
      (keepSupply keep s).port.resetHigh = s.port.resetHigh ∧ (keepSupply keep s).port.buffer = s.port.buffer := by
  unfold keepSupply; dsimp only; (repeat' split) <;> simp

@[simp] theorem judgeSupply_keeps (s : State) :
    (judgeSupply s).clock = s.clock ∧ (judgeSupply s).pending = s.pending ∧ (judgeSupply s).sales = s.sales ∧
      (judgeSupply s).tariff = s.tariff ∧ (judgeSupply s).port.setup = s.port.setup ∧
      (judgeSupply s).port.home = s.port.home ∧ (judgeSupply s).port.resetHigh = s.port.resetHigh ∧
      (judgeSupply s).port.buffer = s.port.buffer := by
  unfold judgeSupply
  refine ⟨?_, ?_, ?_, ?_, ?_, ?_, ?_, ?_⟩
  · simp [foldl_keeps (fun t => t.clock) answerEntry (by intros; simp)]
  · simp [foldl_keeps (fun t => t.pending) answerEntry (by intros; simp)]
  · simp [foldl_keeps (fun t => t.sales) answerEntry (by intros; simp)]
  · simp [foldl_keeps (fun t => t.tariff) answerEntry (by intros; simp)]
  · simp [foldl_keeps (fun t => t.port.setup) answerEntry (by intros; simp)]
  · simp [foldl_keeps (fun t => t.port.home) answerEntry (by intros; simp)]
  · simp [foldl_keeps (fun t => t.port.resetHigh) answerEntry (by intros; simp)]
  · simp [foldl_keeps (fun t => t.port.buffer) answerEntry (by intros; simp)]

@[simp] theorem holdingsNotice_keeps (s : State) :
    (holdingsNotice s).clock = s.clock ∧ (holdingsNotice s).pending = s.pending ∧
      (holdingsNotice s).sales = s.sales ∧ (holdingsNotice s).tariff = s.tariff ∧
      (holdingsNotice s).port.setup = s.port.setup ∧ (holdingsNotice s).port.home = s.port.home ∧
      (holdingsNotice s).port.resetHigh = s.port.resetHigh ∧ (holdingsNotice s).port.buffer = s.port.buffer := by
  simp [holdingsNotice]

@[simp] theorem supplySent_keeps (s : State) :
    (supplySent s).clock = s.clock ∧ (supplySent s).pending = s.pending ∧ (supplySent s).sales = s.sales ∧
      (supplySent s).tariff = s.tariff ∧ (supplySent s).port.setup = s.port.setup ∧
      (supplySent s).port.home = s.port.home ∧ (supplySent s).port.resetHigh = s.port.resetHigh ∧
      (supplySent s).port.buffer = s.port.buffer := by
  unfold supplySent; (repeat' split) <;> simp

@[simp] theorem supplyDropped_keeps (s : State) :
    (supplyDropped s).clock = s.clock ∧ (supplyDropped s).pending = s.pending ∧ (supplyDropped s).sales = s.sales ∧
      (supplyDropped s).tariff = s.tariff ∧ (supplyDropped s).port.setup = s.port.setup ∧
      (supplyDropped s).port.home = s.port.home ∧ (supplyDropped s).port.resetHigh = s.port.resetHigh ∧
      (supplyDropped s).port.buffer = s.port.buffer := by
  unfold supplyDropped; split <;> simp

@[simp] theorem dropOldUsage_keeps (s : State) :
    (dropOldUsage s).clock = s.clock ∧ (dropOldUsage s).pending = s.pending ∧ (dropOldUsage s).sales = s.sales ∧
      (dropOldUsage s).tariff = s.tariff ∧ (dropOldUsage s).port.setup = s.port.setup ∧
      (dropOldUsage s).port.home = s.port.home ∧ (dropOldUsage s).port.resetHigh = s.port.resetHigh ∧
      (dropOldUsage s).port.buffer = s.port.buffer := by
  simp [dropOldUsage]

@[simp] theorem intakeSent_keeps (s : State) :
    (intakeSent s).clock = s.clock ∧ (intakeSent s).pending = s.pending ∧ (intakeSent s).sales = s.sales ∧
      (intakeSent s).tariff = s.tariff ∧ (intakeSent s).port.setup = s.port.setup ∧
      (intakeSent s).port.home = s.port.home ∧ (intakeSent s).port.resetHigh = s.port.resetHigh ∧
      (intakeSent s).port.buffer = s.port.buffer := by
  unfold intakeSent; (repeat' split) <;> simp

@[simp] theorem intakeDropped_keeps (s : State) :
    (intakeDropped s).clock = s.clock ∧ (intakeDropped s).pending = s.pending ∧ (intakeDropped s).sales = s.sales ∧
      (intakeDropped s).tariff = s.tariff ∧ (intakeDropped s).port.setup = s.port.setup ∧
      (intakeDropped s).port.home = s.port.home ∧ (intakeDropped s).port.resetHigh = s.port.resetHigh ∧
      (intakeDropped s).port.buffer = s.port.buffer := by
  unfold intakeDropped; (repeat' split) <;> simp

@[simp] theorem retryPlacements_keeps (s : State) :
    (retryPlacements s).clock = s.clock ∧ (retryPlacements s).pending = s.pending ∧
      (retryPlacements s).sales = s.sales ∧ (retryPlacements s).tariff = s.tariff ∧
      (retryPlacements s).port.setup = s.port.setup ∧ (retryPlacements s).port.home = s.port.home ∧
      (retryPlacements s).port.resetHigh = s.port.resetHigh ∧ (retryPlacements s).port.buffer = s.port.buffer := by
  simp [retryPlacements]

@[simp] theorem requestStream_keeps (owner : Nat) (r : RequestBody) (rx : Option SeriesRx) (s : State) :
    (requestStream owner r rx s).clock = s.clock ∧ (requestStream owner r rx s).pending = s.pending ∧
      (requestStream owner r rx s).sales = s.sales ∧ (requestStream owner r rx s).tariff = s.tariff ∧
      (requestStream owner r rx s).port.setup = s.port.setup ∧
      (requestStream owner r rx s).port.home = s.port.home ∧
      (requestStream owner r rx s).port.resetHigh = s.port.resetHigh ∧
      (requestStream owner r rx s).port.buffer = s.port.buffer := by
  unfold requestStream; split <;> simp

@[simp] theorem judgeFaultStream_keeps (p : PeerEntry) (s : State) :
    (judgeFaultStream p s).clock = s.clock ∧ (judgeFaultStream p s).pending = s.pending ∧
      (judgeFaultStream p s).sales = s.sales ∧ (judgeFaultStream p s).tariff = s.tariff ∧
      (judgeFaultStream p s).port.setup = s.port.setup ∧ (judgeFaultStream p s).port.home = s.port.home ∧
      (judgeFaultStream p s).port.resetHigh = s.port.resetHigh ∧
      (judgeFaultStream p s).port.buffer = s.port.buffer := by
  unfold judgeFaultStream; dsimp only; (repeat' split) <;> simp

@[simp] theorem dropUsage_keeps (owner : Nat) (which : Nat → Bool) (s : State) :
    (dropUsage owner which s).clock = s.clock ∧ (dropUsage owner which s).pending = s.pending ∧
      (dropUsage owner which s).sales = s.sales ∧ (dropUsage owner which s).tariff = s.tariff ∧
      (dropUsage owner which s).port.setup = s.port.setup ∧ (dropUsage owner which s).port.home = s.port.home ∧
      (dropUsage owner which s).port.resetHigh = s.port.resetHigh ∧
      (dropUsage owner which s).port.buffer = s.port.buffer := by
  simp [dropUsage]

@[simp] theorem alignUsageDay_keeps (p : PeerEntry) (s : State) :
    (alignUsageDay p s).clock = s.clock ∧ (alignUsageDay p s).pending = s.pending ∧
      (alignUsageDay p s).sales = s.sales ∧ (alignUsageDay p s).tariff = s.tariff ∧
      (alignUsageDay p s).port.setup = s.port.setup ∧ (alignUsageDay p s).port.home = s.port.home ∧
      (alignUsageDay p s).port.resetHigh = s.port.resetHigh ∧ (alignUsageDay p s).port.buffer = s.port.buffer := by
  unfold alignUsageDay; dsimp only; (repeat' split) <;> simp

@[simp] theorem compareUsage_keeps (p : PeerEntry) (s : State) :
    (compareUsage p s).clock = s.clock ∧ (compareUsage p s).pending = s.pending ∧
      (compareUsage p s).sales = s.sales ∧ (compareUsage p s).tariff = s.tariff ∧
      (compareUsage p s).port.setup = s.port.setup ∧ (compareUsage p s).port.home = s.port.home ∧
      (compareUsage p s).port.resetHigh = s.port.resetHigh ∧ (compareUsage p s).port.buffer = s.port.buffer := by
  unfold compareUsage; dsimp only; (repeat' split) <;> simp

@[simp] theorem judgeUsageStream_keeps (p : PeerEntry) (s : State) :
    (judgeUsageStream p s).clock = s.clock ∧ (judgeUsageStream p s).pending = s.pending ∧
      (judgeUsageStream p s).sales = s.sales ∧ (judgeUsageStream p s).tariff = s.tariff ∧
      (judgeUsageStream p s).port.setup = s.port.setup ∧ (judgeUsageStream p s).port.home = s.port.home ∧
      (judgeUsageStream p s).port.resetHigh = s.port.resetHigh ∧
      (judgeUsageStream p s).port.buffer = s.port.buffer := by
  unfold judgeUsageStream; (repeat' split) <;> simp

@[simp] theorem replAnnounceNotice_keeps (sender : Nat) (s : State) :
    (replAnnounceNotice sender s).clock = s.clock ∧ (replAnnounceNotice sender s).pending = s.pending ∧
      (replAnnounceNotice sender s).sales = s.sales ∧ (replAnnounceNotice sender s).tariff = s.tariff ∧
      (replAnnounceNotice sender s).port.setup = s.port.setup ∧
      (replAnnounceNotice sender s).port.home = s.port.home ∧
      (replAnnounceNotice sender s).port.resetHigh = s.port.resetHigh ∧
      (replAnnounceNotice sender s).port.buffer = s.port.buffer := by
  unfold replAnnounceNotice; dsimp only; (repeat' split) <;> simp

@[simp] theorem raiseMissing_keeps (s : State) :
    (raiseMissing s).clock = s.clock ∧ (raiseMissing s).pending = s.pending ∧ (raiseMissing s).sales = s.sales ∧
      (raiseMissing s).tariff = s.tariff ∧ (raiseMissing s).port.setup = s.port.setup ∧
      (raiseMissing s).port.home = s.port.home ∧ (raiseMissing s).port.resetHigh = s.port.resetHigh ∧
      (raiseMissing s).port.buffer = s.port.buffer := by
  unfold raiseMissing; split <;> simp

@[simp] theorem reraiseMissing_keeps (s : State) :
    (reraiseMissing s).clock = s.clock ∧ (reraiseMissing s).pending = s.pending ∧
      (reraiseMissing s).sales = s.sales ∧ (reraiseMissing s).tariff = s.tariff ∧
      (reraiseMissing s).port.setup = s.port.setup ∧ (reraiseMissing s).port.home = s.port.home ∧
      (reraiseMissing s).port.resetHigh = s.port.resetHigh ∧ (reraiseMissing s).port.buffer = s.port.buffer := by
  unfold reraiseMissing; split <;> simp

@[simp] theorem clearMissing_keeps (s : State) :
    (clearMissing s).clock = s.clock ∧ (clearMissing s).pending = s.pending ∧ (clearMissing s).sales = s.sales ∧
      (clearMissing s).tariff = s.tariff ∧ (clearMissing s).port.setup = s.port.setup ∧
      (clearMissing s).port.home = s.port.home ∧ (clearMissing s).port.resetHigh = s.port.resetHigh ∧
      (clearMissing s).port.buffer = s.port.buffer := by
  unfold clearMissing; split <;> simp

@[simp] theorem postTariffChanged_keeps (old : Tariff) (byChangeover : Bool) (s : State) :
    (postTariffChanged old byChangeover s).clock = s.clock ∧
      (postTariffChanged old byChangeover s).pending = s.pending ∧
      (postTariffChanged old byChangeover s).sales = s.sales ∧
      (postTariffChanged old byChangeover s).tariff = s.tariff ∧
      (postTariffChanged old byChangeover s).port.setup = s.port.setup ∧
      (postTariffChanged old byChangeover s).port.home = s.port.home ∧
      (postTariffChanged old byChangeover s).port.resetHigh = s.port.resetHigh ∧
      (postTariffChanged old byChangeover s).port.buffer = s.port.buffer := by
  unfold postTariffChanged; split <;> simp

@[simp] theorem takeActive_pin (n : TariffSet) (t : Tariff) : (takeActive n t).pin = t.pin := rfl

@[simp] theorem installAt_pin (sl : TariffSlot) (n : TariffSet) (t : Tariff) : (installAt sl n t).pin = t.pin := by
  cases sl <;> rfl

@[simp] theorem installTariff_keeps (new : TariffSet) (supplier : Nat) (s : State) :
    (installTariff new supplier s).1.clock = s.clock ∧ (installTariff new supplier s).1.pending = s.pending ∧
      (installTariff new supplier s).1.sales = s.sales ∧
      (installTariff new supplier s).1.tariff.pin = s.tariff.pin ∧
      (installTariff new supplier s).1.port.setup = s.port.setup ∧
      (installTariff new supplier s).1.port.home = s.port.home ∧
      (installTariff new supplier s).1.port.resetHigh = s.port.resetHigh ∧
      (installTariff new supplier s).1.port.buffer = s.port.buffer := by
  unfold installTariff; (repeat' split) <;> simp

@[simp] theorem tariffImageIn_keeps (key : Key) (img : List Byte) (supplier : Nat) (s : State) :
    (tariffImageIn key img supplier s).1.clock = s.clock ∧
      (tariffImageIn key img supplier s).1.pending = s.pending ∧
      (tariffImageIn key img supplier s).1.sales = s.sales ∧
      (tariffImageIn key img supplier s).1.tariff.pin = s.tariff.pin ∧
      (tariffImageIn key img supplier s).1.port.setup = s.port.setup ∧
      (tariffImageIn key img supplier s).1.port.home = s.port.home ∧
      (tariffImageIn key img supplier s).1.port.resetHigh = s.port.resetHigh ∧
      (tariffImageIn key img supplier s).1.port.buffer = s.port.buffer := by
  unfold tariffImageIn; (repeat' split) <;> simp

@[simp] theorem makeChangeover_keeps (s : State) :
    (makeChangeover s).clock = s.clock ∧ (makeChangeover s).pending = s.pending ∧
      (makeChangeover s).sales = s.sales ∧ (makeChangeover s).tariff.pin = s.tariff.pin ∧
      (makeChangeover s).port.setup = s.port.setup ∧ (makeChangeover s).port.home = s.port.home ∧
      (makeChangeover s).port.resetHigh = s.port.resetHigh ∧ (makeChangeover s).port.buffer = s.port.buffer := by
  unfold makeChangeover; split <;> simp

@[simp] theorem releasePin_keeps (s : State) :
    (releasePin s).clock = s.clock ∧ (releasePin s).pending = s.pending ∧ (releasePin s).sales = s.sales ∧
      (releasePin s).port.setup = s.port.setup ∧ (releasePin s).port.home = s.port.home ∧
      (releasePin s).port.resetHigh = s.port.resetHigh ∧ (releasePin s).port.buffer = s.port.buffer := by
  unfold releasePin; split <;> simp

@[simp] theorem sectionNotice_keeps (i : Nat) (s : State) :
    (sectionNotice i s).clock = s.clock ∧ (sectionNotice i s).pending = s.pending ∧
      (sectionNotice i s).sales = s.sales ∧ (sectionNotice i s).tariff = s.tariff ∧
      (sectionNotice i s).port.setup = s.port.setup ∧ (sectionNotice i s).port.home = s.port.home ∧
      (sectionNotice i s).port.resetHigh = s.port.resetHigh ∧ (sectionNotice i s).port.buffer = s.port.buffer := by
  simp [sectionNotice]

@[simp] theorem postSection_keeps (i : Nat) (previous : Option Key) (byAmendment : Bool) (supplier : Nat) (s : State) :
    (postSection i previous byAmendment supplier s).clock = s.clock ∧
      (postSection i previous byAmendment supplier s).pending = s.pending ∧
      (postSection i previous byAmendment supplier s).sales = s.sales ∧
      (postSection i previous byAmendment supplier s).tariff = s.tariff ∧
      (postSection i previous byAmendment supplier s).port.setup = s.port.setup ∧
      (postSection i previous byAmendment supplier s).port.home = s.port.home ∧
      (postSection i previous byAmendment supplier s).port.resetHigh = s.port.resetHigh ∧
      (postSection i previous byAmendment supplier s).port.buffer = s.port.buffer := by
  unfold postSection; split <;> simp

@[simp] theorem writeSection_keeps (i : Nat) (key : Key) (closed : Bool) (records : List PermitRec) (s : State) :
    (writeSection i key closed records s).clock = s.clock ∧
      (writeSection i key closed records s).pending = s.pending ∧
      (writeSection i key closed records s).sales = s.sales ∧
      (writeSection i key closed records s).tariff = s.tariff ∧
      (writeSection i key closed records s).port.setup = s.port.setup ∧
      (writeSection i key closed records s).port.home = s.port.home ∧
      (writeSection i key closed records s).port.resetHigh = s.port.resetHigh ∧
      (writeSection i key closed records s).port.buffer = s.port.buffer := by
  simp [writeSection]

@[simp] theorem sectionImageIn_keeps (i : Nat) (key : Key) (img : List Byte) (supplier : Nat) (s : State) :
    (sectionImageIn i key img supplier s).1.clock = s.clock ∧
      (sectionImageIn i key img supplier s).1.pending = s.pending ∧
      (sectionImageIn i key img supplier s).1.sales = s.sales ∧
      (sectionImageIn i key img supplier s).1.tariff = s.tariff ∧
      (sectionImageIn i key img supplier s).1.port.setup = s.port.setup ∧
      (sectionImageIn i key img supplier s).1.port.home = s.port.home ∧
      (sectionImageIn i key img supplier s).1.port.resetHigh = s.port.resetHigh ∧
      (sectionImageIn i key img supplier s).1.port.buffer = s.port.buffer := by
  unfold sectionImageIn; (repeat' split) <;> simp

@[simp] theorem amendFromFrame_keeps (sender : Nat) (i : Nat) (old : Key) (new : Key) (c : AmendChange) (s : State) :
    (amendFromFrame sender i old new c s).clock = s.clock ∧
      (amendFromFrame sender i old new c s).pending = s.pending ∧
      (amendFromFrame sender i old new c s).sales = s.sales ∧
      (amendFromFrame sender i old new c s).tariff = s.tariff ∧
      (amendFromFrame sender i old new c s).port.setup = s.port.setup ∧
      (amendFromFrame sender i old new c s).port.home = s.port.home ∧
      (amendFromFrame sender i old new c s).port.resetHigh = s.port.resetHigh ∧
      (amendFromFrame sender i old new c s).port.buffer = s.port.buffer := by
  unfold amendFromFrame; (repeat' split) <;> simp

@[simp] theorem amendOwn_keeps (i : Nat) (old : Key) (c : AmendChange) (p : PermitSection) (s : State) :
    (amendOwn i old c p s).clock = s.clock ∧ (amendOwn i old c p s).pending = s.pending ∧
      (amendOwn i old c p s).sales = s.sales ∧ (amendOwn i old c p s).tariff = s.tariff ∧
      (amendOwn i old c p s).port.setup = s.port.setup ∧ (amendOwn i old c p s).port.home = s.port.home ∧
      (amendOwn i old c p s).port.resetHigh = s.port.resetHigh ∧
      (amendOwn i old c p s).port.buffer = s.port.buffer := by
  simp [amendOwn]

@[simp] theorem storeImage_keeps (i : Intake) (s : State) :
    (storeImage i s).1.clock = s.clock ∧ (storeImage i s).1.pending = s.pending ∧
      (storeImage i s).1.sales = s.sales ∧ (storeImage i s).1.tariff.pin = s.tariff.pin ∧
      (storeImage i s).1.port.setup = s.port.setup ∧ (storeImage i s).1.port.home = s.port.home ∧
      (storeImage i s).1.port.resetHigh = s.port.resetHigh ∧ (storeImage i s).1.port.buffer = s.port.buffer := by
  unfold storeImage; split <;> simp

@[simp] theorem declineKey_keeps (obj : ImageObj) (key : Key) (s : State) :
    (declineKey obj key s).clock = s.clock ∧ (declineKey obj key s).pending = s.pending ∧
      (declineKey obj key s).sales = s.sales ∧ (declineKey obj key s).tariff = s.tariff ∧
      (declineKey obj key s).port.setup = s.port.setup ∧ (declineKey obj key s).port.home = s.port.home ∧
      (declineKey obj key s).port.resetHigh = s.port.resetHigh ∧
      (declineKey obj key s).port.buffer = s.port.buffer := by
  simp [declineKey]

@[simp] theorem storeAnswer_keeps (i : Intake) (s : State) :
    (storeAnswer i s).clock = s.clock ∧ (storeAnswer i s).pending = s.pending ∧ (storeAnswer i s).sales = s.sales ∧
      (storeAnswer i s).tariff.pin = s.tariff.pin ∧ (storeAnswer i s).port.setup = s.port.setup ∧
      (storeAnswer i s).port.home = s.port.home ∧ (storeAnswer i s).port.resetHigh = s.port.resetHigh ∧
      (storeAnswer i s).port.buffer = s.port.buffer := by
  unfold storeAnswer
  have h := storeImage_keeps i (setIntake none s)
  split <;> rename_i u hu <;> simp [hu] at h <;> simp [h]

@[simp] theorem imageComplete_keeps (i : Intake) (check : Crc) (s : State) :
    (imageComplete i check s).clock = s.clock ∧ (imageComplete i check s).pending = s.pending ∧
      (imageComplete i check s).sales = s.sales ∧ (imageComplete i check s).tariff.pin = s.tariff.pin ∧
      (imageComplete i check s).port.setup = s.port.setup ∧ (imageComplete i check s).port.home = s.port.home ∧
      (imageComplete i check s).port.resetHigh = s.port.resetHigh ∧
      (imageComplete i check s).port.buffer = s.port.buffer := by
  unfold imageComplete; split <;> simp

@[simp] theorem takeFragment_keeps (i : Intake) (f : FragmentBody) (s : State) :
    (takeFragment i f s).clock = s.clock ∧ (takeFragment i f s).pending = s.pending ∧
      (takeFragment i f s).sales = s.sales ∧ (takeFragment i f s).tariff.pin = s.tariff.pin ∧
      (takeFragment i f s).port.setup = s.port.setup ∧ (takeFragment i f s).port.home = s.port.home ∧
      (takeFragment i f s).port.resetHigh = s.port.resetHigh ∧ (takeFragment i f s).port.buffer = s.port.buffer := by
  unfold takeFragment; dsimp only; (repeat' split) <;> simp

@[simp] theorem markAllDue_keeps (s : State) :
    (markAllDue s).clock = s.clock ∧ (markAllDue s).pending = s.pending ∧ (markAllDue s).sales = s.sales ∧
      (markAllDue s).tariff = s.tariff ∧ (markAllDue s).port.setup = s.port.setup ∧
      (markAllDue s).port.home = s.port.home ∧ (markAllDue s).port.resetHigh = s.port.resetHigh ∧
      (markAllDue s).port.buffer = s.port.buffer := by
  simp [markAllDue]

@[simp] theorem takeRound_keeps (round : Nat) (collector : Nat) (s : State) :
    (takeRound round collector s).clock = s.clock ∧ (takeRound round collector s).pending = s.pending ∧
      (takeRound round collector s).sales = s.sales ∧ (takeRound round collector s).tariff = s.tariff ∧
      (takeRound round collector s).port.setup = s.port.setup ∧
      (takeRound round collector s).port.home = s.port.home ∧
      (takeRound round collector s).port.resetHigh = s.port.resetHigh ∧
      (takeRound round collector s).port.buffer = s.port.buffer := by
  unfold takeRound; split <;> simp

@[simp] theorem takeRoundOpen_keeps (round : Nat) (collector : Nat) (s : State) :
    (takeRoundOpen round collector s).clock = s.clock ∧ (takeRoundOpen round collector s).pending = s.pending ∧
      (takeRoundOpen round collector s).sales = s.sales ∧
      (takeRoundOpen round collector s).tariff = s.tariff ∧
      (takeRoundOpen round collector s).port.setup = s.port.setup ∧
      (takeRoundOpen round collector s).port.home = s.port.home ∧
      (takeRoundOpen round collector s).port.resetHigh = s.port.resetHigh ∧
      (takeRoundOpen round collector s).port.buffer = s.port.buffer := by
  unfold takeRoundOpen; split <;> simp

@[simp] theorem closeRound_keeps (s : State) :
    (closeRound s).clock = s.clock ∧ (closeRound s).pending = s.pending ∧ (closeRound s).sales = s.sales ∧
      (closeRound s).tariff = s.tariff ∧ (closeRound s).port.setup = s.port.setup ∧
      (closeRound s).port.home = s.port.home ∧ (closeRound s).port.resetHigh = s.port.resetHigh ∧
      (closeRound s).port.buffer = s.port.buffer := by
  simp [closeRound]

@[simp] theorem followAnnounce_keeps (p : PeerEntry) (s : State) :
    (followAnnounce p s).clock = s.clock ∧ (followAnnounce p s).pending = s.pending ∧
      (followAnnounce p s).sales = s.sales ∧ (followAnnounce p s).tariff = s.tariff ∧
      (followAnnounce p s).port.setup = s.port.setup ∧ (followAnnounce p s).port.home = s.port.home ∧
      (followAnnounce p s).port.resetHigh = s.port.resetHigh ∧ (followAnnounce p s).port.buffer = s.port.buffer := by
  unfold followAnnounce; dsimp only; (repeat' split) <;> simp

@[simp] theorem noteDue_keeps (station : Nat) (due : Nat) (s : State) :
    (noteDue station due s).clock = s.clock ∧ (noteDue station due s).pending = s.pending ∧
      (noteDue station due s).sales = s.sales ∧ (noteDue station due s).tariff = s.tariff ∧
      (noteDue station due s).port.setup = s.port.setup ∧ (noteDue station due s).port.home = s.port.home ∧
      (noteDue station due s).port.resetHigh = s.port.resetHigh ∧
      (noteDue station due s).port.buffer = s.port.buffer := by
  simp [noteDue]

@[simp] theorem roundAnnounceNotice_keeps (sender : Nat) (s : State) :
    (roundAnnounceNotice sender s).clock = s.clock ∧ (roundAnnounceNotice sender s).pending = s.pending ∧
      (roundAnnounceNotice sender s).sales = s.sales ∧ (roundAnnounceNotice sender s).tariff = s.tariff ∧
      (roundAnnounceNotice sender s).port.setup = s.port.setup ∧
      (roundAnnounceNotice sender s).port.home = s.port.home ∧
      (roundAnnounceNotice sender s).port.resetHigh = s.port.resetHigh ∧
      (roundAnnounceNotice sender s).port.buffer = s.port.buffer := by
  unfold roundAnnounceNotice; split <;> simp

@[simp] theorem startVisit_keeps (s : State) :
    (startVisit s).clock = s.clock ∧ (startVisit s).pending = s.pending ∧ (startVisit s).sales = s.sales ∧
      (startVisit s).tariff = s.tariff ∧ (startVisit s).port.setup = s.port.setup ∧
      (startVisit s).port.home = s.port.home ∧ (startVisit s).port.resetHigh = s.port.resetHigh ∧
      (startVisit s).port.buffer = s.port.buffer := by
  simp [startVisit]

@[simp] theorem takeVisit_keeps (round : Nat) (collector : Nat) (s : State) :
    (takeVisit round collector s).clock = s.clock ∧ (takeVisit round collector s).pending = s.pending ∧
      (takeVisit round collector s).sales = s.sales ∧ (takeVisit round collector s).tariff = s.tariff ∧
      (takeVisit round collector s).port.setup = s.port.setup ∧
      (takeVisit round collector s).port.home = s.port.home ∧
      (takeVisit round collector s).port.resetHigh = s.port.resetHigh ∧
      (takeVisit round collector s).port.buffer = s.port.buffer := by
  unfold takeVisit; dsimp only; (repeat' split) <;> simp

@[simp] theorem expireVisit_keeps (s : State) :
    (expireVisit s).clock = s.clock ∧ (expireVisit s).pending = s.pending ∧ (expireVisit s).sales = s.sales ∧
      (expireVisit s).tariff = s.tariff ∧ (expireVisit s).port.setup = s.port.setup ∧
      (expireVisit s).port.home = s.port.home ∧ (expireVisit s).port.resetHigh = s.port.resetHigh ∧
      (expireVisit s).port.buffer = s.port.buffer := by
  unfold expireVisit; split <;> simp

@[simp] theorem writeRemoval_keeps (attended : Bool) (s : State) :
    (writeRemoval attended s).clock = s.clock ∧ (writeRemoval attended s).pending = s.pending ∧
      (writeRemoval attended s).sales = s.sales ∧ (writeRemoval attended s).tariff = s.tariff ∧
      (writeRemoval attended s).port.setup = s.port.setup ∧ (writeRemoval attended s).port.home = s.port.home ∧
      (writeRemoval attended s).port.resetHigh = s.port.resetHigh ∧
      (writeRemoval attended s).port.buffer = s.port.buffer := by
  simp [writeRemoval]

@[simp] theorem attendedRemoval_keeps (s : State) :
    (attendedRemoval s).clock = s.clock ∧ (attendedRemoval s).pending = s.pending ∧
      (attendedRemoval s).sales = s.sales ∧ (attendedRemoval s).tariff = s.tariff ∧
      (attendedRemoval s).port.setup = s.port.setup ∧ (attendedRemoval s).port.home = s.port.home ∧
      (attendedRemoval s).port.resetHigh = s.port.resetHigh ∧ (attendedRemoval s).port.buffer = s.port.buffer := by
  simp [attendedRemoval]

@[simp] theorem unattendedRemoval_keeps (s : State) :
    (unattendedRemoval s).clock = s.clock ∧ (unattendedRemoval s).pending = s.pending ∧
      (unattendedRemoval s).sales = s.sales ∧ (unattendedRemoval s).tariff = s.tariff ∧
      (unattendedRemoval s).port.setup = s.port.setup ∧ (unattendedRemoval s).port.home = s.port.home ∧
      (unattendedRemoval s).port.resetHigh = s.port.resetHigh ∧ (unattendedRemoval s).port.buffer = s.port.buffer := by
  simp [unattendedRemoval]

@[simp] theorem leaveRemoved_keeps (s : State) :
    (leaveRemoved s).clock = s.clock ∧ (leaveRemoved s).pending = s.pending ∧ (leaveRemoved s).sales = s.sales ∧
      (leaveRemoved s).tariff = s.tariff ∧ (leaveRemoved s).port.setup = s.port.setup ∧
      (leaveRemoved s).port.home = s.port.home ∧ (leaveRemoved s).port.resetHigh = s.port.resetHigh ∧
      (leaveRemoved s).port.buffer = s.port.buffer := by
  unfold leaveRemoved; dsimp only; (repeat' split) <;> simp

@[simp] theorem judgeRemoved_keeps (s : State) :
    (judgeRemoved s).clock = s.clock ∧ (judgeRemoved s).pending = s.pending ∧ (judgeRemoved s).sales = s.sales ∧
      (judgeRemoved s).tariff = s.tariff ∧ (judgeRemoved s).port.setup = s.port.setup ∧
      (judgeRemoved s).port.home = s.port.home ∧ (judgeRemoved s).port.resetHigh = s.port.resetHigh ∧
      (judgeRemoved s).port.buffer = s.port.buffer := by
  unfold judgeRemoved; split <;> simp

@[simp] theorem doorChange_keeps (s : State) :
    (doorChange s).clock = s.clock ∧ (doorChange s).pending = s.pending ∧ (doorChange s).sales = s.sales ∧
      (doorChange s).tariff = s.tariff ∧ (doorChange s).port.setup = s.port.setup ∧
      (doorChange s).port.home = s.port.home ∧ (doorChange s).port.resetHigh = s.port.resetHigh ∧
      (doorChange s).port.buffer = s.port.buffer := by
  unfold doorChange; (repeat' split) <;> simp

@[simp] theorem boxChange_keeps (s : State) :
    (boxChange s).clock = s.clock ∧ (boxChange s).pending = s.pending ∧ (boxChange s).sales = s.sales ∧
      (boxChange s).tariff = s.tariff ∧ (boxChange s).port.setup = s.port.setup ∧
      (boxChange s).port.home = s.port.home ∧ (boxChange s).port.resetHigh = s.port.resetHigh ∧
      (boxChange s).port.buffer = s.port.buffer := by
  unfold boxChange; (repeat' split) <;> simp

@[simp] theorem mapRecord_keeps (first : Nat) (last : Nat) (f : LogRec → LogRec) (s : State) :
    (mapRecord first last f s).clock = s.clock ∧ (mapRecord first last f s).pending = s.pending ∧
      (mapRecord first last f s).sales = s.sales ∧ (mapRecord first last f s).tariff = s.tariff ∧
      (mapRecord first last f s).port.setup = s.port.setup ∧ (mapRecord first last f s).port.home = s.port.home ∧
      (mapRecord first last f s).port.resetHigh = s.port.resetHigh ∧
      (mapRecord first last f s).port.buffer = s.port.buffer := by
  simp [mapRecord]

@[simp] theorem placeReports_keeps (s : State) :
    (placeReports s).clock = s.clock ∧ (placeReports s).pending = s.pending ∧ (placeReports s).sales = s.sales ∧
      (placeReports s).tariff = s.tariff ∧ (placeReports s).port.setup = s.port.setup ∧
      (placeReports s).port.home = s.port.home ∧ (placeReports s).port.resetHigh = s.port.resetHigh ∧
      (placeReports s).port.buffer = s.port.buffer := by
  unfold placeReports; (repeat' split) <;> simp

@[simp] theorem releaseHeld_keeps (s : State) :
    (releaseHeld s).clock = s.clock ∧ (releaseHeld s).pending = s.pending ∧ (releaseHeld s).sales = s.sales ∧
      (releaseHeld s).tariff = s.tariff ∧ (releaseHeld s).port.setup = s.port.setup ∧
      (releaseHeld s).port.home = s.port.home ∧ (releaseHeld s).port.resetHigh = s.port.resetHigh ∧
      (releaseHeld s).port.buffer = s.port.buffer := by
  simp [releaseHeld]

@[simp] theorem reportSent_keeps (first : Nat) (last : Nat) (s : State) :
    (reportSent first last s).clock = s.clock ∧ (reportSent first last s).pending = s.pending ∧
      (reportSent first last s).sales = s.sales ∧ (reportSent first last s).tariff = s.tariff ∧
      (reportSent first last s).port.setup = s.port.setup ∧ (reportSent first last s).port.home = s.port.home ∧
      (reportSent first last s).port.resetHigh = s.port.resetHigh ∧
      (reportSent first last s).port.buffer = s.port.buffer := by
  simp [reportSent]

@[simp] theorem reportDropped_keeps (first : Nat) (last : Nat) (s : State) :
    (reportDropped first last s).clock = s.clock ∧ (reportDropped first last s).pending = s.pending ∧
      (reportDropped first last s).sales = s.sales ∧ (reportDropped first last s).tariff = s.tariff ∧
      (reportDropped first last s).port.setup = s.port.setup ∧
      (reportDropped first last s).port.home = s.port.home ∧
      (reportDropped first last s).port.resetHigh = s.port.resetHigh ∧
      (reportDropped first last s).port.buffer = s.port.buffer := by
  simp [reportDropped]

@[simp] theorem takeAck_keeps (sender : Nat) (first : Nat) (last : Nat) (s : State) :
    (takeAck sender first last s).clock = s.clock ∧ (takeAck sender first last s).pending = s.pending ∧
      (takeAck sender first last s).sales = s.sales ∧ (takeAck sender first last s).tariff = s.tariff ∧
      (takeAck sender first last s).port.setup = s.port.setup ∧
      (takeAck sender first last s).port.home = s.port.home ∧
      (takeAck sender first last s).port.resetHigh = s.port.resetHigh ∧
      (takeAck sender first last s).port.buffer = s.port.buffer := by
  unfold takeAck; split <;> simp

@[simp] theorem sendAck_keeps (station : Nat) (d : CollectionData) (s : State) :
    (sendAck station d s).clock = s.clock ∧ (sendAck station d s).pending = s.pending ∧
      (sendAck station d s).sales = s.sales ∧ (sendAck station d s).tariff = s.tariff ∧
      (sendAck station d s).port.setup = s.port.setup ∧ (sendAck station d s).port.home = s.port.home ∧
      (sendAck station d s).port.resetHigh = s.port.resetHigh ∧ (sendAck station d s).port.buffer = s.port.buffer := by
  simp [sendAck]

@[simp] theorem postReport_keeps (station : Nat) (d : CollectionData) (replaced : Bool) (s : State) :
    (postReport station d replaced s).clock = s.clock ∧ (postReport station d replaced s).pending = s.pending ∧
      (postReport station d replaced s).sales = s.sales ∧
      (postReport station d replaced s).tariff = s.tariff ∧
      (postReport station d replaced s).port.setup = s.port.setup ∧
      (postReport station d replaced s).port.home = s.port.home ∧
      (postReport station d replaced s).port.resetHigh = s.port.resetHigh ∧
      (postReport station d replaced s).port.buffer = s.port.buffer := by
  simp [postReport]

@[simp] theorem takeReport_keeps (station : Nat) (d : CollectionData) (s : State) :
    (takeReport station d s).clock = s.clock ∧ (takeReport station d s).pending = s.pending ∧
      (takeReport station d s).sales = s.sales ∧ (takeReport station d s).tariff = s.tariff ∧
      (takeReport station d s).port.setup = s.port.setup ∧ (takeReport station d s).port.home = s.port.home ∧
      (takeReport station d s).port.resetHigh = s.port.resetHigh ∧
      (takeReport station d s).port.buffer = s.port.buffer := by
  unfold takeReport; (repeat' split) <;> simp

@[simp] theorem endSale_keeps (s : State) :
    (endSale s).clock = s.clock ∧ (endSale s).pending = s.pending ∧ (endSale s).port.setup = s.port.setup ∧
      (endSale s).port.home = s.port.home ∧ (endSale s).port.resetHigh = s.port.resetHigh ∧
      (endSale s).port.buffer = s.port.buffer := by
  simp [endSale]

@[simp] theorem abandonSale_keeps (cause : AbandonCause) (s : State) :
    (abandonSale cause s).clock = s.clock ∧ (abandonSale cause s).pending = s.pending ∧
      (abandonSale cause s).port.setup = s.port.setup ∧ (abandonSale cause s).port.home = s.port.home ∧
      (abandonSale cause s).port.resetHigh = s.port.resetHigh ∧ (abandonSale cause s).port.buffer = s.port.buffer := by
  unfold abandonSale; split <;> simp

@[simp] theorem quietLink_keeps (s : State) :
    (quietLink s).clock = s.clock ∧ (quietLink s).pending = s.pending ∧ (quietLink s).sales = s.sales ∧
      (quietLink s).tariff = s.tariff ∧ (quietLink s).port.setup = s.port.setup ∧
      (quietLink s).port.home = s.port.home ∧ (quietLink s).port.resetHigh = s.port.resetHigh ∧
      (quietLink s).port.buffer = s.port.buffer := by
  simp [quietLink]

@[simp] theorem enterDormant_keeps (s : State) :
    (enterDormant s).clock = s.clock ∧ (enterDormant s).pending = s.pending ∧
      (enterDormant s).port.setup = s.port.setup ∧ (enterDormant s).port.home = s.port.home ∧
      (enterDormant s).port.resetHigh = s.port.resetHigh ∧ (enterDormant s).port.buffer = s.port.buffer := by
  simp [enterDormant]

@[simp] theorem setDormantDue_keeps (s : State) :
    (setDormantDue s).clock = s.clock ∧ (setDormantDue s).pending = s.pending ∧
      (setDormantDue s).port.setup = s.port.setup ∧ (setDormantDue s).port.home = s.port.home ∧
      (setDormantDue s).port.resetHigh = s.port.resetHigh ∧ (setDormantDue s).port.buffer = s.port.buffer := by
  unfold setDormantDue; split <;> simp

@[simp] theorem restartSilence_keeps (s : State) :
    (restartSilence s).clock = s.clock ∧ (restartSilence s).pending = s.pending ∧
      (restartSilence s).sales = s.sales ∧ (restartSilence s).tariff = s.tariff ∧
      (restartSilence s).port.setup = s.port.setup ∧ (restartSilence s).port.home = s.port.home ∧
      (restartSilence s).port.resetHigh = s.port.resetHigh ∧ (restartSilence s).port.buffer = s.port.buffer := by
  simp [restartSilence]

@[simp] theorem exitDormant_keeps (s : State) :
    (exitDormant s).clock = s.clock ∧ (exitDormant s).pending = s.pending ∧ (exitDormant s).sales = s.sales ∧
      (exitDormant s).tariff = s.tariff ∧ (exitDormant s).port.setup = s.port.setup ∧
      (exitDormant s).port.home = s.port.home ∧ (exitDormant s).port.resetHigh = s.port.resetHigh ∧
      (exitDormant s).port.buffer = s.port.buffer := by
  simp [exitDormant]

@[simp] theorem wakeByButton_keeps (s : State) :
    (wakeByButton s).clock = s.clock ∧ (wakeByButton s).pending = s.pending ∧ (wakeByButton s).sales = s.sales ∧
      (wakeByButton s).tariff = s.tariff ∧ (wakeByButton s).port.setup = s.port.setup ∧
      (wakeByButton s).port.home = s.port.home ∧ (wakeByButton s).port.resetHigh = s.port.resetHigh ∧
      (wakeByButton s).port.buffer = s.port.buffer := by
  unfold wakeByButton; split <;> simp

@[simp] theorem goListening_keeps (s : State) :
    (goListening s).clock = s.clock ∧ (goListening s).pending = s.pending ∧ (goListening s).sales = s.sales ∧
      (goListening s).tariff = s.tariff ∧ (goListening s).port.setup = s.port.setup ∧
      (goListening s).port.home = s.port.home ∧ (goListening s).port.resetHigh = s.port.resetHigh ∧
      (goListening s).port.buffer = s.port.buffer := by
  simp [goListening]

@[simp] theorem restEffect_keeps (s : State) :
    (restEffect s).clock = s.clock ∧ (restEffect s).pending = s.pending ∧
      (restEffect s).port.setup = s.port.setup ∧ (restEffect s).port.home = s.port.home ∧
      (restEffect s).port.resetHigh = s.port.resetHigh ∧ (restEffect s).port.buffer = s.port.buffer := by
  unfold restEffect; (repeat' split) <;> simp

@[simp] theorem resetPart_keeps (kind : ResetKind) (s : State) :
    (resetPart kind s).pending = s.pending ∧ (resetPart kind s).port.home = s.port.home ∧
      (resetPart kind s).port.resetHigh = s.port.resetHigh := by
  simp [resetPart, Port.afterReset]

@[simp] theorem holdReceiver_keeps (s : State) :
    (holdReceiver s).clock = s.clock ∧ (holdReceiver s).pending = s.pending ∧ (holdReceiver s).sales = s.sales ∧
      (holdReceiver s).tariff = s.tariff ∧ (holdReceiver s).port.setup = s.port.setup ∧
      (holdReceiver s).port.home = s.port.home ∧ (holdReceiver s).port.resetHigh = s.port.resetHigh ∧
      (holdReceiver s).port.buffer = s.port.buffer := by
  unfold holdReceiver; split <;> simp

@[simp] theorem refreshReceiver_keeps (s : State) :
    (refreshReceiver s).clock = s.clock ∧ (refreshReceiver s).pending = s.pending ∧
      (refreshReceiver s).sales = s.sales ∧ (refreshReceiver s).tariff = s.tariff ∧
      (refreshReceiver s).port.setup = s.port.setup ∧ (refreshReceiver s).port.home = s.port.home ∧
      (refreshReceiver s).port.resetHigh = s.port.resetHigh ∧ (refreshReceiver s).port.buffer = s.port.buffer := by
  unfold refreshReceiver; (repeat' split) <;> simp

@[simp] theorem settle_keeps (s : State) :
    (settle s).clock = s.clock ∧ (settle s).pending = s.pending ∧ (settle s).sales = s.sales ∧
      (settle s).tariff = s.tariff ∧ (settle s).port.setup = s.port.setup ∧
      (settle s).port.home = s.port.home ∧ (settle s).port.resetHigh = s.port.resetHigh ∧
      (settle s).port.buffer = s.port.buffer := by
  simp [settle]

@[simp] theorem makeRollover_keeps (s : State) :
    (makeRollover s).pending = s.pending ∧ (makeRollover s).sales = s.sales ∧
      (makeRollover s).tariff = s.tariff ∧ (makeRollover s).port.setup = s.port.setup ∧
      (makeRollover s).port.home = s.port.home ∧ (makeRollover s).port.resetHigh = s.port.resetHigh ∧
      (makeRollover s).port.buffer = s.port.buffer := by
  unfold makeRollover; (repeat' split) <;> simp

@[simp] theorem changeoverIfDue_keeps (s : State) :
    (changeoverIfDue s).clock = s.clock ∧ (changeoverIfDue s).pending = s.pending ∧
      (changeoverIfDue s).sales = s.sales ∧ (changeoverIfDue s).tariff.pin = s.tariff.pin ∧
      (changeoverIfDue s).port.setup = s.port.setup ∧ (changeoverIfDue s).port.home = s.port.home ∧
      (changeoverIfDue s).port.resetHigh = s.port.resetHigh ∧ (changeoverIfDue s).port.buffer = s.port.buffer := by
  unfold changeoverIfDue; split <;> simp

@[simp] theorem moveZone_keeps (new : Nat) (s : State) :
    (moveZone new s).pending = s.pending ∧ (moveZone new s).sales = s.sales ∧
      (moveZone new s).tariff.pin = s.tariff.pin ∧ (moveZone new s).port.setup = s.port.setup ∧
      (moveZone new s).port.home = s.port.home ∧ (moveZone new s).port.resetHigh = s.port.resetHigh ∧
      (moveZone new s).port.buffer = s.port.buffer := by
  simp [moveZone]

@[simp] theorem setZone_keeps (new : Nat) (s : State) :
    (setZone new s).pending = s.pending ∧ (setZone new s).sales = s.sales ∧
      (setZone new s).tariff.pin = s.tariff.pin ∧ (setZone new s).port.setup = s.port.setup ∧
      (setZone new s).port.home = s.port.home ∧ (setZone new s).port.resetHigh = s.port.resetHigh ∧
      (setZone new s).port.buffer = s.port.buffer := by
  simp [setZone]

@[simp] theorem postAdopted_keeps (sender : Nat) (outcome : AdoptOutcome) (step : Option Int) (s : State) :
    (postAdopted sender outcome step s).clock = s.clock ∧ (postAdopted sender outcome step s).pending = s.pending ∧
      (postAdopted sender outcome step s).sales = s.sales ∧
      (postAdopted sender outcome step s).tariff = s.tariff ∧
      (postAdopted sender outcome step s).port.setup = s.port.setup ∧
      (postAdopted sender outcome step s).port.home = s.port.home ∧
      (postAdopted sender outcome step s).port.resetHigh = s.port.resetHigh ∧
      (postAdopted sender outcome step s).port.buffer = s.port.buffer := by
  simp [postAdopted]

@[simp] theorem judgeTime_keeps (sender : Nat) (receptionMs : Nat) (a : AnnounceBody) (s : State) :
    (judgeTime sender receptionMs a s).pending = s.pending ∧ (judgeTime sender receptionMs a s).sales = s.sales ∧
      (judgeTime sender receptionMs a s).tariff.pin = s.tariff.pin ∧
      (judgeTime sender receptionMs a s).port.setup = s.port.setup ∧
      (judgeTime sender receptionMs a s).port.home = s.port.home ∧
      (judgeTime sender receptionMs a s).port.resetHigh = s.port.resetHigh ∧
      (judgeTime sender receptionMs a s).port.buffer = s.port.buffer := by
  unfold judgeTime; dsimp only; (repeat' split) <;> simp

@[simp] theorem noticeSent_keeps (f : TxFrame) (s : State) :
    (noticeSent f s).clock = s.clock ∧ (noticeSent f s).pending = s.pending ∧ (noticeSent f s).sales = s.sales ∧
      (noticeSent f s).tariff = s.tariff ∧ (noticeSent f s).port.setup = s.port.setup ∧
      (noticeSent f s).port.home = s.port.home ∧ (noticeSent f s).port.resetHigh = s.port.resetHigh ∧
      (noticeSent f s).port.buffer = s.port.buffer := by
  unfold noticeSent; split <;> simp

@[simp] theorem noticeDropped_keeps (f : TxFrame) (s : State) :
    (noticeDropped f s).clock = s.clock ∧ (noticeDropped f s).pending = s.pending ∧
      (noticeDropped f s).sales = s.sales ∧ (noticeDropped f s).tariff = s.tariff ∧
      (noticeDropped f s).port.setup = s.port.setup ∧ (noticeDropped f s).port.home = s.port.home ∧
      (noticeDropped f s).port.resetHigh = s.port.resetHigh ∧ (noticeDropped f s).port.buffer = s.port.buffer := by
  unfold noticeDropped; split <;> simp

@[simp] theorem startHead_keeps (s : State) :
    (startHead s).clock = s.clock ∧ (startHead s).pending = s.pending ∧ (startHead s).sales = s.sales ∧
      (startHead s).tariff = s.tariff ∧ (startHead s).port.setup = s.port.setup ∧
      (startHead s).port.home = s.port.home ∧ (startHead s).port.resetHigh = s.port.resetHigh ∧
      (startHead s).port.buffer = s.port.buffer := by
  simp [startHead]

@[simp] theorem dropHead_keeps (f : TxFrame) (s : State) :
    (dropHead f s).clock = s.clock ∧ (dropHead f s).pending = s.pending ∧ (dropHead f s).sales = s.sales ∧
      (dropHead f s).tariff = s.tariff ∧ (dropHead f s).port.setup = s.port.setup ∧
      (dropHead f s).port.home = s.port.home ∧ (dropHead f s).port.resetHigh = s.port.resetHigh ∧
      (dropHead f s).port.buffer = s.port.buffer := by
  simp [dropHead]

@[simp] theorem expireBackoff_keeps (s : State) :
    (expireBackoff s).clock = s.clock ∧ (expireBackoff s).pending = s.pending ∧ (expireBackoff s).sales = s.sales ∧
      (expireBackoff s).tariff = s.tariff ∧ (expireBackoff s).port.setup = s.port.setup ∧
      (expireBackoff s).port.home = s.port.home ∧ (expireBackoff s).port.resetHigh = s.port.resetHigh ∧
      (expireBackoff s).port.buffer = s.port.buffer := by
  unfold expireBackoff; (repeat' split) <;> simp

@[simp] theorem endFrame_keeps (s : State) :
    (endFrame s).clock = s.clock ∧ (endFrame s).pending = s.pending ∧ (endFrame s).sales = s.sales ∧
      (endFrame s).tariff = s.tariff ∧ (endFrame s).port.setup = s.port.setup ∧
      (endFrame s).port.home = s.port.home ∧ (endFrame s).port.resetHigh = s.port.resetHigh ∧
      (endFrame s).port.buffer = s.port.buffer := by
  unfold endFrame; split <;> simp

@[simp] theorem sendAnnounce_keeps (zone : Nat) (s : State) :
    (sendAnnounce zone s).clock = s.clock ∧ (sendAnnounce zone s).pending = s.pending ∧
      (sendAnnounce zone s).sales = s.sales ∧ (sendAnnounce zone s).tariff = s.tariff ∧
      (sendAnnounce zone s).port.setup = s.port.setup ∧ (sendAnnounce zone s).port.home = s.port.home ∧
      (sendAnnounce zone s).port.resetHigh = s.port.resetHigh ∧ (sendAnnounce zone s).port.buffer = s.port.buffer := by
  simp [sendAnnounce]

@[simp] theorem ownSlot_keeps (zone : Nat) (s : State) :
    (ownSlot zone s).clock = s.clock ∧ (ownSlot zone s).pending = s.pending ∧
      (ownSlot zone s).port.setup = s.port.setup ∧ (ownSlot zone s).port.home = s.port.home ∧
      (ownSlot zone s).port.resetHigh = s.port.resetHigh ∧ (ownSlot zone s).port.buffer = s.port.buffer := by
  unfold ownSlot; (repeat' split) <;> simp

@[simp] theorem endAnnounce_keeps (s : State) :
    (endAnnounce s).clock = s.clock ∧ (endAnnounce s).pending = s.pending ∧ (endAnnounce s).sales = s.sales ∧
      (endAnnounce s).tariff = s.tariff ∧ (endAnnounce s).port.setup = s.port.setup ∧
      (endAnnounce s).port.home = s.port.home ∧ (endAnnounce s).port.resetHigh = s.port.resetHigh ∧
      (endAnnounce s).port.buffer = s.port.buffer := by
  simp [endAnnounce]

@[simp] theorem ownNumberHeard_keeps (s : State) :
    (ownNumberHeard s).clock = s.clock ∧ (ownNumberHeard s).pending = s.pending ∧
      (ownNumberHeard s).sales = s.sales ∧ (ownNumberHeard s).tariff = s.tariff ∧
      (ownNumberHeard s).port.setup = s.port.setup ∧ (ownNumberHeard s).port.home = s.port.home ∧
      (ownNumberHeard s).port.resetHigh = s.port.resetHigh ∧ (ownNumberHeard s).port.buffer = s.port.buffer := by
  unfold ownNumberHeard; split <;> simp

@[simp] theorem noteAddressed_keeps (h : FrameHeader) (s : State) :
    (noteAddressed h s).clock = s.clock ∧ (noteAddressed h s).pending = s.pending ∧
      (noteAddressed h s).sales = s.sales ∧ (noteAddressed h s).tariff = s.tariff ∧
      (noteAddressed h s).port.setup = s.port.setup ∧ (noteAddressed h s).port.home = s.port.home ∧
      (noteAddressed h s).port.resetHigh = s.port.resetHigh ∧ (noteAddressed h s).port.buffer = s.port.buffer := by
  unfold noteAddressed; split <;> simp

@[simp] theorem noteHeard_keeps (n : Nat) (s : State) :
    (noteHeard n s).clock = s.clock ∧ (noteHeard n s).pending = s.pending ∧ (noteHeard n s).sales = s.sales ∧
      (noteHeard n s).tariff = s.tariff ∧ (noteHeard n s).port.setup = s.port.setup ∧
      (noteHeard n s).port.home = s.port.home ∧ (noteHeard n s).port.resetHigh = s.port.resetHigh ∧
      (noteHeard n s).port.buffer = s.port.buffer := by
  simp [noteHeard]

@[simp] theorem trustFrame_keeps_clock (h : FrameHeader) (body : FrameBody) (f : State → State) (s : State) (hf : ∀ t, (f t).clock = t.clock) :
    (trustFrame h body f s).clock = s.clock := by
  unfold trustFrame; (repeat' split) <;> simp [*]

@[simp] theorem trustFrame_keeps_pending (h : FrameHeader) (body : FrameBody) (f : State → State) (s : State) (hf : ∀ t, (f t).pending = t.pending) :
    (trustFrame h body f s).pending = s.pending := by
  unfold trustFrame; (repeat' split) <;> simp [*]

@[simp] theorem trustFrame_keeps_sales (h : FrameHeader) (body : FrameBody) (f : State → State) (s : State) (hf : ∀ t, (f t).sales = t.sales) :
    (trustFrame h body f s).sales = s.sales := by
  unfold trustFrame; (repeat' split) <;> simp [*]

@[simp] theorem trustFrame_keeps_tariff_pin (h : FrameHeader) (body : FrameBody) (f : State → State) (s : State) (hf : ∀ t, (f t).tariff.pin = t.tariff.pin) :
    (trustFrame h body f s).tariff.pin = s.tariff.pin := by
  unfold trustFrame; (repeat' split) <;> simp [*]

@[simp] theorem trustFrame_keeps_tariff (h : FrameHeader) (body : FrameBody) (f : State → State) (s : State) (hf : ∀ t, (f t).tariff = t.tariff) :
    (trustFrame h body f s).tariff = s.tariff := by
  unfold trustFrame; (repeat' split) <;> simp [*]

@[simp] theorem trustFrame_keeps_port_setup (h : FrameHeader) (body : FrameBody) (f : State → State) (s : State) (hf : ∀ t, (f t).port.setup = t.port.setup) :
    (trustFrame h body f s).port.setup = s.port.setup := by
  unfold trustFrame; (repeat' split) <;> simp [*]

@[simp] theorem trustFrame_keeps_port_home (h : FrameHeader) (body : FrameBody) (f : State → State) (s : State) (hf : ∀ t, (f t).port.home = t.port.home) :
    (trustFrame h body f s).port.home = s.port.home := by
  unfold trustFrame; (repeat' split) <;> simp [*]

@[simp] theorem trustFrame_keeps_port_resetHigh (h : FrameHeader) (body : FrameBody) (f : State → State) (s : State) (hf : ∀ t, (f t).port.resetHigh = t.port.resetHigh) :
    (trustFrame h body f s).port.resetHigh = s.port.resetHigh := by
  unfold trustFrame; (repeat' split) <;> simp [*]

@[simp] theorem trustFrame_keeps_port_buffer (h : FrameHeader) (body : FrameBody) (f : State → State) (s : State) (hf : ∀ t, (f t).port.buffer = t.port.buffer) :
    (trustFrame h body f s).port.buffer = s.port.buffer := by
  unfold trustFrame; (repeat' split) <;> simp [*]

@[simp] theorem filterFrame_keeps_clock (h : FrameHeader) (body : FrameBody) (accept : State → State) (s : State) (hf : ∀ t, (accept t).clock = t.clock) :
    (filterFrame h body accept s).clock = s.clock := by
  unfold filterFrame; (repeat' split) <;> simp [*]

@[simp] theorem filterFrame_keeps_pending (h : FrameHeader) (body : FrameBody) (accept : State → State) (s : State) (hf : ∀ t, (accept t).pending = t.pending) :
    (filterFrame h body accept s).pending = s.pending := by
  unfold filterFrame; (repeat' split) <;> simp [*]

@[simp] theorem filterFrame_keeps_sales (h : FrameHeader) (body : FrameBody) (accept : State → State) (s : State) (hf : ∀ t, (accept t).sales = t.sales) :
    (filterFrame h body accept s).sales = s.sales := by
  unfold filterFrame; (repeat' split) <;> simp [*]

@[simp] theorem filterFrame_keeps_tariff_pin (h : FrameHeader) (body : FrameBody) (accept : State → State) (s : State) (hf : ∀ t, (accept t).tariff.pin = t.tariff.pin) :
    (filterFrame h body accept s).tariff.pin = s.tariff.pin := by
  unfold filterFrame; (repeat' split) <;> simp [*]

@[simp] theorem filterFrame_keeps_tariff (h : FrameHeader) (body : FrameBody) (accept : State → State) (s : State) (hf : ∀ t, (accept t).tariff = t.tariff) :
    (filterFrame h body accept s).tariff = s.tariff := by
  unfold filterFrame; (repeat' split) <;> simp [*]

@[simp] theorem filterFrame_keeps_port_setup (h : FrameHeader) (body : FrameBody) (accept : State → State) (s : State) (hf : ∀ t, (accept t).port.setup = t.port.setup) :
    (filterFrame h body accept s).port.setup = s.port.setup := by
  unfold filterFrame; (repeat' split) <;> simp [*]

@[simp] theorem filterFrame_keeps_port_home (h : FrameHeader) (body : FrameBody) (accept : State → State) (s : State) (hf : ∀ t, (accept t).port.home = t.port.home) :
    (filterFrame h body accept s).port.home = s.port.home := by
  unfold filterFrame; (repeat' split) <;> simp [*]

@[simp] theorem filterFrame_keeps_port_resetHigh (h : FrameHeader) (body : FrameBody) (accept : State → State) (s : State) (hf : ∀ t, (accept t).port.resetHigh = t.port.resetHigh) :
    (filterFrame h body accept s).port.resetHigh = s.port.resetHigh := by
  unfold filterFrame; (repeat' split) <;> simp [*]

@[simp] theorem filterFrame_keeps_port_buffer (h : FrameHeader) (body : FrameBody) (accept : State → State) (s : State) (hf : ∀ t, (accept t).port.buffer = t.port.buffer) :
    (filterFrame h body accept s).port.buffer = s.port.buffer := by
  unfold filterFrame; (repeat' split) <;> simp [*]

@[simp] theorem onFrame_keeps_clock (h : FrameHeader) (body : FrameBody) (f : State → State) (s : State) (hf : ∀ t, (f t).clock = t.clock) :
    (onFrame h body f s).clock = s.clock := by
  simp [onFrame, *]

@[simp] theorem onFrame_keeps_pending (h : FrameHeader) (body : FrameBody) (f : State → State) (s : State) (hf : ∀ t, (f t).pending = t.pending) :
    (onFrame h body f s).pending = s.pending := by
  simp [onFrame, *]

@[simp] theorem onFrame_keeps_sales (h : FrameHeader) (body : FrameBody) (f : State → State) (s : State) (hf : ∀ t, (f t).sales = t.sales) :
    (onFrame h body f s).sales = s.sales := by
  simp [onFrame, *]

@[simp] theorem onFrame_keeps_tariff_pin (h : FrameHeader) (body : FrameBody) (f : State → State) (s : State) (hf : ∀ t, (f t).tariff.pin = t.tariff.pin) :
    (onFrame h body f s).tariff.pin = s.tariff.pin := by
  simp [onFrame, *]

@[simp] theorem onFrame_keeps_tariff (h : FrameHeader) (body : FrameBody) (f : State → State) (s : State) (hf : ∀ t, (f t).tariff = t.tariff) :
    (onFrame h body f s).tariff = s.tariff := by
  simp [onFrame, *]

@[simp] theorem onFrame_keeps_port_setup (h : FrameHeader) (body : FrameBody) (f : State → State) (s : State) (hf : ∀ t, (f t).port.setup = t.port.setup) :
    (onFrame h body f s).port.setup = s.port.setup := by
  simp [onFrame, *]

@[simp] theorem onFrame_keeps_port_home (h : FrameHeader) (body : FrameBody) (f : State → State) (s : State) (hf : ∀ t, (f t).port.home = t.port.home) :
    (onFrame h body f s).port.home = s.port.home := by
  simp [onFrame, *]

@[simp] theorem onFrame_keeps_port_resetHigh (h : FrameHeader) (body : FrameBody) (f : State → State) (s : State) (hf : ∀ t, (f t).port.resetHigh = t.port.resetHigh) :
    (onFrame h body f s).port.resetHigh = s.port.resetHigh := by
  simp [onFrame, *]

@[simp] theorem onFrame_keeps_port_buffer (h : FrameHeader) (body : FrameBody) (f : State → State) (s : State) (hf : ∀ t, (f t).port.buffer = t.port.buffer) :
    (onFrame h body f s).port.buffer = s.port.buffer := by
  simp [onFrame, *]

@[simp] theorem atMachine_keeps_clock (f : State → State) (s : State) (hf : ∀ t, (f t).clock = t.clock) :
    (atMachine f s).clock = s.clock := by
  unfold atMachine; (repeat' split) <;> simp [*]

@[simp] theorem atMachine_keeps_pending (f : State → State) (s : State) (hf : ∀ t, (f t).pending = t.pending) :
    (atMachine f s).pending = s.pending := by
  unfold atMachine; (repeat' split) <;> simp [*]

@[simp] theorem atMachine_keeps_sales (f : State → State) (s : State) (hf : ∀ t, (f t).sales = t.sales) :
    (atMachine f s).sales = s.sales := by
  unfold atMachine; (repeat' split) <;> simp [*]

@[simp] theorem atMachine_keeps_tariff_pin (f : State → State) (s : State) (hf : ∀ t, (f t).tariff.pin = t.tariff.pin) :
    (atMachine f s).tariff.pin = s.tariff.pin := by
  unfold atMachine; (repeat' split) <;> simp [*]

@[simp] theorem atMachine_keeps_tariff (f : State → State) (s : State) (hf : ∀ t, (f t).tariff = t.tariff) :
    (atMachine f s).tariff = s.tariff := by
  unfold atMachine; (repeat' split) <;> simp [*]

@[simp] theorem atMachine_keeps_port_setup (f : State → State) (s : State) (hf : ∀ t, (f t).port.setup = t.port.setup) :
    (atMachine f s).port.setup = s.port.setup := by
  unfold atMachine; (repeat' split) <;> simp [*]

@[simp] theorem atMachine_keeps_port_home (f : State → State) (s : State) (hf : ∀ t, (f t).port.home = t.port.home) :
    (atMachine f s).port.home = s.port.home := by
  unfold atMachine; (repeat' split) <;> simp [*]

@[simp] theorem atMachine_keeps_port_resetHigh (f : State → State) (s : State) (hf : ∀ t, (f t).port.resetHigh = t.port.resetHigh) :
    (atMachine f s).port.resetHigh = s.port.resetHigh := by
  unfold atMachine; (repeat' split) <;> simp [*]

@[simp] theorem atMachine_keeps_port_buffer (f : State → State) (s : State) (hf : ∀ t, (f t).port.buffer = t.port.buffer) :
    (atMachine f s).port.buffer = s.port.buffer := by
  unfold atMachine; (repeat' split) <;> simp [*]

@[simp] theorem putWaiting_keeps (r : Received) (s : State) :
    (putWaiting r s).clock = s.clock ∧
      (putWaiting r s).pending = s.pending ∧
      (putWaiting r s).sales = s.sales ∧
      (putWaiting r s).tariff = s.tariff ∧
      (putWaiting r s).port.setup = s.port.setup ∧
      (putWaiting r s).port.home = s.port.home ∧
      (putWaiting r s).port.resetHigh = s.port.resetHigh ∧
      (putWaiting r s).port.buffer = s.port.buffer := by
  unfold putWaiting; split <;> simp

@[simp] theorem frameComplete_keeps (bytes : List Byte) (start : Nat) (s : State) :
    (frameComplete bytes start s).clock = s.clock ∧ (frameComplete bytes start s).pending = s.pending ∧
      (frameComplete bytes start s).sales = s.sales ∧ (frameComplete bytes start s).tariff = s.tariff ∧
      (frameComplete bytes start s).port.setup = s.port.setup ∧
      (frameComplete bytes start s).port.home = s.port.home ∧
      (frameComplete bytes start s).port.resetHigh = s.port.resetHigh ∧
      (frameComplete bytes start s).port.buffer = s.port.buffer := by
  unfold frameComplete; split <;> simp

@[simp] theorem collectByte_keeps (bytes : List Byte) (start : Nat) (stopOk : Bool) (s : State) :
    (collectByte bytes start stopOk s).clock = s.clock ∧ (collectByte bytes start stopOk s).pending = s.pending ∧
      (collectByte bytes start stopOk s).sales = s.sales ∧
      (collectByte bytes start stopOk s).tariff = s.tariff ∧
      (collectByte bytes start stopOk s).port.setup = s.port.setup ∧
      (collectByte bytes start stopOk s).port.home = s.port.home ∧
      (collectByte bytes start stopOk s).port.resetHigh = s.port.resetHigh ∧
      (collectByte bytes start stopOk s).port.buffer = s.port.buffer := by
  unfold collectByte; (repeat' split) <;> simp

@[simp] theorem takeByte_keeps (b : Byte) (stopOk : Bool) (s : State) :
    (takeByte b stopOk s).clock = s.clock ∧ (takeByte b stopOk s).pending = s.pending ∧
      (takeByte b stopOk s).sales = s.sales ∧ (takeByte b stopOk s).tariff = s.tariff ∧
      (takeByte b stopOk s).port.setup = s.port.setup ∧ (takeByte b stopOk s).port.home = s.port.home ∧
      (takeByte b stopOk s).port.resetHigh = s.port.resetHigh ∧ (takeByte b stopOk s).port.buffer = s.port.buffer := by
  unfold takeByte; (repeat' split) <;> simp

@[simp] theorem refuse_keeps (st : Status) (s : State) :
    (refuse st s).2.2.clock = s.clock ∧ (refuse st s).2.2.pending = s.pending ∧ (refuse st s).2.2.sales = s.sales ∧
      (refuse st s).2.2.tariff = s.tariff ∧ (refuse st s).2.2.port.setup = s.port.setup ∧
      (refuse st s).2.2.port.home = s.port.home ∧ (refuse st s).2.2.port.resetHigh = s.port.resetHigh ∧
      (refuse st s).2.2.port.buffer = s.port.buffer := by
  simp [refuse]

@[simp] theorem okay_keeps (r : Result) (s : State) :
    (okay r s).2.2.clock = s.clock ∧ (okay r s).2.2.pending = s.pending ∧ (okay r s).2.2.sales = s.sales ∧
      (okay r s).2.2.tariff = s.tariff ∧ (okay r s).2.2.port.setup = s.port.setup ∧
      (okay r s).2.2.port.home = s.port.home ∧ (okay r s).2.2.port.resetHigh = s.port.resetHigh ∧
      (okay r s).2.2.port.buffer = s.port.buffer := by
  simp [okay]

@[simp] theorem onWrite_keeps_clock (judge : State → State) (s : State) (hf : ∀ t, (judge t).clock = t.clock) :
    (onWrite judge s).clock = s.clock := by
  unfold onWrite; (repeat' split) <;> simp [*]

@[simp] theorem onWrite_keeps_pending (judge : State → State) (s : State) (hf : ∀ t, (judge t).pending = t.pending) :
    (onWrite judge s).pending = s.pending := by
  unfold onWrite; (repeat' split) <;> simp [*]

@[simp] theorem onWrite_keeps_sales (judge : State → State) (s : State) (hf : ∀ t, (judge t).sales = t.sales) :
    (onWrite judge s).sales = s.sales := by
  unfold onWrite; (repeat' split) <;> simp [*]

@[simp] theorem onWrite_keeps_tariff_pin (judge : State → State) (s : State) (hf : ∀ t, (judge t).tariff.pin = t.tariff.pin) :
    (onWrite judge s).tariff.pin = s.tariff.pin := by
  unfold onWrite; (repeat' split) <;> simp [*]

@[simp] theorem onWrite_keeps_tariff (judge : State → State) (s : State) (hf : ∀ t, (judge t).tariff = t.tariff) :
    (onWrite judge s).tariff = s.tariff := by
  unfold onWrite; (repeat' split) <;> simp [*]

@[simp] theorem onWrite_keeps_port_setup (judge : State → State) (s : State) (hf : ∀ t, (judge t).port.setup = t.port.setup) :
    (onWrite judge s).port.setup = s.port.setup := by
  unfold onWrite; (repeat' split) <;> simp [*]

@[simp] theorem onWrite_keeps_port_home (judge : State → State) (s : State) (hf : ∀ t, (judge t).port.home = t.port.home) :
    (onWrite judge s).port.home = s.port.home := by
  unfold onWrite; (repeat' split) <;> simp [*]

@[simp] theorem onWrite_keeps_port_resetHigh (judge : State → State) (s : State) (hf : ∀ t, (judge t).port.resetHigh = t.port.resetHigh) :
    (onWrite judge s).port.resetHigh = s.port.resetHigh := by
  unfold onWrite; (repeat' split) <;> simp [*]

@[simp] theorem onWrite_keeps_port_buffer (judge : State → State) (s : State) (hf : ∀ t, (judge t).port.buffer = t.port.buffer) :
    (onWrite judge s).port.buffer = s.port.buffer := by
  unfold onWrite; (repeat' split) <;> simp [*]

@[simp] theorem guarded_keeps_clock (roles : State → Bool) (body : State → Answer) (s : State) (hf : ∀ t, (body t).2.2.clock = t.clock) :
    (guarded roles body s).2.2.clock = s.clock := by
  unfold guarded; (repeat' split) <;> simp [*]

@[simp] theorem guarded_keeps_pending (roles : State → Bool) (body : State → Answer) (s : State) (hf : ∀ t, (body t).2.2.pending = t.pending) :
    (guarded roles body s).2.2.pending = s.pending := by
  unfold guarded; (repeat' split) <;> simp [*]

@[simp] theorem guarded_keeps_sales (roles : State → Bool) (body : State → Answer) (s : State) (hf : ∀ t, (body t).2.2.sales = t.sales) :
    (guarded roles body s).2.2.sales = s.sales := by
  unfold guarded; (repeat' split) <;> simp [*]

@[simp] theorem guarded_keeps_tariff_pin (roles : State → Bool) (body : State → Answer) (s : State) (hf : ∀ t, (body t).2.2.tariff.pin = t.tariff.pin) :
    (guarded roles body s).2.2.tariff.pin = s.tariff.pin := by
  unfold guarded; (repeat' split) <;> simp [*]

@[simp] theorem guarded_keeps_tariff (roles : State → Bool) (body : State → Answer) (s : State) (hf : ∀ t, (body t).2.2.tariff = t.tariff) :
    (guarded roles body s).2.2.tariff = s.tariff := by
  unfold guarded; (repeat' split) <;> simp [*]

@[simp] theorem guarded_keeps_port_setup (roles : State → Bool) (body : State → Answer) (s : State) (hf : ∀ t, (body t).2.2.port.setup = t.port.setup) :
    (guarded roles body s).2.2.port.setup = s.port.setup := by
  unfold guarded; (repeat' split) <;> simp [*]

@[simp] theorem guarded_keeps_port_home (roles : State → Bool) (body : State → Answer) (s : State) (hf : ∀ t, (body t).2.2.port.home = t.port.home) :
    (guarded roles body s).2.2.port.home = s.port.home := by
  unfold guarded; (repeat' split) <;> simp [*]

@[simp] theorem guarded_keeps_port_resetHigh (roles : State → Bool) (body : State → Answer) (s : State) (hf : ∀ t, (body t).2.2.port.resetHigh = t.port.resetHigh) :
    (guarded roles body s).2.2.port.resetHigh = s.port.resetHigh := by
  unfold guarded; (repeat' split) <;> simp [*]

@[simp] theorem guarded_keeps_port_buffer (roles : State → Bool) (body : State → Answer) (s : State) (hf : ∀ t, (body t).2.2.port.buffer = t.port.buffer) :
    (guarded roles body s).2.2.port.buffer = s.port.buffer := by
  unfold guarded; (repeat' split) <;> simp [*]

@[simp] theorem placed_keeps (dest : Nat) (body : FrameBody) (s : State) :
    (placed dest body s).2.2.clock = s.clock ∧ (placed dest body s).2.2.pending = s.pending ∧
      (placed dest body s).2.2.sales = s.sales ∧ (placed dest body s).2.2.tariff = s.tariff ∧
      (placed dest body s).2.2.port.setup = s.port.setup ∧ (placed dest body s).2.2.port.home = s.port.home ∧
      (placed dest body s).2.2.port.resetHigh = s.port.resetHigh ∧
      (placed dest body s).2.2.port.buffer = s.port.buffer := by
  simp [placed]

@[simp] theorem changeHome_keeps (home : Nat × Nat) (s : State) :
    (changeHome home s).clock = s.clock ∧ (changeHome home s).pending = s.pending ∧
      (changeHome home s).sales = s.sales ∧ (changeHome home s).tariff.pin = s.tariff.pin ∧
      (changeHome home s).port.setup = s.port.setup ∧ (changeHome home s).port.resetHigh = s.port.resetHigh ∧
      (changeHome home s).port.buffer = s.port.buffer := by
  simp [changeHome]

@[simp] theorem senseSetup_keeps (s : State) :
    (senseSetup s).clock = s.clock ∧ (senseSetup s).pending = s.pending ∧ (senseSetup s).sales = s.sales ∧
      (senseSetup s).tariff = s.tariff ∧ (senseSetup s).port.setup = s.port.setup ∧
      (senseSetup s).port.home = s.port.home ∧ (senseSetup s).port.resetHigh = s.port.resetHigh ∧
      (senseSetup s).port.buffer = s.port.buffer := by
  simp [senseSetup]

@[simp] theorem permitSetup_keeps (s : State) :
    (permitSetup s).clock = s.clock ∧ (permitSetup s).pending = s.pending ∧ (permitSetup s).sales = s.sales ∧
      (permitSetup s).tariff = s.tariff ∧ (permitSetup s).port.setup = s.port.setup ∧
      (permitSetup s).port.home = s.port.home ∧ (permitSetup s).port.resetHigh = s.port.resetHigh ∧
      (permitSetup s).port.buffer = s.port.buffer := by
  unfold permitSetup; split <;> simp

@[simp] theorem roundSetup_keeps (s : State) :
    (roundSetup s).clock = s.clock ∧ (roundSetup s).pending = s.pending ∧ (roundSetup s).sales = s.sales ∧
      (roundSetup s).tariff = s.tariff ∧ (roundSetup s).port.setup = s.port.setup ∧
      (roundSetup s).port.home = s.port.home ∧ (roundSetup s).port.resetHigh = s.port.resetHigh ∧
      (roundSetup s).port.buffer = s.port.buffer := by
  unfold roundSetup; dsimp only; (repeat' split) <;> simp

@[simp] theorem completeSetup_keeps (s : State) :
    (completeSetup s).clock = s.clock ∧ (completeSetup s).pending = s.pending ∧ (completeSetup s).sales = s.sales ∧
      (completeSetup s).tariff = s.tariff ∧ (completeSetup s).port.setup = s.port.setup ∧
      (completeSetup s).port.home = s.port.home ∧ (completeSetup s).port.resetHigh = s.port.resetHigh ∧
      (completeSetup s).port.buffer = s.port.buffer := by
  simp [completeSetup]

@[simp] theorem carryOutSetup_keeps (r : SetupRecord) (s : State) :
    (carryOutSetup r s).clock = s.clock ∧ (carryOutSetup r s).pending = s.pending ∧
      (carryOutSetup r s).sales = s.sales ∧ (carryOutSetup r s).tariff.pin = s.tariff.pin ∧
      (carryOutSetup r s).port.resetHigh = s.port.resetHigh ∧ (carryOutSetup r s).port.buffer = s.port.buffer := by
  unfold carryOutSetup; dsimp only; (repeat' split) <;> simp

@[simp] theorem readOut_keeps (whole : Bool) (s : State) :
    (readOut whole s).clock = s.clock ∧ (readOut whole s).pending = s.pending := by
  unfold readOut; (repeat' split) <;> simp

@[simp] theorem answerBadFrame_keeps (s : State) :
    (answerBadFrame s).clock = s.clock ∧ (answerBadFrame s).pending = s.pending ∧
      (answerBadFrame s).sales = s.sales ∧ (answerBadFrame s).tariff = s.tariff ∧
      (answerBadFrame s).port.setup = s.port.setup ∧ (answerBadFrame s).port.home = s.port.home ∧
      (answerBadFrame s).port.resetHigh = s.port.resetHigh := by
  simp [answerBadFrame, refuse]

@[simp] theorem readStatusBody_keeps (s : State) :
    (readStatusBody s).2.2.clock = s.clock ∧ (readStatusBody s).2.2.pending = s.pending ∧
      (readStatusBody s).2.2.sales = s.sales ∧ (readStatusBody s).2.2.tariff = s.tariff ∧
      (readStatusBody s).2.2.port.setup = s.port.setup ∧ (readStatusBody s).2.2.port.home = s.port.home ∧
      (readStatusBody s).2.2.port.resetHigh = s.port.resetHigh ∧
      (readStatusBody s).2.2.port.buffer = s.port.buffer := by
  simp [readStatusBody]

@[simp] theorem setupBody_keeps (p : SetupParams) (s : State) :
    (setupBody p s).2.2.clock = s.clock ∧ (setupBody p s).2.2.pending = s.pending ∧
      (setupBody p s).2.2.sales = s.sales ∧ (setupBody p s).2.2.tariff.pin = s.tariff.pin ∧
      (setupBody p s).2.2.port.resetHigh = s.port.resetHigh ∧ (setupBody p s).2.2.port.buffer = s.port.buffer := by
  unfold setupBody; (repeat' split) <;> simp

@[simp] theorem readEventBody_keeps (s : State) :
    (readEventBody s).2.2.clock = s.clock ∧ (readEventBody s).2.2.pending = s.pending ∧
      (readEventBody s).2.2.sales = s.sales ∧ (readEventBody s).2.2.tariff = s.tariff ∧
      (readEventBody s).2.2.port.setup = s.port.setup := by
  unfold readEventBody; split <;> simp

@[simp] theorem setAssetTagBody_keeps (tag : List Byte) (s : State) :
    (setAssetTagBody tag s).2.2.clock = s.clock ∧ (setAssetTagBody tag s).2.2.pending = s.pending ∧
      (setAssetTagBody tag s).2.2.sales = s.sales ∧ (setAssetTagBody tag s).2.2.tariff = s.tariff ∧
      (setAssetTagBody tag s).2.2.port.setup = s.port.setup := by
  unfold setAssetTagBody; (repeat' split) <;> simp

@[simp] theorem setTimeBody_keeps (seconds : Nat) (s : State) :
    (setTimeBody seconds s).2.2.pending = s.pending ∧ (setTimeBody seconds s).2.2.sales = s.sales ∧
      (setTimeBody seconds s).2.2.tariff.pin = s.tariff.pin ∧
      (setTimeBody seconds s).2.2.port.setup = s.port.setup ∧ (setTimeBody seconds s).2.2.port.home = s.port.home ∧
      (setTimeBody seconds s).2.2.port.resetHigh = s.port.resetHigh ∧
      (setTimeBody seconds s).2.2.port.buffer = s.port.buffer := by
  unfold setTimeBody; split <;> simp

@[simp] theorem giveMark_keeps_pending (m : Mark) (f : State → State) (s : State) (hf : ∀ t, (f t).pending = t.pending) :
    (giveMark m f s).pending = s.pending := by
  unfold giveMark; (repeat' split) <;> simp [*]

@[simp] theorem giveMark_keeps_sales (m : Mark) (f : State → State) (s : State) (hf : ∀ t, (f t).sales = t.sales) :
    (giveMark m f s).sales = s.sales := by
  unfold giveMark; (repeat' split) <;> simp [*]

@[simp] theorem giveMark_keeps_tariff_pin (m : Mark) (f : State → State) (s : State) (hf : ∀ t, (f t).tariff.pin = t.tariff.pin) :
    (giveMark m f s).tariff.pin = s.tariff.pin := by
  unfold giveMark; (repeat' split) <;> simp [*]

@[simp] theorem giveMark_keeps_tariff (m : Mark) (f : State → State) (s : State) (hf : ∀ t, (f t).tariff = t.tariff) :
    (giveMark m f s).tariff = s.tariff := by
  unfold giveMark; (repeat' split) <;> simp [*]

@[simp] theorem giveMark_keeps_port_setup (m : Mark) (f : State → State) (s : State) (hf : ∀ t, (f t).port.setup = t.port.setup) :
    (giveMark m f s).port.setup = s.port.setup := by
  unfold giveMark; (repeat' split) <;> simp [*]

@[simp] theorem giveMark_keeps_port_home (m : Mark) (f : State → State) (s : State) (hf : ∀ t, (f t).port.home = t.port.home) :
    (giveMark m f s).port.home = s.port.home := by
  unfold giveMark; (repeat' split) <;> simp [*]

@[simp] theorem giveMark_keeps_port_resetHigh (m : Mark) (f : State → State) (s : State) (hf : ∀ t, (f t).port.resetHigh = t.port.resetHigh) :
    (giveMark m f s).port.resetHigh = s.port.resetHigh := by
  unfold giveMark; (repeat' split) <;> simp [*]

@[simp] theorem giveMark_keeps_port_buffer (m : Mark) (f : State → State) (s : State) (hf : ∀ t, (f t).port.buffer = t.port.buffer) :
    (giveMark m f s).port.buffer = s.port.buffer := by
  unfold giveMark; (repeat' split) <;> simp [*]

@[simp] theorem cycleStart_keeps (s : State) :
    (cycleStart s).clock = s.clock ∧ (cycleStart s).pending = s.pending ∧ (cycleStart s).sales = s.sales ∧
      (cycleStart s).tariff = s.tariff ∧ (cycleStart s).port.setup = s.port.setup ∧
      (cycleStart s).port.home = s.port.home ∧ (cycleStart s).port.resetHigh = s.port.resetHigh ∧
      (cycleStart s).port.buffer = s.port.buffer := by
  simp [cycleStart]

@[simp] theorem exchangeStart_keeps (s : State) :
    (exchangeStart s).clock = s.clock ∧ (exchangeStart s).pending = s.pending ∧ (exchangeStart s).sales = s.sales ∧
      (exchangeStart s).tariff = s.tariff ∧ (exchangeStart s).port.setup = s.port.setup ∧
      (exchangeStart s).port.home = s.port.home ∧ (exchangeStart s).port.resetHigh = s.port.resetHigh ∧
      (exchangeStart s).port.buffer = s.port.buffer := by
  simp [exchangeStart]

@[simp] theorem readPeerBody_keeps (station : Nat) (s : State) :
    (readPeerBody station s).2.2.clock = s.clock ∧ (readPeerBody station s).2.2.pending = s.pending ∧
      (readPeerBody station s).2.2.sales = s.sales ∧ (readPeerBody station s).2.2.tariff = s.tariff ∧
      (readPeerBody station s).2.2.port.setup = s.port.setup ∧
      (readPeerBody station s).2.2.port.home = s.port.home ∧
      (readPeerBody station s).2.2.port.resetHigh = s.port.resetHigh ∧
      (readPeerBody station s).2.2.port.buffer = s.port.buffer := by
  unfold readPeerBody; (repeat' split) <;> simp

@[simp] theorem discardFrame_keeps (bytes : List Byte) (s : State) :
    (discardFrame bytes s).clock = s.clock ∧ (discardFrame bytes s).pending = s.pending ∧
      (discardFrame bytes s).sales = s.sales ∧ (discardFrame bytes s).tariff = s.tariff ∧
      (discardFrame bytes s).port.setup = s.port.setup ∧ (discardFrame bytes s).port.home = s.port.home ∧
      (discardFrame bytes s).port.resetHigh = s.port.resetHigh ∧
      (discardFrame bytes s).port.buffer = s.port.buffer := by
  unfold discardFrame; (repeat' split) <;> simp

@[simp] theorem takeEntry_keeps (sender : Nat) (a : AnnounceBody) (s : State) :
    (takeEntry sender a s).clock = s.clock ∧ (takeEntry sender a s).pending = s.pending ∧
      (takeEntry sender a s).sales = s.sales ∧ (takeEntry sender a s).tariff = s.tariff ∧
      (takeEntry sender a s).port.setup = s.port.setup ∧ (takeEntry sender a s).port.home = s.port.home ∧
      (takeEntry sender a s).port.resetHigh = s.port.resetHigh ∧
      (takeEntry sender a s).port.buffer = s.port.buffer := by
  unfold takeEntry; dsimp only; (repeat' split) <;> simp

@[simp] theorem noteWindow_keeps (sender : Nat) (s : State) :
    (noteWindow sender s).clock = s.clock ∧ (noteWindow sender s).pending = s.pending ∧
      (noteWindow sender s).sales = s.sales ∧ (noteWindow sender s).tariff = s.tariff ∧
      (noteWindow sender s).port.setup = s.port.setup ∧ (noteWindow sender s).port.home = s.port.home ∧
      (noteWindow sender s).port.resetHigh = s.port.resetHigh ∧ (noteWindow sender s).port.buffer = s.port.buffer := by
  unfold noteWindow; split <;> simp

@[simp] theorem permitAnnounceNotice_keeps (s : State) :
    (permitAnnounceNotice s).clock = s.clock ∧ (permitAnnounceNotice s).pending = s.pending ∧
      (permitAnnounceNotice s).sales = s.sales ∧ (permitAnnounceNotice s).tariff = s.tariff ∧
      (permitAnnounceNotice s).port.setup = s.port.setup ∧ (permitAnnounceNotice s).port.home = s.port.home ∧
      (permitAnnounceNotice s).port.resetHigh = s.port.resetHigh ∧
      (permitAnnounceNotice s).port.buffer = s.port.buffer := by
  simp [permitAnnounceNotice]

@[simp] theorem takeAnnounce_keeps (sender : Nat) (receptionMs : Nat) (a : AnnounceBody) (s : State) :
    (takeAnnounce sender receptionMs a s).pending = s.pending ∧
      (takeAnnounce sender receptionMs a s).sales = s.sales ∧
      (takeAnnounce sender receptionMs a s).tariff.pin = s.tariff.pin ∧
      (takeAnnounce sender receptionMs a s).port.setup = s.port.setup ∧
      (takeAnnounce sender receptionMs a s).port.home = s.port.home ∧
      (takeAnnounce sender receptionMs a s).port.resetHigh = s.port.resetHigh ∧
      (takeAnnounce sender receptionMs a s).port.buffer = s.port.buffer := by
  simp [takeAnnounce]

@[simp] theorem makeSilent_keeps (station : Nat) (s : State) :
    (makeSilent station s).clock = s.clock ∧ (makeSilent station s).pending = s.pending ∧
      (makeSilent station s).sales = s.sales ∧ (makeSilent station s).tariff = s.tariff ∧
      (makeSilent station s).port.setup = s.port.setup ∧ (makeSilent station s).port.home = s.port.home ∧
      (makeSilent station s).port.resetHigh = s.port.resetHigh ∧
      (makeSilent station s).port.buffer = s.port.buffer := by
  simp [makeSilent]

@[simp] theorem mediumIdleOp_keeps (s : State) :
    (mediumIdleOp s).clock = s.clock ∧ (mediumIdleOp s).pending = s.pending ∧ (mediumIdleOp s).sales = s.sales ∧
      (mediumIdleOp s).tariff = s.tariff ∧ (mediumIdleOp s).port.setup = s.port.setup ∧
      (mediumIdleOp s).port.home = s.port.home ∧ (mediumIdleOp s).port.resetHigh = s.port.resetHigh ∧
      (mediumIdleOp s).port.buffer = s.port.buffer := by
  unfold mediumIdleOp; dsimp only; (repeat' split) <;> simp

@[simp] theorem readReplicationBody_keeps (s : State) :
    (readReplicationBody s).2.2.clock = s.clock ∧ (readReplicationBody s).2.2.pending = s.pending ∧
      (readReplicationBody s).2.2.sales = s.sales ∧ (readReplicationBody s).2.2.tariff = s.tariff ∧
      (readReplicationBody s).2.2.port.setup = s.port.setup ∧ (readReplicationBody s).2.2.port.home = s.port.home ∧
      (readReplicationBody s).2.2.port.resetHigh = s.port.resetHigh ∧
      (readReplicationBody s).2.2.port.buffer = s.port.buffer := by
  simp [readReplicationBody]

@[simp] theorem takeRequest_keeps (sender : Nat) (r : RequestBody) (s : State) :
    (takeRequest sender r s).clock = s.clock ∧ (takeRequest sender r s).pending = s.pending ∧
      (takeRequest sender r s).sales = s.sales ∧ (takeRequest sender r s).tariff = s.tariff ∧
      (takeRequest sender r s).port.setup = s.port.setup ∧ (takeRequest sender r s).port.home = s.port.home ∧
      (takeRequest sender r s).port.resetHigh = s.port.resetHigh ∧
      (takeRequest sender r s).port.buffer = s.port.buffer := by
  unfold takeRequest; split <;> simp

@[simp] theorem judgeFragment_keeps (sender : Nat) (f : FragmentBody) (s : State) :
    (judgeFragment sender f s).clock = s.clock ∧ (judgeFragment sender f s).pending = s.pending ∧
      (judgeFragment sender f s).sales = s.sales ∧ (judgeFragment sender f s).tariff.pin = s.tariff.pin ∧
      (judgeFragment sender f s).port.setup = s.port.setup ∧ (judgeFragment sender f s).port.home = s.port.home ∧
      (judgeFragment sender f s).port.resetHigh = s.port.resetHigh ∧
      (judgeFragment sender f s).port.buffer = s.port.buffer := by
  unfold judgeFragment; (repeat' split) <;> simp

@[simp] theorem takeNotHeld_keeps (sender : Nat) (obj : ImageObj) (key : Key) (s : State) :
    (takeNotHeld sender obj key s).clock = s.clock ∧ (takeNotHeld sender obj key s).pending = s.pending ∧
      (takeNotHeld sender obj key s).sales = s.sales ∧ (takeNotHeld sender obj key s).tariff = s.tariff ∧
      (takeNotHeld sender obj key s).port.setup = s.port.setup ∧
      (takeNotHeld sender obj key s).port.home = s.port.home ∧
      (takeNotHeld sender obj key s).port.resetHigh = s.port.resetHigh ∧
      (takeNotHeld sender obj key s).port.buffer = s.port.buffer := by
  unfold takeNotHeld; (repeat' split) <;> simp

@[simp] theorem takeSuperseded_keeps (sender : Nat) (obj : ImageObj) (key : Key) (s : State) :
    (takeSuperseded sender obj key s).clock = s.clock ∧ (takeSuperseded sender obj key s).pending = s.pending ∧
      (takeSuperseded sender obj key s).sales = s.sales ∧
      (takeSuperseded sender obj key s).tariff = s.tariff ∧
      (takeSuperseded sender obj key s).port.setup = s.port.setup ∧
      (takeSuperseded sender obj key s).port.home = s.port.home ∧
      (takeSuperseded sender obj key s).port.resetHigh = s.port.resetHigh ∧
      (takeSuperseded sender obj key s).port.buffer = s.port.buffer := by
  unfold takeSuperseded; (repeat' split) <;> simp

@[simp] theorem readTariffBody_keeps (slot : Option TariffSlot) (part : Option TariffPart) (index : Nat) (s : State) :
    (readTariffBody slot part index s).2.2.clock = s.clock ∧
      (readTariffBody slot part index s).2.2.pending = s.pending ∧
      (readTariffBody slot part index s).2.2.sales = s.sales ∧
      (readTariffBody slot part index s).2.2.tariff = s.tariff ∧
      (readTariffBody slot part index s).2.2.port.setup = s.port.setup ∧
      (readTariffBody slot part index s).2.2.port.home = s.port.home ∧
      (readTariffBody slot part index s).2.2.port.resetHigh = s.port.resetHigh ∧
      (readTariffBody slot part index s).2.2.port.buffer = s.port.buffer := by
  unfold readTariffBody; (repeat' split) <;> simp

@[simp] theorem beginFrom_keeps (t : Option TariffSet) (s : State) :
    (beginFrom t s).2.2.clock = s.clock ∧ (beginFrom t s).2.2.pending = s.pending ∧
      (beginFrom t s).2.2.sales = s.sales ∧ (beginFrom t s).2.2.tariff.pin = s.tariff.pin ∧
      (beginFrom t s).2.2.port.setup = s.port.setup ∧ (beginFrom t s).2.2.port.home = s.port.home ∧
      (beginFrom t s).2.2.port.resetHigh = s.port.resetHigh ∧ (beginFrom t s).2.2.port.buffer = s.port.buffer := by
  unfold beginFrom; split <;> simp

@[simp] theorem draftBeginBody_keeps (source : Option DraftSource) (s : State) :
    (draftBeginBody source s).2.2.clock = s.clock ∧ (draftBeginBody source s).2.2.pending = s.pending ∧
      (draftBeginBody source s).2.2.sales = s.sales ∧ (draftBeginBody source s).2.2.tariff.pin = s.tariff.pin ∧
      (draftBeginBody source s).2.2.port.setup = s.port.setup ∧
      (draftBeginBody source s).2.2.port.home = s.port.home ∧
      (draftBeginBody source s).2.2.port.resetHigh = s.port.resetHigh ∧
      (draftBeginBody source s).2.2.port.buffer = s.port.buffer := by
  unfold draftBeginBody; split <;> simp

@[simp] theorem withDraft_keeps_clock (body : Draft → State → Answer) (s : State) (hf : ∀ r t, (body r t).2.2.clock = t.clock) :
    (withDraft body s).2.2.clock = s.clock := by
  unfold withDraft; (repeat' split) <;> simp [*]

@[simp] theorem withDraft_keeps_pending (body : Draft → State → Answer) (s : State) (hf : ∀ r t, (body r t).2.2.pending = t.pending) :
    (withDraft body s).2.2.pending = s.pending := by
  unfold withDraft; (repeat' split) <;> simp [*]

@[simp] theorem withDraft_keeps_sales (body : Draft → State → Answer) (s : State) (hf : ∀ r t, (body r t).2.2.sales = t.sales) :
    (withDraft body s).2.2.sales = s.sales := by
  unfold withDraft; (repeat' split) <;> simp [*]

@[simp] theorem withDraft_keeps_tariff_pin (body : Draft → State → Answer) (s : State) (hf : ∀ r t, (body r t).2.2.tariff.pin = t.tariff.pin) :
    (withDraft body s).2.2.tariff.pin = s.tariff.pin := by
  unfold withDraft; (repeat' split) <;> simp [*]

@[simp] theorem withDraft_keeps_tariff (body : Draft → State → Answer) (s : State) (hf : ∀ r t, (body r t).2.2.tariff = t.tariff) :
    (withDraft body s).2.2.tariff = s.tariff := by
  unfold withDraft; (repeat' split) <;> simp [*]

@[simp] theorem withDraft_keeps_port_setup (body : Draft → State → Answer) (s : State) (hf : ∀ r t, (body r t).2.2.port.setup = t.port.setup) :
    (withDraft body s).2.2.port.setup = s.port.setup := by
  unfold withDraft; (repeat' split) <;> simp [*]

@[simp] theorem withDraft_keeps_port_home (body : Draft → State → Answer) (s : State) (hf : ∀ r t, (body r t).2.2.port.home = t.port.home) :
    (withDraft body s).2.2.port.home = s.port.home := by
  unfold withDraft; (repeat' split) <;> simp [*]

@[simp] theorem withDraft_keeps_port_resetHigh (body : Draft → State → Answer) (s : State) (hf : ∀ r t, (body r t).2.2.port.resetHigh = t.port.resetHigh) :
    (withDraft body s).2.2.port.resetHigh = s.port.resetHigh := by
  unfold withDraft; (repeat' split) <;> simp [*]

@[simp] theorem withDraft_keeps_port_buffer (body : Draft → State → Answer) (s : State) (hf : ∀ r t, (body r t).2.2.port.buffer = t.port.buffer) :
    (withDraft body s).2.2.port.buffer = s.port.buffer := by
  unfold withDraft; (repeat' split) <;> simp [*]

@[simp] theorem draftSelectBody_keeps (part : Option TariffPart) (d : Draft) (s : State) :
    (draftSelectBody part d s).2.2.clock = s.clock ∧ (draftSelectBody part d s).2.2.pending = s.pending ∧
      (draftSelectBody part d s).2.2.sales = s.sales ∧ (draftSelectBody part d s).2.2.tariff.pin = s.tariff.pin ∧
      (draftSelectBody part d s).2.2.port.setup = s.port.setup ∧
      (draftSelectBody part d s).2.2.port.home = s.port.home ∧
      (draftSelectBody part d s).2.2.port.resetHigh = s.port.resetHigh ∧
      (draftSelectBody part d s).2.2.port.buffer = s.port.buffer := by
  unfold draftSelectBody; split <;> simp

@[simp] theorem draftWriteBody_keeps (entry : List Byte) (d : Draft) (s : State) :
    (draftWriteBody entry d s).2.2.clock = s.clock ∧ (draftWriteBody entry d s).2.2.pending = s.pending ∧
      (draftWriteBody entry d s).2.2.sales = s.sales ∧ (draftWriteBody entry d s).2.2.tariff.pin = s.tariff.pin ∧
      (draftWriteBody entry d s).2.2.port.setup = s.port.setup ∧
      (draftWriteBody entry d s).2.2.port.home = s.port.home ∧
      (draftWriteBody entry d s).2.2.port.resetHigh = s.port.resetHigh ∧
      (draftWriteBody entry d s).2.2.port.buffer = s.port.buffer := by
  unfold draftWriteBody; (repeat' split) <;> simp

@[simp] theorem draftReadBody_keeps (d : Draft) (s : State) :
    (draftReadBody d s).2.2.clock = s.clock ∧ (draftReadBody d s).2.2.pending = s.pending ∧
      (draftReadBody d s).2.2.sales = s.sales ∧ (draftReadBody d s).2.2.tariff.pin = s.tariff.pin ∧
      (draftReadBody d s).2.2.port.setup = s.port.setup ∧ (draftReadBody d s).2.2.port.home = s.port.home ∧
      (draftReadBody d s).2.2.port.resetHigh = s.port.resetHigh ∧
      (draftReadBody d s).2.2.port.buffer = s.port.buffer := by
  simp [draftReadBody]

@[simp] theorem publish_keeps (effectiveFrom : Nat) (zoneSec : Nat) (d : Draft) (s : State) :
    (publish effectiveFrom zoneSec d s).2.2.clock = s.clock ∧
      (publish effectiveFrom zoneSec d s).2.2.pending = s.pending ∧
      (publish effectiveFrom zoneSec d s).2.2.sales = s.sales ∧
      (publish effectiveFrom zoneSec d s).2.2.tariff.pin = s.tariff.pin ∧
      (publish effectiveFrom zoneSec d s).2.2.port.setup = s.port.setup ∧
      (publish effectiveFrom zoneSec d s).2.2.port.home = s.port.home ∧
      (publish effectiveFrom zoneSec d s).2.2.port.resetHigh = s.port.resetHigh ∧
      (publish effectiveFrom zoneSec d s).2.2.port.buffer = s.port.buffer := by
  simp [publish]

@[simp] theorem publishBody_keeps (effectiveFrom : Nat) (d : Draft) (s : State) :
    (publishBody effectiveFrom d s).2.2.clock = s.clock ∧ (publishBody effectiveFrom d s).2.2.pending = s.pending ∧
      (publishBody effectiveFrom d s).2.2.sales = s.sales ∧
      (publishBody effectiveFrom d s).2.2.tariff.pin = s.tariff.pin ∧
      (publishBody effectiveFrom d s).2.2.port.setup = s.port.setup ∧
      (publishBody effectiveFrom d s).2.2.port.home = s.port.home ∧
      (publishBody effectiveFrom d s).2.2.port.resetHigh = s.port.resetHigh ∧
      (publishBody effectiveFrom d s).2.2.port.buffer = s.port.buffer := by
  unfold publishBody; (repeat' split) <;> simp

@[simp] theorem quoteAnswer_keeps (o : QuoteOutcome) (s : State) :
    (quoteAnswer o s).2.2.clock = s.clock ∧ (quoteAnswer o s).2.2.pending = s.pending ∧
      (quoteAnswer o s).2.2.sales = s.sales ∧ (quoteAnswer o s).2.2.tariff = s.tariff ∧
      (quoteAnswer o s).2.2.port.setup = s.port.setup ∧ (quoteAnswer o s).2.2.port.home = s.port.home ∧
      (quoteAnswer o s).2.2.port.resetHigh = s.port.resetHigh ∧ (quoteAnswer o s).2.2.port.buffer = s.port.buffer := by
  unfold quoteAnswer; split <;> simp

@[simp] theorem quoteBody_keeps (mode : Option QuoteMode) (value : Nat) (cls : ClassParam) (s : State) :
    (quoteBody mode value cls s).2.2.clock = s.clock ∧ (quoteBody mode value cls s).2.2.pending = s.pending ∧
      (quoteBody mode value cls s).2.2.sales = s.sales ∧
      (quoteBody mode value cls s).2.2.tariff = s.tariff ∧
      (quoteBody mode value cls s).2.2.port.setup = s.port.setup ∧
      (quoteBody mode value cls s).2.2.port.home = s.port.home ∧
      (quoteBody mode value cls s).2.2.port.resetHigh = s.port.resetHigh ∧
      (quoteBody mode value cls s).2.2.port.buffer = s.port.buffer := by
  unfold quoteBody; (repeat' split) <;> simp

@[simp] theorem onSale_keeps_clock (body : Sale → State → Answer) (s : State) (hf : ∀ r t, (body r t).2.2.clock = t.clock) :
    (onSale body s).2.2.clock = s.clock := by
  unfold onSale; (repeat' split) <;> simp [*]

@[simp] theorem onSale_keeps_pending (body : Sale → State → Answer) (s : State) (hf : ∀ r t, (body r t).2.2.pending = t.pending) :
    (onSale body s).2.2.pending = s.pending := by
  unfold onSale; (repeat' split) <;> simp [*]

@[simp] theorem onSale_keeps_tariff_pin (body : Sale → State → Answer) (s : State) (hf : ∀ r t, (body r t).2.2.tariff.pin = t.tariff.pin) :
    (onSale body s).2.2.tariff.pin = s.tariff.pin := by
  unfold onSale; (repeat' split) <;> simp [*]

@[simp] theorem onSale_keeps_tariff (body : Sale → State → Answer) (s : State) (hf : ∀ r t, (body r t).2.2.tariff = t.tariff) :
    (onSale body s).2.2.tariff = s.tariff := by
  unfold onSale; (repeat' split) <;> simp [*]

@[simp] theorem onSale_keeps_port_setup (body : Sale → State → Answer) (s : State) (hf : ∀ r t, (body r t).2.2.port.setup = t.port.setup) :
    (onSale body s).2.2.port.setup = s.port.setup := by
  unfold onSale; (repeat' split) <;> simp [*]

@[simp] theorem onSale_keeps_port_home (body : Sale → State → Answer) (s : State) (hf : ∀ r t, (body r t).2.2.port.home = t.port.home) :
    (onSale body s).2.2.port.home = s.port.home := by
  unfold onSale; (repeat' split) <;> simp [*]

@[simp] theorem onSale_keeps_port_resetHigh (body : Sale → State → Answer) (s : State) (hf : ∀ r t, (body r t).2.2.port.resetHigh = t.port.resetHigh) :
    (onSale body s).2.2.port.resetHigh = s.port.resetHigh := by
  unfold onSale; (repeat' split) <;> simp [*]

@[simp] theorem onSale_keeps_port_buffer (body : Sale → State → Answer) (s : State) (hf : ∀ r t, (body r t).2.2.port.buffer = t.port.buffer) :
    (onSale body s).2.2.port.buffer = s.port.buffer := by
  unfold onSale; (repeat' split) <;> simp [*]

@[simp] theorem taken_keeps (r : Sale) (s : State) :
    (taken r s).2.2.clock = s.clock ∧ (taken r s).2.2.pending = s.pending ∧
      (taken r s).2.2.tariff = s.tariff ∧ (taken r s).2.2.port.setup = s.port.setup ∧
      (taken r s).2.2.port.home = s.port.home ∧ (taken r s).2.2.port.resetHigh = s.port.resetHigh ∧
      (taken r s).2.2.port.buffer = s.port.buffer := by
  simp [taken]

@[simp] theorem openSale_keeps (pin : Key) (s : State) :
    (openSale pin s).2.2.clock = s.clock ∧ (openSale pin s).2.2.pending = s.pending ∧
      (openSale pin s).2.2.port.setup = s.port.setup ∧ (openSale pin s).2.2.port.home = s.port.home ∧
      (openSale pin s).2.2.port.resetHigh = s.port.resetHigh ∧ (openSale pin s).2.2.port.buffer = s.port.buffer := by
  simp [openSale]

@[simp] theorem saleOpenBody_keeps (s : State) :
    (saleOpenBody s).2.2.clock = s.clock ∧ (saleOpenBody s).2.2.pending = s.pending ∧
      (saleOpenBody s).2.2.port.setup = s.port.setup ∧ (saleOpenBody s).2.2.port.home = s.port.home ∧
      (saleOpenBody s).2.2.port.resetHigh = s.port.resetHigh ∧ (saleOpenBody s).2.2.port.buffer = s.port.buffer := by
  unfold saleOpenBody; (repeat' split) <;> simp

@[simp] theorem refuseBoxFull_keeps (s : State) :
    (refuseBoxFull s).2.2.clock = s.clock ∧ (refuseBoxFull s).2.2.pending = s.pending ∧
      (refuseBoxFull s).2.2.sales = s.sales ∧ (refuseBoxFull s).2.2.tariff = s.tariff ∧
      (refuseBoxFull s).2.2.port.setup = s.port.setup ∧ (refuseBoxFull s).2.2.port.home = s.port.home ∧
      (refuseBoxFull s).2.2.port.resetHigh = s.port.resetHigh ∧ (refuseBoxFull s).2.2.port.buffer = s.port.buffer := by
  simp [refuseBoxFull]

@[simp] theorem saleCoinBody_keeps (index : Nat) (r : Sale) (s : State) :
    (saleCoinBody index r s).2.2.clock = s.clock ∧ (saleCoinBody index r s).2.2.pending = s.pending ∧
      (saleCoinBody index r s).2.2.tariff = s.tariff ∧
      (saleCoinBody index r s).2.2.port.setup = s.port.setup ∧
      (saleCoinBody index r s).2.2.port.home = s.port.home ∧
      (saleCoinBody index r s).2.2.port.resetHigh = s.port.resetHigh ∧
      (saleCoinBody index r s).2.2.port.buffer = s.port.buffer := by
  unfold saleCoinBody; (repeat' split) <;> simp

@[simp] theorem saleCardBody_keeps (amount : Nat) (r : Sale) (s : State) :
    (saleCardBody amount r s).2.2.clock = s.clock ∧ (saleCardBody amount r s).2.2.pending = s.pending ∧
      (saleCardBody amount r s).2.2.tariff = s.tariff ∧
      (saleCardBody amount r s).2.2.port.setup = s.port.setup ∧
      (saleCardBody amount r s).2.2.port.home = s.port.home ∧
      (saleCardBody amount r s).2.2.port.resetHigh = s.port.resetHigh ∧
      (saleCardBody amount r s).2.2.port.buffer = s.port.buffer := by
  unfold saleCardBody; (repeat' split) <;> simp

@[simp] theorem takenPermit_keeps (check : CheckResult) (r : Sale) (s : State) :
    (takenPermit check r s).2.2.clock = s.clock ∧ (takenPermit check r s).2.2.pending = s.pending ∧
      (takenPermit check r s).2.2.tariff = s.tariff ∧
      (takenPermit check r s).2.2.port.setup = s.port.setup ∧ (takenPermit check r s).2.2.port.home = s.port.home ∧
      (takenPermit check r s).2.2.port.resetHigh = s.port.resetHigh ∧
      (takenPermit check r s).2.2.port.buffer = s.port.buffer := by
  simp [takenPermit]

@[simp] theorem applyPermit_keeps (p : PermitRec) (check : CheckResult) (treat : ClassEntry) (r : Sale) (s : State) :
    (applyPermit p check treat r s).2.2.clock = s.clock ∧ (applyPermit p check treat r s).2.2.pending = s.pending ∧
      (applyPermit p check treat r s).2.2.tariff = s.tariff ∧
      (applyPermit p check treat r s).2.2.port.setup = s.port.setup ∧
      (applyPermit p check treat r s).2.2.port.home = s.port.home ∧
      (applyPermit p check treat r s).2.2.port.resetHigh = s.port.resetHigh ∧
      (applyPermit p check treat r s).2.2.port.buffer = s.port.buffer := by
  unfold applyPermit; split <;> simp

@[simp] theorem salePermitBody_keeps (number : Nat) (r : Sale) (s : State) :
    (salePermitBody number r s).2.2.clock = s.clock ∧ (salePermitBody number r s).2.2.pending = s.pending ∧
      (salePermitBody number r s).2.2.tariff = s.tariff ∧
      (salePermitBody number r s).2.2.port.setup = s.port.setup ∧
      (salePermitBody number r s).2.2.port.home = s.port.home ∧
      (salePermitBody number r s).2.2.port.resetHigh = s.port.resetHigh ∧
      (salePermitBody number r s).2.2.port.buffer = s.port.buffer := by
  unfold salePermitBody; (repeat' split) <;> simp

@[simp] theorem saleDurationBody_keeps (minutes : Nat) (r : Sale) (s : State) :
    (saleDurationBody minutes r s).2.2.clock = s.clock ∧ (saleDurationBody minutes r s).2.2.pending = s.pending ∧
      (saleDurationBody minutes r s).2.2.tariff = s.tariff ∧
      (saleDurationBody minutes r s).2.2.port.setup = s.port.setup ∧
      (saleDurationBody minutes r s).2.2.port.home = s.port.home ∧
      (saleDurationBody minutes r s).2.2.port.resetHigh = s.port.resetHigh ∧
      (saleDurationBody minutes r s).2.2.port.buffer = s.port.buffer := by
  unfold saleDurationBody; split <;> simp

@[simp] theorem commitUsage_keeps (zoneSec : Nat) (r : Sale) (q : QuoteResult) (s : State) :
    (commitUsage zoneSec r q s).clock = s.clock ∧ (commitUsage zoneSec r q s).pending = s.pending ∧
      (commitUsage zoneSec r q s).sales = s.sales ∧ (commitUsage zoneSec r q s).tariff = s.tariff ∧
      (commitUsage zoneSec r q s).port.setup = s.port.setup ∧ (commitUsage zoneSec r q s).port.home = s.port.home ∧
      (commitUsage zoneSec r q s).port.resetHigh = s.port.resetHigh ∧
      (commitUsage zoneSec r q s).port.buffer = s.port.buffer := by
  unfold commitUsage; split <;> simp

@[simp] theorem commitSale_keeps (zoneSec : Nat) (r : Sale) (q : QuoteResult) (s : State) :
    (commitSale zoneSec r q s).2.2.clock = s.clock ∧ (commitSale zoneSec r q s).2.2.pending = s.pending ∧
      (commitSale zoneSec r q s).2.2.port.setup = s.port.setup ∧
      (commitSale zoneSec r q s).2.2.port.home = s.port.home ∧
      (commitSale zoneSec r q s).2.2.port.resetHigh = s.port.resetHigh ∧
      (commitSale zoneSec r q s).2.2.port.buffer = s.port.buffer := by
  simp [commitSale]

@[simp] theorem judgeCommit_keeps (zoneSec : Nat) (r : Sale) (s : State) :
    (judgeCommit zoneSec r s).2.2.clock = s.clock ∧ (judgeCommit zoneSec r s).2.2.pending = s.pending ∧
      (judgeCommit zoneSec r s).2.2.port.setup = s.port.setup ∧
      (judgeCommit zoneSec r s).2.2.port.home = s.port.home ∧
      (judgeCommit zoneSec r s).2.2.port.resetHigh = s.port.resetHigh ∧
      (judgeCommit zoneSec r s).2.2.port.buffer = s.port.buffer := by
  unfold judgeCommit; (repeat' split) <;> simp

@[simp] theorem saleCommitBody_keeps (r : Sale) (s : State) :
    (saleCommitBody r s).2.2.clock = s.clock ∧ (saleCommitBody r s).2.2.pending = s.pending ∧
      (saleCommitBody r s).2.2.port.setup = s.port.setup ∧ (saleCommitBody r s).2.2.port.home = s.port.home ∧
      (saleCommitBody r s).2.2.port.resetHigh = s.port.resetHigh ∧
      (saleCommitBody r s).2.2.port.buffer = s.port.buffer := by
  simp [saleCommitBody]

@[simp] theorem saleCancelBody_keeps (r : Sale) (s : State) :
    (saleCancelBody r s).2.2.clock = s.clock ∧ (saleCancelBody r s).2.2.pending = s.pending ∧
      (saleCancelBody r s).2.2.port.setup = s.port.setup ∧ (saleCancelBody r s).2.2.port.home = s.port.home ∧
      (saleCancelBody r s).2.2.port.resetHigh = s.port.resetHigh ∧
      (saleCancelBody r s).2.2.port.buffer = s.port.buffer := by
  simp [saleCancelBody]

@[simp] theorem readTallyBody_keeps (s : State) :
    (readTallyBody s).2.2.clock = s.clock ∧ (readTallyBody s).2.2.pending = s.pending ∧
      (readTallyBody s).2.2.sales = s.sales ∧ (readTallyBody s).2.2.tariff = s.tariff ∧
      (readTallyBody s).2.2.port.setup = s.port.setup ∧ (readTallyBody s).2.2.port.home = s.port.home ∧
      (readTallyBody s).2.2.port.resetHigh = s.port.resetHigh ∧ (readTallyBody s).2.2.port.buffer = s.port.buffer := by
  simp [readTallyBody]

@[simp] theorem readJournalBody_keeps (q : Nat) (s : State) :
    (readJournalBody q s).2.2.clock = s.clock ∧ (readJournalBody q s).2.2.pending = s.pending ∧
      (readJournalBody q s).2.2.sales = s.sales ∧ (readJournalBody q s).2.2.tariff = s.tariff ∧
      (readJournalBody q s).2.2.port.setup = s.port.setup ∧ (readJournalBody q s).2.2.port.home = s.port.home ∧
      (readJournalBody q s).2.2.port.resetHigh = s.port.resetHigh ∧
      (readJournalBody q s).2.2.port.buffer = s.port.buffer := by
  unfold readJournalBody; (repeat' split) <;> simp

@[simp] theorem checkPermitBody_keeps (number : Nat) (s : State) :
    (checkPermitBody number s).2.2.clock = s.clock ∧ (checkPermitBody number s).2.2.pending = s.pending ∧
      (checkPermitBody number s).2.2.sales = s.sales ∧ (checkPermitBody number s).2.2.tariff = s.tariff ∧
      (checkPermitBody number s).2.2.port.setup = s.port.setup ∧
      (checkPermitBody number s).2.2.port.home = s.port.home ∧
      (checkPermitBody number s).2.2.port.resetHigh = s.port.resetHigh ∧
      (checkPermitBody number s).2.2.port.buffer = s.port.buffer := by
  unfold checkPermitBody; (repeat' split) <;> simp

@[simp] theorem amendSection_keeps (i : Nat) (c : AmendChange) (s : State) :
    (amendSection i c s).2.2.clock = s.clock ∧ (amendSection i c s).2.2.pending = s.pending ∧
      (amendSection i c s).2.2.sales = s.sales ∧ (amendSection i c s).2.2.tariff = s.tariff ∧
      (amendSection i c s).2.2.port.setup = s.port.setup ∧ (amendSection i c s).2.2.port.home = s.port.home ∧
      (amendSection i c s).2.2.port.resetHigh = s.port.resetHigh ∧
      (amendSection i c s).2.2.port.buffer = s.port.buffer := by
  unfold amendSection; (repeat' split) <;> simp

@[simp] theorem amendPermitBody_keeps (op : AmendParam) (s : State) :
    (amendPermitBody op s).2.2.clock = s.clock ∧ (amendPermitBody op s).2.2.pending = s.pending ∧
      (amendPermitBody op s).2.2.sales = s.sales ∧ (amendPermitBody op s).2.2.tariff = s.tariff ∧
      (amendPermitBody op s).2.2.port.setup = s.port.setup ∧ (amendPermitBody op s).2.2.port.home = s.port.home ∧
      (amendPermitBody op s).2.2.port.resetHigh = s.port.resetHigh ∧
      (amendPermitBody op s).2.2.port.buffer = s.port.buffer := by
  unfold amendPermitBody; split <;> simp

@[simp] theorem closeSectionBody_keeps (i : Nat) (s : State) :
    (closeSectionBody i s).2.2.clock = s.clock ∧ (closeSectionBody i s).2.2.pending = s.pending ∧
      (closeSectionBody i s).2.2.sales = s.sales ∧ (closeSectionBody i s).2.2.tariff = s.tariff ∧
      (closeSectionBody i s).2.2.port.setup = s.port.setup ∧ (closeSectionBody i s).2.2.port.home = s.port.home ∧
      (closeSectionBody i s).2.2.port.resetHigh = s.port.resetHigh ∧
      (closeSectionBody i s).2.2.port.buffer = s.port.buffer := by
  unfold closeSectionBody; split <;> simp

@[simp] theorem loadBeginBody_keeps (i : Nat) (s : State) :
    (loadBeginBody i s).2.2.clock = s.clock ∧ (loadBeginBody i s).2.2.pending = s.pending ∧
      (loadBeginBody i s).2.2.sales = s.sales ∧ (loadBeginBody i s).2.2.tariff = s.tariff ∧
      (loadBeginBody i s).2.2.port.setup = s.port.setup ∧ (loadBeginBody i s).2.2.port.home = s.port.home ∧
      (loadBeginBody i s).2.2.port.resetHigh = s.port.resetHigh ∧
      (loadBeginBody i s).2.2.port.buffer = s.port.buffer := by
  unfold loadBeginBody; split <;> simp

@[simp] theorem loadRecordBody_keeps (bs : List Byte) (s : State) :
    (loadRecordBody bs s).2.2.clock = s.clock ∧ (loadRecordBody bs s).2.2.pending = s.pending ∧
      (loadRecordBody bs s).2.2.sales = s.sales ∧ (loadRecordBody bs s).2.2.tariff = s.tariff ∧
      (loadRecordBody bs s).2.2.port.setup = s.port.setup ∧ (loadRecordBody bs s).2.2.port.home = s.port.home ∧
      (loadRecordBody bs s).2.2.port.resetHigh = s.port.resetHigh ∧
      (loadRecordBody bs s).2.2.port.buffer = s.port.buffer := by
  unfold loadRecordBody; (repeat' split) <;> simp

@[simp] theorem loadEndBody_keeps (closed : Bool) (s : State) :
    (loadEndBody closed s).2.2.clock = s.clock ∧ (loadEndBody closed s).2.2.pending = s.pending ∧
      (loadEndBody closed s).2.2.sales = s.sales ∧ (loadEndBody closed s).2.2.tariff = s.tariff ∧
      (loadEndBody closed s).2.2.port.setup = s.port.setup ∧ (loadEndBody closed s).2.2.port.home = s.port.home ∧
      (loadEndBody closed s).2.2.port.resetHigh = s.port.resetHigh ∧
      (loadEndBody closed s).2.2.port.buffer = s.port.buffer := by
  unfold loadEndBody; (repeat' split) <;> simp

@[simp] theorem readSectionBody_keeps (i : Nat) (number : Nat) (s : State) :
    (readSectionBody i number s).2.2.clock = s.clock ∧ (readSectionBody i number s).2.2.pending = s.pending ∧
      (readSectionBody i number s).2.2.sales = s.sales ∧
      (readSectionBody i number s).2.2.tariff = s.tariff ∧
      (readSectionBody i number s).2.2.port.setup = s.port.setup ∧
      (readSectionBody i number s).2.2.port.home = s.port.home ∧
      (readSectionBody i number s).2.2.port.resetHigh = s.port.resetHigh ∧
      (readSectionBody i number s).2.2.port.buffer = s.port.buffer := by
  unfold readSectionBody; split <;> simp

@[simp] theorem readUsageBody_keeps (number : Nat) (s : State) :
    (readUsageBody number s).2.2.clock = s.clock ∧ (readUsageBody number s).2.2.pending = s.pending ∧
      (readUsageBody number s).2.2.sales = s.sales ∧ (readUsageBody number s).2.2.tariff = s.tariff ∧
      (readUsageBody number s).2.2.port.setup = s.port.setup ∧
      (readUsageBody number s).2.2.port.home = s.port.home ∧
      (readUsageBody number s).2.2.port.resetHigh = s.port.resetHigh ∧
      (readUsageBody number s).2.2.port.buffer = s.port.buffer := by
  unfold readUsageBody; (repeat' split) <;> simp

@[simp] theorem moveUsagePos_keeps (old new : UsagePos) (s : State) :
    (moveUsagePos old new s).clock = s.clock ∧ (moveUsagePos old new s).pending = s.pending ∧
      (moveUsagePos old new s).sales = s.sales ∧ (moveUsagePos old new s).tariff = s.tariff ∧
      (moveUsagePos old new s).port.setup = s.port.setup ∧ (moveUsagePos old new s).port.home = s.port.home ∧
      (moveUsagePos old new s).port.resetHigh = s.port.resetHigh ∧
      (moveUsagePos old new s).port.buffer = s.port.buffer := by
  unfold moveUsagePos; split <;> simp

@[simp] theorem takeUsage_keeps (sender : Nat) (u : UsageBody) (s : State) :
    (takeUsage sender u s).clock = s.clock ∧ (takeUsage sender u s).pending = s.pending ∧
      (takeUsage sender u s).sales = s.sales ∧ (takeUsage sender u s).tariff = s.tariff ∧
      (takeUsage sender u s).port.setup = s.port.setup ∧ (takeUsage sender u s).port.home = s.port.home ∧
      (takeUsage sender u s).port.resetHigh = s.port.resetHigh ∧
      (takeUsage sender u s).port.buffer = s.port.buffer := by
  unfold takeUsage
  refine ⟨?_, ?_, ?_, ?_, ?_, ?_, ?_, ?_⟩
  · cases u <;> simp [foldl_keeps (fun t => t.clock) (applyContrib sender _) (by intros; simp)]
  · cases u <;> simp [foldl_keeps (fun t => t.pending) (applyContrib sender _) (by intros; simp)]
  · cases u <;> simp [foldl_keeps (fun t => t.sales) (applyContrib sender _) (by intros; simp)]
  · cases u <;> simp [foldl_keeps (fun t => t.tariff) (applyContrib sender _) (by intros; simp)]
  · cases u <;> simp [foldl_keeps (fun t => t.port.setup) (applyContrib sender _) (by intros; simp)]
  · cases u <;> simp [foldl_keeps (fun t => t.port.home) (applyContrib sender _) (by intros; simp)]
  · cases u <;> simp [foldl_keeps (fun t => t.port.resetHigh) (applyContrib sender _) (by intros; simp)]
  · cases u <;> simp [foldl_keeps (fun t => t.port.buffer) (applyContrib sender _) (by intros; simp)]

@[simp] theorem passStale_keeps (i : Nat) (s : State) :
    (passStale i s).clock = s.clock ∧ (passStale i s).pending = s.pending ∧ (passStale i s).sales = s.sales ∧
      (passStale i s).tariff = s.tariff ∧ (passStale i s).port.setup = s.port.setup ∧
      (passStale i s).port.home = s.port.home ∧ (passStale i s).port.resetHigh = s.port.resetHigh ∧
      (passStale i s).port.buffer = s.port.buffer := by
  unfold passStale; split <;> simp

@[simp] theorem closeOwnRound_keeps (s : State) :
    (closeOwnRound s).clock = s.clock ∧ (closeOwnRound s).pending = s.pending ∧ (closeOwnRound s).sales = s.sales ∧
      (closeOwnRound s).tariff = s.tariff ∧ (closeOwnRound s).port.setup = s.port.setup ∧
      (closeOwnRound s).port.home = s.port.home ∧ (closeOwnRound s).port.resetHigh = s.port.resetHigh ∧
      (closeOwnRound s).port.buffer = s.port.buffer := by
  simp [closeOwnRound]

@[simp] theorem newRound_keeps (opened : Option Nat) (s : State) :
    (newRound opened s).clock = s.clock ∧ (newRound opened s).pending = s.pending ∧
      (newRound opened s).sales = s.sales ∧ (newRound opened s).tariff = s.tariff ∧
      (newRound opened s).port.setup = s.port.setup ∧ (newRound opened s).port.home = s.port.home ∧
      (newRound opened s).port.resetHigh = s.port.resetHigh ∧ (newRound opened s).port.buffer = s.port.buffer := by
  simp [newRound]

@[simp] theorem roundOpenBody_keeps (s : State) :
    (roundOpenBody s).2.2.clock = s.clock ∧ (roundOpenBody s).2.2.pending = s.pending ∧
      (roundOpenBody s).2.2.sales = s.sales ∧ (roundOpenBody s).2.2.tariff = s.tariff ∧
      (roundOpenBody s).2.2.port.setup = s.port.setup ∧ (roundOpenBody s).2.2.port.home = s.port.home ∧
      (roundOpenBody s).2.2.port.resetHigh = s.port.resetHigh ∧ (roundOpenBody s).2.2.port.buffer = s.port.buffer := by
  unfold roundOpenBody; (repeat' split) <;> simp

@[simp] theorem roundVisitBody_keeps (station : Nat) (s : State) :
    (roundVisitBody station s).2.2.clock = s.clock ∧ (roundVisitBody station s).2.2.pending = s.pending ∧
      (roundVisitBody station s).2.2.sales = s.sales ∧ (roundVisitBody station s).2.2.tariff = s.tariff ∧
      (roundVisitBody station s).2.2.port.setup = s.port.setup ∧
      (roundVisitBody station s).2.2.port.home = s.port.home ∧
      (roundVisitBody station s).2.2.port.resetHigh = s.port.resetHigh ∧
      (roundVisitBody station s).2.2.port.buffer = s.port.buffer := by
  unfold roundVisitBody; (repeat' split) <;> simp

@[simp] theorem roundCloseBody_keeps (s : State) :
    (roundCloseBody s).2.2.clock = s.clock ∧ (roundCloseBody s).2.2.pending = s.pending ∧
      (roundCloseBody s).2.2.sales = s.sales ∧ (roundCloseBody s).2.2.tariff = s.tariff ∧
      (roundCloseBody s).2.2.port.setup = s.port.setup ∧ (roundCloseBody s).2.2.port.home = s.port.home ∧
      (roundCloseBody s).2.2.port.resetHigh = s.port.resetHigh ∧
      (roundCloseBody s).2.2.port.buffer = s.port.buffer := by
  unfold roundCloseBody; split <;> simp

@[simp] theorem readSheetBody_keeps (index : Nat) (s : State) :
    (readSheetBody index s).2.2.clock = s.clock ∧ (readSheetBody index s).2.2.pending = s.pending ∧
      (readSheetBody index s).2.2.sales = s.sales ∧ (readSheetBody index s).2.2.tariff = s.tariff ∧
      (readSheetBody index s).2.2.port.setup = s.port.setup ∧ (readSheetBody index s).2.2.port.home = s.port.home ∧
      (readSheetBody index s).2.2.port.resetHigh = s.port.resetHigh ∧
      (readSheetBody index s).2.2.port.buffer = s.port.buffer := by
  unfold readSheetBody; split <;> simp

@[simp] theorem readRoundBody_keeps (s : State) :
    (readRoundBody s).2.2.clock = s.clock ∧ (readRoundBody s).2.2.pending = s.pending ∧
      (readRoundBody s).2.2.sales = s.sales ∧ (readRoundBody s).2.2.tariff = s.tariff ∧
      (readRoundBody s).2.2.port.setup = s.port.setup ∧ (readRoundBody s).2.2.port.home = s.port.home ∧
      (readRoundBody s).2.2.port.resetHigh = s.port.resetHigh ∧ (readRoundBody s).2.2.port.buffer = s.port.buffer := by
  simp [readRoundBody]

@[simp] theorem takeClose_keeps (round : Nat) (collector : Nat) (s : State) :
    (takeClose round collector s).clock = s.clock ∧ (takeClose round collector s).pending = s.pending ∧
      (takeClose round collector s).sales = s.sales ∧ (takeClose round collector s).tariff = s.tariff ∧
      (takeClose round collector s).port.setup = s.port.setup ∧
      (takeClose round collector s).port.home = s.port.home ∧
      (takeClose round collector s).port.resetHigh = s.port.resetHigh ∧
      (takeClose round collector s).port.buffer = s.port.buffer := by
  unfold takeClose; split <;> simp

@[simp] theorem faultAnswer_keeps (kind : FaultKind) (subject : Nat) (s : State) :
    (faultAnswer kind subject s).2.2.clock = s.clock ∧ (faultAnswer kind subject s).2.2.pending = s.pending ∧
      (faultAnswer kind subject s).2.2.sales = s.sales ∧
      (faultAnswer kind subject s).2.2.tariff = s.tariff ∧
      (faultAnswer kind subject s).2.2.port.setup = s.port.setup ∧
      (faultAnswer kind subject s).2.2.port.home = s.port.home ∧
      (faultAnswer kind subject s).2.2.port.resetHigh = s.port.resetHigh ∧
      (faultAnswer kind subject s).2.2.port.buffer = s.port.buffer := by
  unfold faultAnswer; split <;> simp

@[simp] theorem raiseFaultBody_keeps (code : Nat) (s : State) :
    (raiseFaultBody code s).2.2.clock = s.clock ∧ (raiseFaultBody code s).2.2.pending = s.pending ∧
      (raiseFaultBody code s).2.2.sales = s.sales ∧ (raiseFaultBody code s).2.2.tariff = s.tariff ∧
      (raiseFaultBody code s).2.2.port.setup = s.port.setup ∧ (raiseFaultBody code s).2.2.port.home = s.port.home ∧
      (raiseFaultBody code s).2.2.port.resetHigh = s.port.resetHigh ∧
      (raiseFaultBody code s).2.2.port.buffer = s.port.buffer := by
  unfold raiseFaultBody
  split
  · simp
  · rename_i k _
    cases h : tryRaise k 0 s with
    | none => simp
    | some t => simp [tryRaise_keeps h]

@[simp] theorem ackFaultBody_keeps (owner : Nat) (code : Nat) (subject : Nat) (s : State) :
    (ackFaultBody owner code subject s).2.2.clock = s.clock ∧
      (ackFaultBody owner code subject s).2.2.pending = s.pending ∧
      (ackFaultBody owner code subject s).2.2.sales = s.sales ∧
      (ackFaultBody owner code subject s).2.2.tariff = s.tariff ∧
      (ackFaultBody owner code subject s).2.2.port.setup = s.port.setup ∧
      (ackFaultBody owner code subject s).2.2.port.home = s.port.home ∧
      (ackFaultBody owner code subject s).2.2.port.resetHigh = s.port.resetHigh ∧
      (ackFaultBody owner code subject s).2.2.port.buffer = s.port.buffer := by
  unfold ackFaultBody; (repeat' split) <;> simp

@[simp] theorem clearFaultBody_keeps (owner : Nat) (code : Nat) (subject : Nat) (s : State) :
    (clearFaultBody owner code subject s).2.2.clock = s.clock ∧
      (clearFaultBody owner code subject s).2.2.pending = s.pending ∧
      (clearFaultBody owner code subject s).2.2.sales = s.sales ∧
      (clearFaultBody owner code subject s).2.2.tariff = s.tariff ∧
      (clearFaultBody owner code subject s).2.2.port.setup = s.port.setup ∧
      (clearFaultBody owner code subject s).2.2.port.home = s.port.home ∧
      (clearFaultBody owner code subject s).2.2.port.resetHigh = s.port.resetHigh ∧
      (clearFaultBody owner code subject s).2.2.port.buffer = s.port.buffer := by
  unfold clearFaultBody; (repeat' split) <;> simp

@[simp] theorem readFaultsBody_keeps (owner : Nat) (code : Nat) (subject : Nat) (s : State) :
    (readFaultsBody owner code subject s).2.2.clock = s.clock ∧
      (readFaultsBody owner code subject s).2.2.pending = s.pending ∧
      (readFaultsBody owner code subject s).2.2.sales = s.sales ∧
      (readFaultsBody owner code subject s).2.2.tariff = s.tariff ∧
      (readFaultsBody owner code subject s).2.2.port.setup = s.port.setup ∧
      (readFaultsBody owner code subject s).2.2.port.home = s.port.home ∧
      (readFaultsBody owner code subject s).2.2.port.resetHigh = s.port.resetHigh ∧
      (readFaultsBody owner code subject s).2.2.port.buffer = s.port.buffer := by
  unfold readFaultsBody; split <;> simp

@[simp] theorem restartStationBody_keeps (target : Nat) (number : Nat) (s : State) :
    (restartStationBody target number s).2.2.clock = s.clock ∧
      (restartStationBody target number s).2.2.pending = s.pending ∧
      (restartStationBody target number s).2.2.sales = s.sales ∧
      (restartStationBody target number s).2.2.tariff = s.tariff ∧
      (restartStationBody target number s).2.2.port.setup = s.port.setup ∧
      (restartStationBody target number s).2.2.port.home = s.port.home ∧
      (restartStationBody target number s).2.2.port.resetHigh = s.port.resetHigh ∧
      (restartStationBody target number s).2.2.port.buffer = s.port.buffer := by
  unfold restartStationBody; split <;> simp

@[simp] theorem pageStationBody_keeps (target : Nat) (code : Nat) (s : State) :
    (pageStationBody target code s).2.2.clock = s.clock ∧ (pageStationBody target code s).2.2.pending = s.pending ∧
      (pageStationBody target code s).2.2.sales = s.sales ∧
      (pageStationBody target code s).2.2.tariff = s.tariff ∧
      (pageStationBody target code s).2.2.port.setup = s.port.setup ∧
      (pageStationBody target code s).2.2.port.home = s.port.home ∧
      (pageStationBody target code s).2.2.port.resetHigh = s.port.resetHigh ∧
      (pageStationBody target code s).2.2.port.buffer = s.port.buffer := by
  unfold pageStationBody; split <;> simp

@[simp] theorem takeFaultReport_keeps (sender : Nat) (r : ReportBody) (s : State) :
    (takeFaultReport sender r s).clock = s.clock ∧ (takeFaultReport sender r s).pending = s.pending ∧
      (takeFaultReport sender r s).sales = s.sales ∧ (takeFaultReport sender r s).tariff = s.tariff ∧
      (takeFaultReport sender r s).port.setup = s.port.setup ∧
      (takeFaultReport sender r s).port.home = s.port.home ∧
      (takeFaultReport sender r s).port.resetHigh = s.port.resetHigh ∧
      (takeFaultReport sender r s).port.buffer = s.port.buffer := by
  unfold takeFaultReport
  refine ⟨?_, ?_, ?_, ?_, ?_, ?_, ?_, ?_⟩
  · cases r <;> simp [foldl_keeps (fun t => t.clock) (fun t e => applyCopy sender e t) (by intros; simp)]
  · cases r <;> simp [foldl_keeps (fun t => t.pending) (fun t e => applyCopy sender e t) (by intros; simp)]
  · cases r <;> simp [foldl_keeps (fun t => t.sales) (fun t e => applyCopy sender e t) (by intros; simp)]
  · cases r <;> simp [foldl_keeps (fun t => t.tariff) (fun t e => applyCopy sender e t) (by intros; simp)]
  · cases r <;> simp [foldl_keeps (fun t => t.port.setup) (fun t e => applyCopy sender e t) (by intros; simp)]
  · cases r <;> simp [foldl_keeps (fun t => t.port.home) (fun t e => applyCopy sender e t) (by intros; simp)]
  · cases r <;> simp [foldl_keeps (fun t => t.port.resetHigh) (fun t e => applyCopy sender e t) (by intros; simp)]
  · cases r <;> simp [foldl_keeps (fun t => t.port.buffer) (fun t e => applyCopy sender e t) (by intros; simp)]

@[simp] theorem takeRestart_keeps (sender : Nat) (number : Nat) (s : State) :
    (takeRestart sender number s).clock = s.clock ∧ (takeRestart sender number s).pending = s.pending ∧
      (takeRestart sender number s).sales = s.sales ∧ (takeRestart sender number s).tariff = s.tariff ∧
      (takeRestart sender number s).port.setup = s.port.setup ∧
      (takeRestart sender number s).port.home = s.port.home ∧
      (takeRestart sender number s).port.resetHigh = s.port.resetHigh ∧
      (takeRestart sender number s).port.buffer = s.port.buffer := by
  unfold takeRestart; split <;> simp

@[simp] theorem takeSample_keeps (g : Nat) (level : Bool) (s : State) :
    (takeSample g level s).clock = s.clock ∧ (takeSample g level s).pending = s.pending ∧
      (takeSample g level s).sales = s.sales ∧ (takeSample g level s).tariff = s.tariff ∧
      (takeSample g level s).port.setup = s.port.setup ∧ (takeSample g level s).port.home = s.port.home ∧
      (takeSample g level s).port.resetHigh = s.port.resetHigh ∧
      (takeSample g level s).port.buffer = s.port.buffer := by
  simp [takeSample]

@[simp] theorem roundFirstSettled_keeps (group : Nat) (s : State) :
    (roundFirstSettled group s).clock = s.clock ∧ (roundFirstSettled group s).pending = s.pending ∧
      (roundFirstSettled group s).sales = s.sales ∧ (roundFirstSettled group s).tariff = s.tariff ∧
      (roundFirstSettled group s).port.setup = s.port.setup ∧ (roundFirstSettled group s).port.home = s.port.home ∧
      (roundFirstSettled group s).port.resetHigh = s.port.resetHigh ∧
      (roundFirstSettled group s).port.buffer = s.port.buffer := by
  unfold roundFirstSettled; split <;> simp

@[simp] theorem firstSettle_keeps (group : Nat) (c : Settled) (s : State) :
    (firstSettle group c s).clock = s.clock ∧ (firstSettle group c s).pending = s.pending ∧
      (firstSettle group c s).sales = s.sales ∧ (firstSettle group c s).tariff = s.tariff ∧
      (firstSettle group c s).port.setup = s.port.setup ∧ (firstSettle group c s).port.home = s.port.home ∧
      (firstSettle group c s).port.resetHigh = s.port.resetHigh ∧
      (firstSettle group c s).port.buffer = s.port.buffer := by
  unfold firstSettle; split <;> simp

@[simp] theorem handChange_keeps (group : Nat) (c : Settled) (s : State) :
    (handChange group c s).clock = s.clock ∧ (handChange group c s).pending = s.pending ∧
      (handChange group c s).sales = s.sales ∧ (handChange group c s).tariff = s.tariff ∧
      (handChange group c s).port.setup = s.port.setup ∧ (handChange group c s).port.home = s.port.home ∧
      (handChange group c s).port.resetHigh = s.port.resetHigh ∧
      (handChange group c s).port.buffer = s.port.buffer := by
  unfold handChange; (repeat' split) <;> simp

@[simp] theorem changeGroup_keeps (group : Nat) (c : Settled) (s : State) :
    (changeGroup group c s).clock = s.clock ∧ (changeGroup group c s).pending = s.pending ∧
      (changeGroup group c s).sales = s.sales ∧ (changeGroup group c s).tariff = s.tariff ∧
      (changeGroup group c s).port.setup = s.port.setup ∧ (changeGroup group c s).port.home = s.port.home ∧
      (changeGroup group c s).port.resetHigh = s.port.resetHigh ∧
      (changeGroup group c s).port.buffer = s.port.buffer := by
  simp [changeGroup]

@[simp] theorem restBody_keeps (s : State) :
    (restBody s).2.2.clock = s.clock ∧ (restBody s).2.2.pending = s.pending ∧ (restBody s).2.2.sales = s.sales ∧
      (restBody s).2.2.tariff = s.tariff ∧ (restBody s).2.2.port.setup = s.port.setup ∧
      (restBody s).2.2.port.home = s.port.home ∧ (restBody s).2.2.port.resetHigh = s.port.resetHigh ∧
      (restBody s).2.2.port.buffer = s.port.buffer := by
  unfold restBody; (repeat' split) <;> simp

@[simp] theorem readPowerBody_keeps (s : State) :
    (readPowerBody s).2.2.clock = s.clock ∧ (readPowerBody s).2.2.pending = s.pending ∧
      (readPowerBody s).2.2.sales = s.sales ∧ (readPowerBody s).2.2.tariff = s.tariff ∧
      (readPowerBody s).2.2.port.setup = s.port.setup ∧ (readPowerBody s).2.2.port.home = s.port.home ∧
      (readPowerBody s).2.2.port.resetHigh = s.port.resetHigh ∧ (readPowerBody s).2.2.port.buffer = s.port.buffer := by
  simp [readPowerBody]

@[simp] theorem supplyAsserted_keeps (s : State) :
    (supplyAsserted s).clock = s.clock ∧ (supplyAsserted s).pending = s.pending ∧
      (supplyAsserted s).port.setup = s.port.setup ∧ (supplyAsserted s).port.home = s.port.home ∧
      (supplyAsserted s).port.resetHigh = s.port.resetHigh ∧ (supplyAsserted s).port.buffer = s.port.buffer := by
  unfold supplyAsserted; split <;> simp

@[simp] theorem withdrawSupply_keeps (s : State) :
    (withdrawSupply s).clock = s.clock ∧ (withdrawSupply s).pending = s.pending ∧
      (withdrawSupply s).sales = s.sales ∧ (withdrawSupply s).tariff = s.tariff ∧
      (withdrawSupply s).port.setup = s.port.setup ∧ (withdrawSupply s).port.home = s.port.home ∧
      (withdrawSupply s).port.resetHigh = s.port.resetHigh ∧ (withdrawSupply s).port.buffer = s.port.buffer := by
  unfold withdrawSupply; split <;> simp

@[simp] theorem supplyDeasserted_keeps (s : State) :
    (supplyDeasserted s).clock = s.clock ∧ (supplyDeasserted s).pending = s.pending ∧
      (supplyDeasserted s).sales = s.sales ∧ (supplyDeasserted s).tariff = s.tariff ∧
      (supplyDeasserted s).port.setup = s.port.setup ∧ (supplyDeasserted s).port.home = s.port.home ∧
      (supplyDeasserted s).port.resetHigh = s.port.resetHigh ∧ (supplyDeasserted s).port.buffer = s.port.buffer := by
  unfold supplyDeasserted; (repeat' split) <;> simp

@[simp] theorem exchangeEnd_keeps (s : State) :
    (exchangeEnd s).sales = s.sales ∧ (exchangeEnd s).tariff = s.tariff ∧ (exchangeEnd s).port.setup = s.port.setup := by
  simp [exchangeEnd]

@[simp] theorem byteIn_keeps (b : Byte) (stopOk : Bool) (s : State) :
    (byteIn b stopOk s).sales = s.sales ∧ (byteIn b stopOk s).tariff = s.tariff ∧ (byteIn b stopOk s).port.setup = s.port.setup := by
  unfold byteIn; (repeat' split) <;> simp

@[simp] theorem takePress_keeps (s : State) :
    (takePress s).sales = s.sales ∧ (takePress s).tariff = s.tariff ∧ (takePress s).port.setup = s.port.setup := by
  simp [takePress]

@[simp] theorem deassertSupply_keeps (s : State) :
    (deassertSupply s).sales = s.sales ∧ (deassertSupply s).tariff = s.tariff ∧ (deassertSupply s).port.setup = s.port.setup := by
  unfold deassertSupply; (repeat' split) <;> simp

end Sys2Proof.Machine
end

