-- ==== Sys2Proof/Laws/Port.lean ====
section
/-! SUPPORT. What taking a command comes to: when the part acts at all, when a request is answered, when a frame is honoured. -/

namespace Sys2Proof.Machine

/-! ### The part acts -/

theorem act_high (f : State → State) {s : State} (h : s.port.resetHigh = true) : act f s = .next (settle (f s)) := by
  simp [act, h]

theorem act_low (f : State → State) {s : State} (h : s.port.resetHigh = false) : act f s = .next s := by
  simp [act, h]

/-! ### Requests -/

theorem takesRequest_high {s : State} (h : s.takesRequest = true) : s.port.resetHigh = true := by
  simp only [State.takesRequest, Bool.and_eq_true] at h
  exact h.1

theorem takesRequest_free {s : State} (h : s.takesRequest = true) : s.portBusy = false := by
  simp only [State.takesRequest, Bool.and_eq_true, Bool.not_eq_true'] at h
  exact h.2

theorem openTo_takesRequest {roles : State → Bool} {s : State} (h : s.openTo roles = true) : s.takesRequest = true := by
  simp only [State.openTo, Bool.and_eq_true] at h
  exact h.1.1

/-- A request that is taken is answered by its judgement. -/
theorem hostAny_taken (code : Nat) (body : State → Answer) {s : State} (h : s.takesRequest = true) :
    hostAny code body s = .next (settle (respond code (body s))) := by
  simp [hostAny, act, takesRequest_high h, onWrite, takesRequest_free h]

/-- A request open to the station is judged by its own rules alone. -/
theorem host_open (code : Nat) {roles : State → Bool} (body : State → Answer) {s : State} (h : s.openTo roles = true) :
    host code roles body s = .next (settle (respond code (body s))) := by
  rw [host, hostAny_taken code _ (openTo_takesRequest h)]
  simp only [State.openTo, Bool.and_eq_true] at h
  simp [guarded, h.1.2, h.2]

/-- A request before Setup is refused. -/
theorem host_notSetUp (code : Nat) (roles : State → Bool) (body : State → Answer) {s : State}
    (h : s.takesRequest = true) (hs : s.setupDone = false) :
    host code roles body s = .next (settle (respond code (.notSetUp, .nothing, s))) := by
  rw [host, hostAny_taken code _ h]
  simp [guarded, hs, refuse]

/-- A request at a station of another role is refused. -/
theorem host_roleRefused (code : Nat) {roles : State → Bool} (body : State → Answer) {s : State}
    (h : s.takesRequest = true) (hs : s.setupDone = true) (hr : roles s = false) :
    host code roles body s = .next (settle (respond code (.roleRefused, .nothing, s))) := by
  rw [host, hostAny_taken code _ h]
  simp [guarded, hs, hr, refuse]

/-- A request that finds the port busy is an overrun. -/
theorem hostAny_busy (code : Nat) (body : State → Answer) {s : State} (h : s.port.resetHigh = true)
    (hb : s.portBusy = true) : hostAny code body s = .next (settle (overrun s)) := by
  simp [hostAny, act, h, onWrite, hb]

/-! ### Frames -/

/-- An honoured frame is handed to the owning unit. -/
theorem onFrame_honoured {h : FrameHeader} {body : FrameBody} {s : State} (f : State → State)
    (hh : s.honours h body = true) : onFrame h body f s = f (heard h s) := by
  simp only [State.honours, State.accepts, State.passes, Bool.and_eq_true, beq_iff_eq] at hh
  obtain ⟨⟨⟨⟨_, hr⟩, hf⟩, hpl⟩, hp⟩ := hh
  have hf' : filterStep s.zoneNo s.own h body = none := by simpa using hf
  have hpeer : (noteAddressed h s).peer h.sender = s.peer h.sender := by
    simp [State.peer, noteAddressed]; split <;> rfl
  cases hq : s.peer h.sender with
  | none => simp [hq] at hp
  | some p =>
    simp [hq] at hp
    simp [onFrame, filterFrame, hr, hf', hpl, trustFrame, hpeer, hq, hp, heard]

/-- An honoured frame finds the part out of reset. -/
theorem honours_high {h : FrameHeader} {body : FrameBody} {s : State} (hh : s.honours h body = true) :
    s.port.resetHigh = true := by
  simp only [State.honours, State.accepts, State.passes, Bool.and_eq_true] at hh
  exact hh.1.1.1.1

/-- The meaning of an honoured frame. -/
theorem act_honoured {h : FrameHeader} {body : FrameBody} {s : State} (f : State → State)
    (hh : s.honours h body = true) : act (onFrame h body f) s = .next (settle (f (heard h s))) := by
  rw [act_high _ (honours_high hh), onFrame_honoured f hh]

end Sys2Proof.Machine
end

