-- ==== Sys2Proof/Laws/Codec.lean ====
section
/-! SUPPORT. Fields in bytes: what `be` lays down, what `fieldAt` and `keyAt` read, codes read back, and, the other
way round, that what was read is laid down as it stood. A layout is read by turning it into a list of bytes with the `be`
lemmas and walking to an offset with the `_skip` lemmas; bytes are put together from their fields with `be_fieldAt` and
`bytesAt_append`. -/

namespace Sys2Proof.Machine

/-! ### Bytes laid down -/

theorem be_one (n : Nat) : be 1 n = [BitVec.ofNat 8 n] := rfl

theorem be_two (n : Nat) : be 2 n = [BitVec.ofNat 8 (n / 256), BitVec.ofNat 8 n] := rfl

theorem be_three (n : Nat) :
    be 3 n = [BitVec.ofNat 8 (n / 256 / 256), BitVec.ofNat 8 (n / 256), BitVec.ofNat 8 n] := rfl

theorem be_four (n : Nat) :
    be 4 n =
      [BitVec.ofNat 8 (n / 256 / 256 / 256), BitVec.ofNat 8 (n / 256 / 256), BitVec.ofNat 8 (n / 256),
        BitVec.ofNat 8 n] := rfl

theorem be_six (n : Nat) :
    be 6 n =
      [BitVec.ofNat 8 (n / 256 / 256 / 256 / 256 / 256), BitVec.ofNat 8 (n / 256 / 256 / 256 / 256),
        BitVec.ofNat 8 (n / 256 / 256 / 256), BitVec.ofNat 8 (n / 256 / 256), BitVec.ofNat 8 (n / 256),
        BitVec.ofNat 8 n] := rfl

@[simp] theorem be_length (k n : Nat) : (be k n).length = k := by
  induction k generalizing n with
  | zero => rfl
  | succ k ih => simp [be, ih]

@[simp] theorem keyBytes_length (k : Option Key) : (keyBytes k).length = 3 := by cases k <;> rfl

/-! ### Fields read -/

theorem fieldAt_one (a : Byte) (l : List Byte) : fieldAt (a :: l) 0 1 = a.toNat := by
  simp [fieldAt, bytesAt, beNat]

theorem fieldAt_two (a b : Byte) (l : List Byte) : fieldAt (a :: b :: l) 0 2 = a.toNat * 256 + b.toNat := by
  simp [fieldAt, bytesAt, beNat]

theorem fieldAt_three (a b c : Byte) (l : List Byte) :
    fieldAt (a :: b :: c :: l) 0 3 = (a.toNat * 256 + b.toNat) * 256 + c.toNat := by
  simp [fieldAt, bytesAt, beNat]

theorem fieldAt_four (a b c d : Byte) (l : List Byte) :
    fieldAt (a :: b :: c :: d :: l) 0 4 = ((a.toNat * 256 + b.toNat) * 256 + c.toNat) * 256 + d.toNat := by
  simp [fieldAt, bytesAt, beNat]

theorem fieldAt_six (a b c d e f : Byte) (l : List Byte) :
    fieldAt (a :: b :: c :: d :: e :: f :: l) 0 6 =
      ((((a.toNat * 256 + b.toNat) * 256 + c.toNat) * 256 + d.toNat) * 256 + e.toNat) * 256 + f.toNat := by
  simp [fieldAt, bytesAt, beNat]

/-- One byte less to walk. -/
theorem fieldAt_skip (a : Byte) (l : List Byte) (off len : Nat) : fieldAt (a :: l) (off + 1) len = fieldAt l off len := by
  simp [fieldAt, bytesAt]

theorem keyAt_skip (a : Byte) (l : List Byte) (off : Nat) : keyAt (a :: l) (off + 1) = keyAt l off := by
  simp only [keyAt, fieldAt_skip, show off + 1 + 2 = (off + 2) + 1 from by omega]

/-! ### Keys and codes read back -/

theorem key_fits {k : Key} (h : Key.fits k = true) : 1 ≤ k.gen ∧ k.gen < 65536 ∧ k.pub < 256 := by
  simpa [Key.fits, fitsBytes, and_assoc] using h

/-- A present key is read back. -/
theorem keyAt_some {k : Key} (h : Key.fits k = true) (l : List Byte) : keyAt (keyBytes (some k) ++ l) 0 = some k := by
  obtain ⟨a, b, c⟩ := key_fits h
  have e1 : fieldAt (keyBytes (some k) ++ l) 0 2 = k.gen := by
    simp [keyBytes, be_one, be_two, fieldAt_two]
    omega
  have e2 : fieldAt (keyBytes (some k) ++ l) 2 1 = k.pub := by
    simp [keyBytes, be_one, be_two, fieldAt_skip, fieldAt_one]
    omega
  have : k.gen ≠ 0 := by omega
  simp [keyAt, e1, e2, this]

/-- A key, present or absent, is read back. -/
theorem keyAt_option {k : Option Key} (h : Key.fitsOpt k = true) (l : List Byte) : keyAt (keyBytes k ++ l) 0 = k := by
  cases k with
  | some k => exact keyAt_some h l
  | none => simp [keyAt, keyBytes, be_three, fieldAt_two]

theorem objOf_objCode {o : ImageObj} (h : ImageObj.fits o = true) : objOf (objCode o) = some o := by
  cases o with
  | tariff => rfl
  | sect s =>
    simp [ImageObj.fits] at h
    simp [objOf, objCode]
    omega

theorem objCode_le {o : ImageObj} (h : ImageObj.fits o = true) : objCode o ≤ 8 := by
  cases o with
  | tariff => simp [objCode]
  | sect s =>
    simp [ImageObj.fits] at h
    simp [objCode]
    omega

theorem faultKindOf_faultCode (k : FaultKind) : faultKindOf (faultCode k) = some k := by cases k <;> rfl

theorem faultCode_lt (k : FaultKind) : faultCode k < 256 := by cases k <;> decide

theorem faultStateOf_faultStateCode (st : FaultState) : faultStateOf (faultStateCode st) = some st := by
  cases st <;> rfl

theorem roleOf_roleCode (r : Role) : roleOf (roleCode r) = some r := by cases r <;> rfl

theorem roundStateOf_roundStateCode (r : RoundState) : roundStateOf (roundStateCode r) = some r := by cases r <;> rfl

theorem classOf_classCode (c : PermitClass) : classOf (classCode c) = some c := by cases c <;> rfl

theorem permitStatusOf_permitStatusCode (st : PermitStatus) : permitStatusOf (permitStatusCode st) = some st := by
  cases st <;> rfl

theorem classKindOf_classKindCode (c : ClassKind) : classKindOf (classKindCode c) = some c := by cases c <;> rfl

theorem dayKindOf_dayKindCode (k : Option DayKind) : dayKindOf (dayKindCode k) = some k := by
  rcases k with _ | k
  · rfl
  · cases k <;> rfl

/-! ### What was read is laid down as it stood -/

theorem beNat_snoc (bs : List Byte) (b : Byte) : beNat (bs ++ [b]) = beNat bs * 256 + b.toNat := by simp [beNat]

/-- Bytes are what their number spells. -/
theorem be_beNat (bs : List Byte) : be bs.length (beNat bs) = bs := by
  induction bs using List.reverseRecOn with
  | nil => rfl
  | append_singleton bs b ih =>
    have hb := b.isLt
    rw [List.length_append, List.length_singleton, be, beNat_snoc]
    rw [show (beNat bs * 256 + b.toNat) / 256 = beNat bs by omega, ih]
    congr 2
    apply BitVec.eq_of_toNat_eq
    rw [BitVec.toNat_ofNat]
    omega

theorem beNat_lt (bs : List Byte) : beNat bs < 256 ^ bs.length := by
  induction bs using List.reverseRecOn with
  | nil => simp [beNat]
  | append_singleton bs b ih =>
    have hb := b.isLt
    rw [beNat_snoc, List.length_append, List.length_singleton, pow_succ]
    omega

theorem bytesAt_length {b : List Byte} {o k : Nat} (h : o + k ≤ b.length) : (bytesAt b o k).length = k := by
  simp [bytesAt]; omega

/-- A field within the bytes is laid down as it was read. -/
theorem be_fieldAt {b : List Byte} {o k : Nat} (h : o + k ≤ b.length) : be k (fieldAt b o k) = bytesAt b o k := by
  have := be_beNat (bytesAt b o k)
  rwa [bytesAt_length h] at this

/-- A field holds a number of its length. -/
theorem fieldAt_lt (b : List Byte) (o k : Nat) : fieldAt b o k < 256 ^ k := by
  refine Nat.lt_of_lt_of_le (beNat_lt _) (Nat.pow_le_pow_right (by omega) ?_)
  simp [bytesAt]

theorem fieldAt_fits (b : List Byte) (o k : Nat) : fitsBytes k (fieldAt b o k) = true := by
  simpa [fitsBytes] using fieldAt_lt b o k

/-- Adjoining fields are one field. -/
theorem bytesAt_append (b : List Byte) (o m k : Nat) : bytesAt b o m ++ bytesAt b (o + m) k = bytesAt b o (m + k) := by
  simp only [bytesAt, List.take_add, List.drop_drop]

theorem bytesAt_whole (b : List Byte) : bytesAt b 0 b.length = b := by simp [bytesAt]

/-- The field that is everything. -/
theorem bytesAt_all {b : List Byte} {n : Nat} (h : b.length = n) : bytesAt b 0 n = b := by subst h; exact bytesAt_whole b

/-- A key that was read is laid down as it stood. -/
theorem keyAt_read {b : List Byte} {o : Nat} {k : Key} (h : keyAt b o = some k) (hl : o + 3 ≤ b.length) :
    keyBytes (some k) = bytesAt b o 3 ∧ Key.fits k = true := by
  unfold keyAt at h
  split at h
  · simp at h
  · rename_i hz
    simp only [Option.some.injEq] at h
    subst h
    have h1 := fieldAt_lt b o 2
    have h2 := fieldAt_lt b (o + 2) 1
    refine ⟨?_, ?_⟩
    · show be 2 (fieldAt b o 2) ++ be 1 (fieldAt b (o + 2) 1) = _
      rw [be_fieldAt (by omega), be_fieldAt (by omega), bytesAt_append]
    · simp [Key.fits, fitsBytes]; omega

/-- An object code that was read is laid down as it stood. -/
theorem objOf_read {b : List Byte} {o : ImageObj} (h : objOf (fieldAt b 0 1) = some o) (hl : 1 ≤ b.length) :
    be 1 (objCode o) = bytesAt b 0 1 ∧ ImageObj.fits o = true := by
  have : objCode o = fieldAt b 0 1 ∧ ImageObj.fits o = true := by
    unfold objOf at h
    split at h
    · simp only [Option.some.injEq] at h; subst h; simp [objCode, ImageObj.fits]; omega
    · split at h
      · simp only [Option.some.injEq] at h; subst h; simp [objCode, ImageObj.fits]; omega
      · simp at h
  rw [this.1, be_fieldAt (by omega)]
  exact ⟨rfl, this.2⟩

/-- A fault kind that was read is laid down as it stood. -/
theorem kind_read {b : List Byte} {k : FaultKind} {o : Nat} (h : faultKindOf (fieldAt b o 1) = some k) (hl : o + 1 ≤ b.length) :
    be 1 (faultCode k) = bytesAt b o 1 := by
  have : faultCode k = fieldAt b o 1 := by
    generalize fieldAt b o 1 = n at h
    unfold faultKindOf at h
    split at h <;> simp_all <;> subst h <;> rfl
  rw [this, be_fieldAt hl]

theorem permitStatus_read {n : Nat} {st : PermitStatus} (h : permitStatusOf n = some st) : permitStatusCode st = n := by
  unfold permitStatusOf at h
  split at h <;> simp_all <;> subst h <;> rfl

theorem class_read {n : Nat} {c : PermitClass} (h : classOf n = some c) : classCode c = n := by
  unfold classOf at h
  split at h <;> simp_all <;> subst h <;> rfl

/-- A list is its trimmed form filled up again, and the trimmed form does not end in the fill. -/
theorem trimEnd_pad {α : Type} [BEq α] [LawfulBEq α] (z : α) (l : List α) :
    trimEnd z l ++ List.replicate (l.length - (trimEnd z l).length) z = l ∧ (trimEnd z l).length ≤ l.length
     ∧ (trimEnd z l).getLast? ≠ some z := by
  induction l with
  | nil => simp [trimEnd]
  | cons x xs ih =>
    obtain ⟨ih, ih2, ih3⟩ := ih
    simp only [trimEnd]
    split
    · rename_i h
      rw [h] at ih ih2
      split
      · rename_i hx
        simp only [beq_iff_eq] at hx; subst hx
        simp at ih ⊢
        rw [List.replicate_succ, ih]
      · rename_i hx
        simp at ih ⊢
        exact ⟨ih, by simpa using hx⟩
    · rename_i y ys h
      rw [h] at ih ih2 ih3
      refine ⟨?_, by simpa using ih2, ?_⟩
      · simp only [List.cons_append, List.length_cons] at ih ⊢
        rw [show xs.length + 1 - (ys.length + 1 + 1) = xs.length - (ys.length + 1) by omega, ih]
      · simpa [List.getLast?_cons_cons] using ih3

theorem trimEnd_mem {α : Type} [BEq α] (z : α) (l : List α) : ∀ x ∈ trimEnd z l, x ∈ l := by
  induction l with
  | nil => simp [trimEnd]
  | cons x xs ih =>
    simp only [trimEnd]
    split
    · split <;> simp
    · rename_i y ys h
      rw [h] at ih
      intro w hw
      rcases List.mem_cons.1 hw with rfl | hw
      · simp
      · exact List.mem_cons_of_mem _ (ih _ hw)

theorem padTo_zones (a b c : Nat) : padTo 6 ((trimEnd 0 [a, b, c]).flatMap (be 2)) = be 2 a ++ be 2 b ++ be 2 c := by
  obtain ⟨h1, h2, _⟩ := trimEnd_pad 0 [a, b, c]
  have : be 2 a ++ be 2 b ++ be 2 c = [a, b, c].flatMap (be 2) := by simp
  rw [this]
  conv_rhs => rw [← h1]
  rw [List.flatMap_append]
  unfold padTo
  congr 1
  have hlen : ∀ l : List Nat, (l.flatMap (be 2)).length = 2 * l.length := by
    intro l; induction l with
    | nil => rfl
    | cons x xs ih => simp [ih]; omega
  rw [hlen]
  generalize (trimEnd 0 [a, b, c]).length = m at h2 ⊢
  simp only [List.length_cons, List.length_nil] at h2 ⊢
  rcases (by omega : m = 0 ∨ m = 1 ∨ m = 2 ∨ m = 3) with rfl | rfl | rfl | rfl <;> rfl

/-- A permit record is read from nothing but its own 24 bytes (Table 12.5). -/
theorem permitOf_read {b : List Byte} {r : PermitRec} (h : permitOf b = some r) :
    b.length = 24 ∧ permitBytes r = b ∧ PermitRec.fits r = true := by
  unfold permitOf at h
  split at h
  · simp at h
  · rename_i hl
    simp only [ne_eq, Decidable.not_not] at hl
    refine ⟨hl, ?_⟩
    split at h
    · rename_i c st hc hst
      simp only [Option.some.injEq] at h
      subst h
      have e1 := class_read hc
      have e2 := permitStatus_read hst
      have hv : padTo 8 ((vehicleOf (bytesAt b 10 8)).getD []) = bytesAt b 10 8 := by
        obtain ⟨h1, h2, _⟩ := trimEnd_pad 0#8 (bytesAt b 10 8)
        rw [bytesAt_length (by omega)] at h1 h2
        conv_rhs => rw [← h1]
        unfold vehicleOf
        split <;> rename_i ht <;> simp [padTo, ht]
      refine ⟨?_, ?_⟩
      · unfold permitBytes
        simp only [zonesOf, padTo_zones]
        rw [hv, e1, e2]
        rw [show fieldAt b 3 1 / 16 * 16 + fieldAt b 3 1 % 16 = fieldAt b 3 1 by omega]
        have ha : (if fieldAt b 22 2 = 0xFFFF then none else some (fieldAt b 22 2)).getD 0xFFFF = fieldAt b 22 2 := by
          split <;> simp_all
        rw [ha]
        simp only [be_fieldAt (show 0 + 3 ≤ b.length by omega), be_fieldAt (show 3 + 1 ≤ b.length by omega),
          be_fieldAt (show 4 + 2 ≤ b.length by omega), be_fieldAt (show 6 + 2 ≤ b.length by omega),
          be_fieldAt (show 8 + 2 ≤ b.length by omega), be_fieldAt (show 18 + 2 ≤ b.length by omega),
          be_fieldAt (show 20 + 2 ≤ b.length by omega), be_fieldAt (show 22 + 2 ≤ b.length by omega)]
        rw [bytesAt_append b 4 2 2, bytesAt_append b 4 4 2, bytesAt_append b 0 3 1, bytesAt_append b 0 4 6,
          bytesAt_append b 0 10 8, bytesAt_append b 0 18 2, bytesAt_append b 0 20 2, bytesAt_append b 0 22 2]
        exact bytesAt_all hl
      · have hz := trimEnd_pad 0 [fieldAt b 4 2, fieldAt b 6 2, fieldAt b 8 2]
        have hm := trimEnd_mem 0 [fieldAt b 4 2, fieldAt b 6 2, fieldAt b 8 2]
        have hw := trimEnd_pad 0#8 (bytesAt b 10 8)
        rw [bytesAt_length (by omega)] at hw
        have hzf : ∀ x ∈ zonesOf [fieldAt b 4 2, fieldAt b 6 2, fieldAt b 8 2], fitsBytes 2 x = true := by
          intro x hx
          have := hm x hx
          simp at this
          rcases this with rfl | rfl | rfl <;> exact fieldAt_fits _ _ _
        have hzl : (zonesOf [fieldAt b 4 2, fieldAt b 6 2, fieldAt b 8 2]).length ≤ 3 := hz.2.1
        have hzn : (zonesOf [fieldAt b 4 2, fieldAt b 6 2, fieldAt b 8 2]).getLast? ≠ some 0 := hz.2.2
        have hvf : ∀ v, vehicleOf (bytesAt b 10 8) = some v → vehicleFits v = true := by
          intro v hv
          unfold vehicleOf at hv
          split at hv
          · simp at hv
          · rename_i x xs ht
            simp only [Option.some.injEq] at hv
            subst hv
            rw [ht] at hw
            simp only [List.length_cons] at hw
            simp only [vehicleFits, List.length_cons, Bool.and_eq_true, decide_eq_true_eq, bne_iff_ne]
            exact ⟨⟨by omega, by omega⟩, hw.2.2⟩
        have hal := fieldAt_lt b 22 2
        simp only [PermitRec.fits, fieldAt_fits, Bool.true_and, Bool.and_true, Bool.and_eq_true, List.all_eq_true,
          decide_eq_true_eq, bne_iff_ne]
        refine ⟨⟨⟨⟨hzl, hzf⟩, hzn⟩, ?_⟩, ?_⟩
        · cases hq : vehicleOf (bytesAt b 10 8) with
          | none => rfl
          | some v => exact hvf v hq
        · split
          · rfl
          · rename_i a ha
            split at ha <;> simp at ha
            subst ha
            simp; omega
    · simp at h

/-- The values of all the options, which are then all present. -/
theorem allSome_read {α : Type} : ∀ (l : List (Option α)) (r : List α), allSome l = some r ↔ l = r.map some := by
  intro l
  induction l with
  | nil => intro r; cases r <;> simp [allSome]
  | cons x xs ih =>
    intro r
    cases x with
    | none => cases r <;> simp [allSome]
    | some x => cases r <;> simp [allSome, ih, and_comm]

theorem pieces_length (n k : Nat) (b : List Byte) : (pieces n k b).length = k := by simp [pieces]

/-- The pieces put together are the whole. -/
theorem pieces_flatten (n k : Nat) (b : List Byte) (h : b.length = k * n) : (pieces n k b).flatten = b := by
  induction k generalizing b with
  | zero => simp at h; subst h; simp [pieces]
  | succ k ih =>
    have : pieces n (k + 1) b = b.take n :: pieces n k (b.drop n) := by
      simp only [pieces, List.range_succ_eq_map, List.map_cons, List.map_map]
      congr 1
      · simp [bytesAt]
      · apply List.map_congr_left
        intro i _
        simp only [Function.comp, bytesAt, List.drop_drop]
        congr 2
        rw [Nat.succ_mul, Nat.add_comm]
    rw [this, List.flatten_cons, ih (b.drop n) (by simp [h, Nat.succ_mul]), List.take_append_drop]

/-- What stands from an offset on is one field. -/
theorem bytesAt_tail {b : List Byte} {o n : Nat} (h : b.length = o + n) : b.drop o = bytesAt b o n := by
  rw [bytesAt, List.take_of_length_le (by simp; omega)]

end Sys2Proof.Machine
end

