-- ==== Sys2Proof/Laws/Stores.lean ====
section
/-! SUPPORT. What keeps the fault table, the peer table, the usage table, the permit sections and the protected spans within
their places and in their order: one lemma for each operation on the lists themselves. -/

namespace Sys2Proof.Machine

/-! ### The fault table -/

theorem faultCode_inj {a b : FaultKind} (h : faultCode a = faultCode b) : a = b := by
  have := congrArg faultKindOf h
  simpa [faultKindOf_faultCode] using this

theorem faultBefore_iff (a b : FaultEntry) :
    faultBefore a b = true ↔
      a.owner < b.owner
        ∨ (a.owner = b.owner
          ∧ (faultCode a.kind < faultCode b.kind ∨ (faultCode a.kind = faultCode b.kind ∧ a.subject < b.subject))) := by
  simp [faultBefore, keyBefore]

theorem sameFault_iff (a b : FaultEntry) :
    sameFault a b = true ↔ b.owner = a.owner ∧ b.kind = a.kind ∧ b.subject = a.subject := by
  simp [sameFault, isFaultKey, and_assoc]

theorem faultBefore_trans {a b c : FaultEntry} (h : faultBefore a b = true) (g : faultBefore b c = true) :
    faultBefore a c = true := by
  rw [faultBefore_iff] at *; omega

/-- Of two entries under different keys, one stands before the other. -/
theorem faultBefore_total {a b : FaultEntry} (h : ¬faultBefore a b = true) (g : ¬sameFault a b = true) :
    faultBefore b a = true := by
  rw [faultBefore_iff] at *
  rw [sameFault_iff] at g
  by_cases k : faultCode a.kind = faultCode b.kind
  · have : ¬(b.owner = a.owner ∧ b.subject = a.subject) := fun c => g ⟨c.1, (faultCode_inj k).symm, c.2⟩
    omega
  · omega

theorem mem_insertFault {e x : FaultEntry} {t : List FaultEntry} (h : x ∈ insertFault e t) : x = e ∨ x ∈ t := by
  induction t with
  | nil => simpa [insertFault] using h
  | cons y ys ih =>
    unfold insertFault at h
    split at h
    · simpa using h
    · split at h
      · simp at h; rcases h with h | h <;> simp [h]
      · simp at h
        rcases h with h | h
        · simp [h]
        · rcases ih h with h | h <;> simp [h]

theorem insertFault_sorted (e : FaultEntry) {t : List FaultEntry} (h : t.Pairwise fun a b => faultBefore a b = true) :
    (insertFault e t).Pairwise fun a b => faultBefore a b = true := by
  induction t with
  | nil => simp [insertFault]
  | cons y ys ih =>
    obtain ⟨hy, hys⟩ := List.pairwise_cons.1 h
    unfold insertFault
    split
    · rename_i g
      refine List.pairwise_cons.2 ⟨fun x hx => ?_, h⟩
      rcases List.mem_cons.1 hx with rfl | hx
      · exact g
      · exact faultBefore_trans g (hy x hx)
    · split
      · rename_i g
        refine List.pairwise_cons.2 ⟨fun x hx => ?_, hys⟩
        have := hy x hx
        rw [sameFault_iff] at g
        rw [faultBefore_iff] at *
        simp only [← g.1, ← g.2.1, ← g.2.2]
        exact this
      · rename_i g1 g2
        refine List.pairwise_cons.2 ⟨fun x hx => ?_, ih hys⟩
        rcases mem_insertFault hx with rfl | hx
        · exact faultBefore_total g1 g2
        · exact hy x hx

theorem insertFault_length (e : FaultEntry) (t : List FaultEntry) : (insertFault e t).length ≤ t.length + 1 := by
  induction t with
  | nil => simp [insertFault]
  | cons y ys ih =>
    unfold insertFault
    (repeat' split) <;> simp
    omega

/-- An entry whose key the table holds replaces one, and the table grows by none. -/
theorem insertFault_replaces {e : FaultEntry} {t : List FaultEntry} (h : t.Pairwise fun a b => faultBefore a b = true)
    (hk : (findFault e.owner e.kind e.subject t).isSome = true) : (insertFault e t).length = t.length := by
  induction t with
  | nil => simp [findFault] at hk
  | cons y ys ih =>
    obtain ⟨hy, hys⟩ := List.pairwise_cons.1 h
    unfold insertFault
    split
    · rename_i g
      obtain ⟨x, hx⟩ := Option.isSome_iff_exists.1 hk
      have hm := List.mem_of_find?_eq_some hx
      have hs : sameFault e x = true := List.find?_some hx
      have : faultBefore e x = true := by
        rcases List.mem_cons.1 hm with rfl | hm
        · exact g
        · exact faultBefore_trans g (hy x hm)
      rw [sameFault_iff] at hs
      rw [faultBefore_iff, hs.1, hs.2.1, hs.2.2] at this
      omega
    · split
      · simp
      · rename_i g
        simp only [List.length_cons, Nat.add_right_cancel_iff]
        apply ih hys
        have g' : isFaultKey e.owner e.kind e.subject y = false := by simpa [sameFault] using g
        simpa [findFault, g'] using hk

/-- A place is free for an entry: the table is not full, or holds its key. -/
def hasFaultPlace (e : FaultEntry) (t : List FaultEntry) : Prop :=
  t.length < 64 ∨ (findFault e.owner e.kind e.subject t).isSome = true

theorem insertFault_inv {e : FaultEntry} {t : List FaultEntry} (h : FaultsInv t) (hk : hasFaultPlace e t) :
    FaultsInv (insertFault e t) := by
  refine ⟨?_, insertFault_sorted e h.2⟩
  rcases hk with hk | hk
  · have := insertFault_length e t
    omega
  · rw [insertFault_replaces h.2 hk]
    exact h.1

@[simp] theorem filter_faults {t : List FaultEntry} (f : FaultEntry → Bool) (h : FaultsInv t) : FaultsInv (t.filter f) :=
  ⟨Nat.le_trans (List.length_filter_le _ _) h.1, h.2.filter _⟩

@[simp] theorem removeFault_inv {e : FaultEntry} {t : List FaultEntry} (h : FaultsInv t) : FaultsInv (removeFault e t) :=
  filter_faults _ h

theorem firstEvicted_mem {l : List FaultEntry} {e : FaultEntry} (h : firstEvicted l = some e) : e ∈ l := by
  induction l generalizing e with
  | nil => simp [firstEvicted] at h
  | cons y ys ih =>
    unfold firstEvicted at h
    split at h
    · simp at h; simp [h]
    · rename_i f hf
      split at h <;> simp at h
      · simp [h]
      · rw [← h]; exact List.mem_cons_of_mem _ (ih hf)

theorem evictee_mem {own : Nat} {b : Bool} {t : List FaultEntry} {e : FaultEntry} (h : evictee own b t = some e) :
    e ∈ t := by
  unfold evictee at h
  have key : ∀ f, firstEvicted (t.filter f) = some e → e ∈ t := fun f hf => List.mem_of_mem_filter (firstEvicted_mem hf)
  rw [Option.or_eq_some_iff, Option.or_eq_some_iff, Option.or_eq_some_iff] at h
  rcases h with h | ⟨_, h | ⟨_, h | ⟨_, h⟩⟩⟩
  · exact key _ h
  · exact key _ h
  · exact key _ h
  · split at h
    · exact key _ h
    · simp at h

/-- An entry of the table taken out leaves one place free. -/
theorem removeFault_length {e : FaultEntry} {t : List FaultEntry} (h : e ∈ t) : (removeFault e t).length < t.length := by
  unfold removeFault
  refine List.length_filter_lt_length_iff_exists.2 ⟨e, h, ?_⟩
  simp [sameFault, isFaultKey]

/-! ### The peer table -/

theorem peersInv_length {own : Nat} {l : List PeerEntry} (ho : 1 ≤ own ∧ own ≤ 32)
    (h : l.Pairwise fun a b => a.station < b.station) (g : ∀ p ∈ l, 1 ≤ p.station ∧ p.station ≤ 32 ∧ p.station ≠ own) :
    l.length ≤ 31 := by
  have hn : (l.map (·.station)).Nodup := by
    refine List.pairwise_map.2 (h.imp fun hab => ?_)
    omega
  have hs : (l.map (·.station)).toFinset ⊆ (Finset.Icc 1 32).erase own := by
    intro n hn
    simp only [List.mem_toFinset, List.mem_map] at hn
    obtain ⟨p, hp, rfl⟩ := hn
    obtain ⟨a, b, c⟩ := g p hp
    simp [a, b, c]
  have hc := Finset.card_le_card hs
  rw [List.toFinset_card_of_nodup hn, Finset.card_erase_of_mem (by simp [ho])] at hc
  simpa using hc

theorem mem_insertPeer {e x : PeerEntry} {l : List PeerEntry} (h : x ∈ insertPeer e l) : x = e ∨ x ∈ l := by
  induction l with
  | nil => simpa [insertPeer] using h
  | cons y ys ih =>
    unfold insertPeer at h
    split at h
    · simpa using h
    · split at h
      · simp at h; rcases h with h | h <;> simp [h]
      · simp at h
        rcases h with h | h
        · simp [h]
        · rcases ih h with h | h <;> simp [h]

theorem insertPeer_sorted (e : PeerEntry) {l : List PeerEntry} (h : l.Pairwise fun a b => a.station < b.station) :
    (insertPeer e l).Pairwise fun a b => a.station < b.station := by
  induction l with
  | nil => simp [insertPeer]
  | cons y ys ih =>
    obtain ⟨hy, hys⟩ := List.pairwise_cons.1 h
    unfold insertPeer
    split
    · rename_i g
      refine List.pairwise_cons.2 ⟨fun x hx => ?_, h⟩
      rcases List.mem_cons.1 hx with rfl | hx
      · exact g
      · exact Nat.lt_trans g (hy x hx)
    · split
      · rename_i g
        exact List.pairwise_cons.2 ⟨fun x hx => g ▸ hy x hx, hys⟩
      · refine List.pairwise_cons.2 ⟨fun x hx => ?_, ih hys⟩
        rcases mem_insertPeer hx with rfl | hx
        · omega
        · exact hy x hx

/-- A station's entry finds its place: Setup is done, and the station is another one of the zone. -/
def peerFits (setup : Option SetupRecord) (n : Nat) : Prop :=
  ∃ r, setup = some r ∧ 1 ≤ n ∧ n ≤ 32 ∧ n ≠ r.station

theorem insertPeer_inv {setup : Option SetupRecord} {e : PeerEntry} {l : List PeerEntry} (h : PeersInv setup l)
    (he : peerFits setup e.station) : PeersInv setup (insertPeer e l) := by
  obtain ⟨r, rfl, he⟩ := he
  obtain ⟨ho, _, hs, hr⟩ := h
  have hm : ∀ p ∈ insertPeer e l, 1 ≤ p.station ∧ p.station ≤ 32 ∧ p.station ≠ r.station := by
    intro p hp
    rcases mem_insertPeer hp with rfl | hp
    · exact he
    · exact hr p hp
  exact ⟨ho, peersInv_length ho (insertPeer_sorted e hs) hm, insertPeer_sorted e hs, hm⟩

theorem map_peers {setup : Option SetupRecord} {f : PeerEntry → PeerEntry} {l : List PeerEntry}
    (hf : ∀ p, (f p).station = p.station) (h : PeersInv setup l) : PeersInv setup (l.map f) := by
  cases setup with
  | none => simp_all [PeersInv]
  | some r =>
    obtain ⟨ho, hl, hs, hr⟩ := h
    refine ⟨ho, by simpa using hl, List.pairwise_map.2 (by simpa [hf] using hs), fun p hp => ?_⟩
    obtain ⟨q, hq, rfl⟩ := List.mem_map.1 hp
    simpa [hf] using hr q hq

@[simp] theorem peersInv_none : PeersInv none [] := rfl

/-! ### The usage table -/

theorem putUsage_length (e : UsageEntry) (t : List UsageEntry) :
    (putUsage e t).length = if t.any (isUsage e.permit e.day) then t.length else t.length + 1 := by
  unfold putUsage
  split <;> simp_all

@[simp] theorem removeContribs_length (n : Nat) (w : Nat → Bool) {t : List UsageEntry} (h : t.length ≤ 96) :
    (removeContribs n w t).length ≤ 96 := by
  unfold removeContribs
  exact Nat.le_trans (List.length_filter_le _ _) (by simpa using h)

@[simp] theorem filter_usage (f : UsageEntry → Bool) {t : List UsageEntry} (h : t.length ≤ 96) :
    (t.filter f).length ≤ 96 := Nat.le_trans (List.length_filter_le _ _) h

/-- Written entries grow the table only where none stood and a place was free. -/
theorem putUsage_bound {e : UsageEntry} {t : List UsageEntry} (h : t.length ≤ 96)
    (hk : t.length < 96 ∨ (t.find? (isUsage e.permit e.day)).isSome = true) : (putUsage e t).length ≤ 96 := by
  rw [putUsage_length]
  split
  · exact h
  · rename_i g
    rcases hk with hk | hk
    · omega
    · exact absurd (by simpa using hk) g

/-! ### The permit sections -/

@[simp] theorem recordsInv_nil : RecordsInv [] := ⟨by simp, by simp⟩

theorem mem_insertPermit {r x : PermitRec} {l : List PermitRec} (h : x ∈ insertPermit r l) : x = r ∨ x ∈ l := by
  induction l with
  | nil => simpa [insertPermit] using h
  | cons y ys ih =>
    unfold insertPermit at h
    split at h
    · simpa using h
    · split at h
      · simp at h; rcases h with h | h <;> simp [h]
      · simp at h
        rcases h with h | h
        · simp [h]
        · rcases ih h with h | h <;> simp [h]

theorem insertPermit_sorted (r : PermitRec) {l : List PermitRec} (h : l.Pairwise fun a b => a.number < b.number) :
    (insertPermit r l).Pairwise fun a b => a.number < b.number := by
  induction l with
  | nil => simp [insertPermit]
  | cons y ys ih =>
    obtain ⟨hy, hys⟩ := List.pairwise_cons.1 h
    unfold insertPermit
    split
    · rename_i g
      refine List.pairwise_cons.2 ⟨fun x hx => ?_, h⟩
      rcases List.mem_cons.1 hx with rfl | hx
      · exact g
      · exact Nat.lt_trans g (hy x hx)
    · split
      · rename_i g
        exact List.pairwise_cons.2 ⟨fun x hx => g ▸ hy x hx, hys⟩
      · refine List.pairwise_cons.2 ⟨fun x hx => ?_, ih hys⟩
        rcases mem_insertPermit hx with rfl | hx
        · omega
        · exact hy x hx

theorem insertPermit_length (r : PermitRec) (l : List PermitRec) : (insertPermit r l).length ≤ l.length + 1 := by
  induction l with
  | nil => simp [insertPermit]
  | cons y ys ih =>
    unfold insertPermit
    (repeat' split) <;> simp
    omega

/-- A record whose number the section holds replaces one, and the section grows by none. -/
theorem insertPermit_replaces {r x : PermitRec} {l : List PermitRec} (h : l.Pairwise fun a b => a.number < b.number)
    (hx : findPermit r.number l = some x) : (insertPermit r l).length = l.length := by
  induction l with
  | nil => simp [findPermit] at hx
  | cons y ys ih =>
    obtain ⟨hy, hys⟩ := List.pairwise_cons.1 h
    unfold insertPermit
    split
    · rename_i g
      have hm := List.mem_of_find?_eq_some hx
      have hn : x.number = r.number := by simpa using List.find?_some hx
      rcases List.mem_cons.1 hm with rfl | hm
      · omega
      · have := hy x hm
        omega
    · split
      · simp
      · rename_i g
        simp only [List.length_cons, Nat.add_right_cancel_iff]
        apply ih hys
        have : y.number ≠ r.number := fun e => g e.symm
        simpa [findPermit, this] using hx

/-- A change of a section keeps its records in order and within their places (R113 to R115). -/
theorem applyChange_records {p p' : PermitSection} {c : AmendChange} (h : applyChange p c = .ok p')
    (hp : RecordsInv p.records) : RecordsInv p'.records := by
  obtain ⟨hl, hs⟩ := hp
  cases c with
  | add r =>
    simp only [applyChange] at h
    (repeat' split at h) <;> simp at h
    rw [← h]
    have := insertPermit_length r p.records
    exact ⟨by simp only; omega, insertPermit_sorted r hs⟩
  | replace r =>
    simp only [applyChange] at h
    split at h
    · simp at h
    · rename_i x hx
      (repeat' split at h) <;> simp at h
      rw [← h]
      exact ⟨by simpa only [insertPermit_replaces hs hx] using hl, insertPermit_sorted r hs⟩
  | status n st =>
    simp only [applyChange] at h
    split at h
    · simp at h
    · rename_i x hx
      split at h <;> simp at h
      rw [← h]
      have hn : x.number = n := by simpa using List.find?_some hx
      refine ⟨?_, insertPermit_sorted _ hs⟩
      rw [insertPermit_replaces (x := x) hs (by simpa only [hn] using hx)]
      exact hl
  | close =>
    simp only [applyChange] at h
    split at h <;> simp at h
    rw [← h]
    exact ⟨hl, hs⟩

/-- Records in ascending number, as an image is judged. -/
theorem pairwise_of_ascending {l : List PermitRec} (h : ascending l = true) :
    l.Pairwise fun a b => a.number < b.number := by
  induction l with
  | nil => simp
  | cons a l ih =>
    cases l with
    | nil => simp
    | cons b rest =>
      simp [ascending] at h
      have hp := ih h.2
      refine List.pairwise_cons.2 ⟨fun x hx => ?_, hp⟩
      rcases List.mem_cons.1 hx with rfl | hx
      · exact h.1
      · exact Nat.lt_trans h.1 ((List.pairwise_cons.1 hp).1 x hx)

/-- A record above the last one joins the draft at its end (R116). -/
theorem append_records {l : List PermitRec} {r : PermitRec} (h : RecordsInv l) (hl : l.length < 160)
    (hn : lastNumber l < r.number) : RecordsInv (l ++ [r]) := by
  refine ⟨by simp; omega, List.pairwise_append.2 ⟨h.2, by simp, fun a ha b hb => ?_⟩⟩
  rw [List.mem_singleton.1 hb]
  refine Nat.lt_of_le_of_lt ?_ hn
  rcases List.eq_nil_or_concat l with rfl | ⟨init, x, rfl⟩
  · simp at ha
  · simp only [lastNumber, List.concat_eq_append, List.getLast?_append, List.getLast?_singleton] at ha ⊢
    have hs := h.2
    rw [List.concat_eq_append, List.pairwise_append] at hs
    rcases List.mem_append.1 ha with ha | ha
    · exact Nat.le_of_lt (hs.2.2 a ha x (by simp))
    · rw [List.mem_singleton.1 ha]
      simp

theorem sectionAt_records {s : State} (h : SectionsInv s.permits.sections) (i : Nat) :
    RecordsInv (s.sectionAt i).records := by
  unfold State.sectionAt
  cases hi : s.permits.sections[i]? with
  | none => simp [PermitSection.never]
  | some p => simpa using h p (List.mem_of_getElem? hi)

@[simp] theorem set_sections {l : List PermitSection} {i : Nat} {p : PermitSection} (h : SectionsInv l)
    (hp : RecordsInv p.records) : SectionsInv (l.set i p) := by
  intro q hq
  rcases List.mem_or_eq_of_mem_set hq with hq | rfl
  · exact h q hq
  · exact hp

theorem map_sections {l : List PermitSection} {f : PermitSection → PermitSection}
    (hf : ∀ p, (f p).records = p.records) (h : SectionsInv l) : SectionsInv (l.map f) := by
  intro q hq
  obtain ⟨p, hp, rfl⟩ := List.mem_map.1 hq
  rw [hf]
  exact h p hp

@[simp] theorem draftInv_none : DraftInv none := by simp [DraftInv]

@[simp] theorem draftInv_some {d : SectionDraft} (h : RecordsInv d.records) : DraftInv (some d) := by
  intro x hx
  cases hx
  exact h

/-! ### The protected spans -/

theorem spansInv_map {spans : List Span} {log : List LogRec} {f : LogRec → LogRec} (hf : ∀ r, (f r).data = r.data)
    (h : SpansInv spans log) : SpansInv spans (log.map f) := by
  simpa [SpansInv, Function.comp_def, hf] using h

theorem spansInv_filter {spans : List Span} {log : List LogRec} (first last : Nat) (h : SpansInv spans log) :
    SpansInv (spans.filter fun sp => !(sp.firstSeg == first && sp.lastSeg == last))
      (log.filter fun r => !(r.data.firstSeg == first && r.data.lastSeg == last)) := by
  induction spans generalizing log with
  | nil =>
    cases log with
    | nil => exact h
    | cons r rs => simp [SpansInv] at h
  | cons sp sps ih =>
    cases log with
    | nil => simp [SpansInv] at h
    | cons r rs =>
      simp only [SpansInv, List.map_cons, List.cons.injEq, Prod.mk.injEq] at h ih ⊢
      obtain ⟨⟨a, b⟩, c⟩ := h
      simp only [List.filter_cons, a, b]
      split
      · simp only [List.map_cons, a, b, ih c]
      · exact ih c

theorem spansInv_length {spans : List Span} {log : List LogRec} (h : SpansInv spans log) : spans.length = log.length := by
  simpa using congrArg List.length h

theorem spansInv_append {spans : List Span} {log : List LogRec} {sp : Span} {r : LogRec} (h : SpansInv spans log)
    (a : sp.firstSeg = r.data.firstSeg) (b : sp.lastSeg = r.data.lastSeg) : SpansInv (spans ++ [sp]) (log ++ [r]) := by
  simp only [SpansInv] at h
  simp [SpansInv, h, a, b]

theorem spansInv_extend {spans : List Span} {log : List LogRec} {f : LogRec → LogRec} {seg last : Nat}
    (hf : ∀ r, (f r).data.firstSeg = r.data.firstSeg ∧ (f r).data.lastSeg = seg) (h : SpansInv spans log) :
    SpansInv (extendLast seg last spans) (mapLast f log) := by
  induction spans generalizing log with
  | nil =>
    cases log with
    | nil => exact h
    | cons r rs => simp [SpansInv] at h
  | cons sp sps ih =>
    cases log with
    | nil => simp [SpansInv] at h
    | cons r rs =>
      simp only [SpansInv, List.map_cons, List.cons.injEq, Prod.mk.injEq] at h ih ⊢
      obtain ⟨⟨a, b⟩, c⟩ := h
      cases sps with
      | nil =>
        cases rs with
        | nil => simp [extendLast, mapLast, hf, a]
        | cons r' rs => simp at c
      | cons sp' sps =>
        cases rs with
        | nil => simp at c
        | cons r' rs =>
          simp only [extendLast, mapLast, List.map_cons, List.cons.injEq, a, b, true_and]
          exact ih c

end Sys2Proof.Machine
end

