-- ==== Sys2Proof/Laws/Bounds.lean ====
section
/-! SUPPORT. Every operation keeps the queues, the tables, the stores, the journal, the log and the sheet within their places
(`BoundsInv`). -/

namespace Sys2Proof.Machine

@[simp] theorem bounds_mk (c l r t sa p ca ro f se po pt pe) :
    BoundsInv (State.mk c l r t sa p ca ro f se po pt pe) ↔
      (l.tx.length ≤ 8 ∧ EventsInv pt.events ∧ r.supply.length ≤ 4
        ∧ JournalInv ca.journal ca.nextSeq ∧ ro.log.length ≤ 4 ∧ ro.sheet.length ≤ 32 ∧ PeersInv pt.setup l.peers
        ∧ r.want.length ≤ 9 ∧ FaultsInv f.table ∧ p.usage.length ≤ 96 ∧ SectionsInv p.sections
        ∧ DraftInv p.draft ∧ SpansInv ca.spans ro.log) :=
  ⟨fun ⟨a, b, c, d, e, f, g, h, i, j, k, l, m⟩ => ⟨a, b, c, d, e, f, g, h, i, j, k, l, m⟩,
    fun ⟨a, b, c, d, e, f, g, h, i, j, k, l, m⟩ => ⟨a, b, c, d, e, f, g, h, i, j, k, l, m⟩⟩

theorem foldl_inv {β : Type} {P : State → Prop} (f : State → β → State) (h : ∀ t x, P t → P (f t x)) (l : List β) (s : State) (hs : P s) :
    P (l.foldl f s) := by
  induction l generalizing s with
  | nil => exact hs
  | cons x xs ih => exact ih _ (h _ _ hs)

@[simp] theorem noteCounterChange_bounds  {s : State} (h : BoundsInv s)  : BoundsInv (noteCounterChange s) := by
  obtain ⟨h1, h2, h3, h4, h5, h6, h7, h8, h9, h10, h11, h12, h13⟩ := h
  constructor <;> simp_all

@[simp] theorem noteIf_bounds (p : Prop) [Decidable p] {s : State} (h : BoundsInv s) : BoundsInv (noteIf p s) := by
  unfold noteIf
  split <;> simp [h]

@[simp] theorem setSection_bounds (i : Nat) (p : PermitSection) {s : State} (h : BoundsInv s) (hp : RecordsInv p.records) :
    BoundsInv (setSection i p s) := by
  obtain ⟨h1, h2, h3, h4, h5, h6, h7, h8, h9, h10, h11, h12, h13⟩ := h
  constructor <;> simp_all

@[simp] theorem setIntake_bounds (i : Option Intake) {s : State} (h : BoundsInv s)  : BoundsInv (setIntake i s) := by
  obtain ⟨h1, h2, h3, h4, h5, h6, h7, h8, h9, h10, h11, h12, h13⟩ := h
  constructor <;> simp_all

@[simp] theorem setSupply_bounds (q : List SupplyEntry) {s : State} (h : BoundsInv s) (hq : q.length ≤ 4) :
    BoundsInv (setSupply q s) := by
  obtain ⟨h1, h2, h3, h4, h5, h6, h7, h8, h9, h10, h11, h12, h13⟩ := h
  constructor <;> simp_all

@[simp] theorem setFaultPos_bounds (p : FaultPos) {s : State} (h : BoundsInv s)  : BoundsInv (setFaultPos p s) := by
  obtain ⟨h1, h2, h3, h4, h5, h6, h7, h8, h9, h10, h11, h12, h13⟩ := h
  constructor <;> simp_all

@[simp] theorem setUsagePos_bounds (p : UsagePos) {s : State} (h : BoundsInv s)  : BoundsInv (setUsagePos p s) := by
  obtain ⟨h1, h2, h3, h4, h5, h6, h7, h8, h9, h10, h11, h12, h13⟩ := h
  constructor <;> simp_all

@[simp] theorem setTariff_bounds (t : Tariff) {s : State} (h : BoundsInv s)  : BoundsInv (setTariff t s) := by
  obtain ⟨h1, h2, h3, h4, h5, h6, h7, h8, h9, h10, h11, h12, h13⟩ := h
  constructor <;> simp_all

@[simp] theorem setCtx_bounds (c : RoundCtx) {s : State} (h : BoundsInv s)  : BoundsInv (setCtx c s) := by
  obtain ⟨h1, h2, h3, h4, h5, h6, h7, h8, h9, h10, h11, h12, h13⟩ := h
  constructor <;> simp_all

@[simp] theorem setLog_bounds (l : List LogRec) {s : State} (h : BoundsInv s) (hq : l.length ≤ 4)
    (hl : SpansInv s.cash.spans l) : BoundsInv (setLog l s) := by
  obtain ⟨h1, h2, h3, h4, h5, h6, h7, h8, h9, h10, h11, h12, h13⟩ := h
  constructor <;> simp_all

@[simp] theorem setSheet_bounds (l : List (Nat × CollectionData)) {s : State} (h : BoundsInv s) (hq : l.length ≤ 32) :
    BoundsInv (setSheet l s) := by
  obtain ⟨h1, h2, h3, h4, h5, h6, h7, h8, h9, h10, h11, h12, h13⟩ := h
  constructor <;> simp_all

@[simp] theorem setLcd_bounds (level : Bool) {s : State} (h : BoundsInv s)  : BoundsInv (setLcd level s) := by
  obtain ⟨h1, h2, h3, h4, h5, h6, h7, h8, h9, h10, h11, h12, h13⟩ := h
  constructor <;> simp_all

@[simp] theorem setAccess_bounds (a : Access) {s : State} (h : BoundsInv s)  : BoundsInv (setAccess a s) := by
  obtain ⟨h1, h2, h3, h4, h5, h6, h7, h8, h9, h10, h11, h12, h13⟩ := h
  constructor <;> simp_all

@[simp] theorem setPath_bounds (p : RxPath) {s : State} (h : BoundsInv s)  : BoundsInv (setPath p s) := by
  obtain ⟨h1, h2, h3, h4, h5, h6, h7, h8, h9, h10, h11, h12, h13⟩ := h
  constructor <;> simp_all

@[simp] theorem setPort_bounds (p : Port) {s : State} (h : BoundsInv s) (hq : EventsInv p.events)
    (hp : PeersInv p.setup s.link.peers) : BoundsInv (setPort p s) := by
  obtain ⟨h1, h2, h3, h4, h5, h6, h7, h8, h9, h10, h11, h12, h13⟩ := h
  constructor <;> simp_all

@[simp] theorem setDraft_bounds (d : Option Draft) {s : State} (h : BoundsInv s)  : BoundsInv (setDraft d s) := by
  obtain ⟨h1, h2, h3, h4, h5, h6, h7, h8, h9, h10, h11, h12, h13⟩ := h
  constructor <;> simp_all

@[simp] theorem setSale_bounds (r : Sale) {s : State} (h : BoundsInv s)  : BoundsInv (setSale r s) := by
  obtain ⟨h1, h2, h3, h4, h5, h6, h7, h8, h9, h10, h11, h12, h13⟩ := h
  constructor <;> simp_all

@[simp] theorem setSectionDraft_bounds (d : Option SectionDraft) {s : State} (h : BoundsInv s) (hd : DraftInv d) :
    BoundsInv (setSectionDraft d s) := by
  obtain ⟨h1, h2, h3, h4, h5, h6, h7, h8, h9, h10, h11, h12, h13⟩ := h
  constructor <;> simp_all

@[simp] theorem setGroup_bounds (g : Nat) (x : SenseGroup) {s : State} (h : BoundsInv s)  :
    BoundsInv (setGroup g x s) := by
  obtain ⟨h1, h2, h3, h4, h5, h6, h7, h8, h9, h10, h11, h12, h13⟩ := h
  constructor <;> simp_all

@[simp] theorem setSupplyLevel_bounds (level : Bool) {s : State} (h : BoundsInv s)  :
    BoundsInv (setSupplyLevel level s) := by
  obtain ⟨h1, h2, h3, h4, h5, h6, h7, h8, h9, h10, h11, h12, h13⟩ := h
  constructor <;> simp_all

@[simp] theorem setQuality_bounds (q : Nat) {s : State} (h : BoundsInv s)  : BoundsInv (setQuality q s) := by
  obtain ⟨h1, h2, h3, h4, h5, h6, h7, h8, h9, h10, h11, h12, h13⟩ := h
  constructor <;> simp_all

@[simp] theorem beginHanding_bounds  {s : State} (h : BoundsInv s)  : BoundsInv (beginHanding s) := by
  obtain ⟨h1, h2, h3, h4, h5, h6, h7, h8, h9, h10, h11, h12, h13⟩ := h
  constructor <;> simp_all

@[simp] theorem endHanding_bounds  {s : State} (h : BoundsInv s)  : BoundsInv (endHanding s) := by
  obtain ⟨h1, h2, h3, h4, h5, h6, h7, h8, h9, h10, h11, h12, h13⟩ := h
  constructor <;> simp_all

@[simp] theorem tick_bounds  {s : State} (h : BoundsInv s)  : BoundsInv (tick s) := by
  obtain ⟨h1, h2, h3, h4, h5, h6, h7, h8, h9, h10, h11, h12, h13⟩ := h
  constructor <;> simp_all

@[simp] theorem popHead_bounds  {s : State} (h : BoundsInv s)  : BoundsInv (popHead s) := by
  obtain ⟨h1, h2, h3, h4, h5, h6, h7, h8, h9, h10, h11, h12, h13⟩ := h
  constructor <;> simp_all
  omega

@[simp] theorem overrun_bounds  {s : State} (h : BoundsInv s)  : BoundsInv (overrun s) := by
  obtain ⟨h1, h2, h3, h4, h5, h6, h7, h8, h9, h10, h11, h12, h13⟩ := h
  constructor <;> simp_all

@[simp] theorem respond_bounds (code : Nat) (a : Answer) (h : BoundsInv a.2.2) : BoundsInv (respond code a) := by
  obtain ⟨h1, h2, h3, h4, h5, h6, h7, h8, h9, h10, h11, h12, h13⟩ := h
  constructor <;> simp_all

theorem offerEvent_inv (e t q) (h : EventsInv q) : EventsInv (offerEvent e t q) := by
  obtain ⟨h1, h2⟩ := h
  unfold offerEvent
  split
  · rename_i hl
    refine ⟨by simp; omega, fun hh => ?_⟩
    simp at hh; omega
  · split
    · rename_i hl
      exact ⟨by simp; omega, fun _ => ⟨eventName e, 1, t, by simp⟩⟩
    · have hl : q.length = 32 := by omega
      obtain ⟨n, c, t', hg⟩ := h2 hl
      simp only [hg]
      exact ⟨by simp; omega, fun _ => ⟨n, if c < 65535 then c + 1 else c, t', by simp⟩⟩

@[simp] theorem postEvent_bounds (e : Event) (s : State) (h : BoundsInv s) : BoundsInv (postEvent e s) := by
  obtain ⟨h1, h2, h3, h4, h5, h6, h7, h8, h9, h10, h11, h12, h13⟩ := id h; constructor <;> simp_all [postEvent, offerEvent_inv]

@[simp] theorem place_bounds (placer : Placer) (dest : Nat) (body : FrameBody) (s : State) (h : BoundsInv s) :
    BoundsInv (place placer dest body s) := by
  obtain ⟨h1, h2, h3, h4, h5, h6, h7, h8, h9, h10, h11, h12, h13⟩ := id h
  unfold place State.canPlace; split <;> simp_all

@[simp] theorem startAccess_bounds (s : State) (h : BoundsInv s) : BoundsInv (startAccess s) := by
  obtain ⟨h1, h2, h3, h4, h5, h6, h7, h8, h9, h10, h11, h12, h13⟩ := id h
  unfold startAccess
  (repeat' split) <;> simp (maxDischargeDepth := 12) [*]

@[simp] theorem startTransmission_bounds (line : OnLine) (s : State) (h : BoundsInv s) :
    BoundsInv (startTransmission line s) := by
  obtain ⟨h1, h2, h3, h4, h5, h6, h7, h8, h9, h10, h11, h12, h13⟩ := id h
  unfold startTransmission
  (repeat' split) <;> simp (maxDischargeDepth := 12) [*]

@[simp] theorem takeUpChannel_bounds (s : State) (h : BoundsInv s) : BoundsInv (takeUpChannel s) := by
  obtain ⟨h1, h2, h3, h4, h5, h6, h7, h8, h9, h10, h11, h12, h13⟩ := id h
  unfold takeUpChannel
  (repeat' split) <;> simp (maxDischargeDepth := 12) [*]

@[simp] theorem postFault_bounds (e : FaultEntry) (cause : FaultCause) (after : Option FaultEntry) (s : State) (h : BoundsInv s) :
    BoundsInv (postFault e cause after s) := by
  obtain ⟨h1, h2, h3, h4, h5, h6, h7, h8, h9, h10, h11, h12, h13⟩ := id h
  unfold postFault
  (repeat' split) <;> simp (maxDischargeDepth := 12) [*]

@[simp] theorem evict_bounds (e : FaultEntry) (s : State) (h : BoundsInv s) : BoundsInv (evict e s) := by
  obtain ⟨h1, h2, h3, h4, h5, h6, h7, h8, h9, h10, h11, h12, h13⟩ := id h
  unfold evict
  (repeat' split) <;> simp (maxDischargeDepth := 12) [*]

theorem makeRoom_bounds {b : Bool} {s t : State} (h : makeRoom b s = some t) (hs : BoundsInv s) : BoundsInv t := by
  unfold makeRoom at h
  split at h
  · simp only [Option.some.injEq] at h
    rwa [← h]
  · cases he : evictee s.own b s.faults.table with
    | none => simp [he] at h
    | some e =>
      simp [he] at h
      simp [← h, hs]

/-- Room made is a free place. -/
theorem makeRoom_place {b : Bool} {s t : State} (h : makeRoom b s = some t) (hs : BoundsInv s) :
    t.faults.table.length < 64 := by
  unfold makeRoom at h
  split at h
  · simp only [Option.some.injEq] at h
    rwa [← h]
  · cases he : evictee s.own b s.faults.table with
    | none => simp [he] at h
    | some e =>
      simp [he] at h
      have h1 := removeFault_length (evictee_mem he)
      have h2 := hs.faults.1
      have h3 : (evict e s).faults.table = removeFault e s.faults.table := by
        unfold evict postFault
        split <;> rfl
      rw [← h, h3]
      omega

@[simp] theorem changeOwn_bounds (e : FaultEntry) (cause : FaultCause) (s : State) (h : BoundsInv s)
    (hk : hasFaultPlace e s.faults.table) : BoundsInv (changeOwn e cause s) := by
  obtain ⟨h1, h2, h3, h4, h5, h6, h7, h8, h9, h10, h11, h12, h13⟩ := id h
  have := insertFault_inv (e := { e with change := nextChange s.faults.counter }) h9 hk
  unfold changeOwn; simp (maxDischargeDepth := 12) [*]

/-- An own entry that is held has its place, whatever has changed of it but its key. -/
theorem ownFault_place {kind : FaultKind} {subject : Nat} {s : State} {e e' : FaultEntry}
    (h : s.ownFault kind subject = some e) (ho : e'.owner = e.owner := by rfl) (hk : e'.kind = e.kind := by rfl)
    (hs : e'.subject = e.subject := by rfl) : hasFaultPlace e' s.faults.table := by
  have hf : isFaultKey s.own kind subject e = true := List.find?_some h
  simp [isFaultKey] at hf
  refine Or.inr ?_
  rw [ho, hk, hs, hf.1.1, hf.1.2, hf.2]
  exact Option.isSome_iff_exists.2 ⟨e, h⟩

theorem tryRaise_bounds {kind : FaultKind} {subject : Nat} {s t : State} (h : tryRaise kind subject s = some t) (hs : BoundsInv s) :
    BoundsInv t := by
  unfold tryRaise at h
  split at h
  · cases hr : makeRoom true s with
    | none => simp [hr] at h
    | some u =>
      simp [hr] at h
      rw [← h]
      exact changeOwn_bounds _ _ _ (makeRoom_bounds hr hs) (Or.inl (makeRoom_place hr hs))
  · rename_i e he
    have hf : hasFaultPlace (freshFault kind subject s) s.faults.table :=
      Or.inr (Option.isSome_iff_exists.2 ⟨e, he⟩)
    split at h <;> (simp only [Option.some.injEq] at h; rw [← h])
    · exact changeOwn_bounds _ _ _ hs hf
    · exact changeOwn_bounds _ _ _ hs (ownFault_place he)
    · exact changeOwn_bounds _ _ _ hs (ownFault_place he)

@[simp] theorem raiseFault_bounds (kind : FaultKind) (subject : Nat) (s : State) (h : BoundsInv s) :
    BoundsInv (raiseFault kind subject s) := by
  unfold raiseFault; cases hh : tryRaise kind subject s with
  | none => simpa using h
  | some t => simpa using tryRaise_bounds hh h

@[simp] theorem clearFault_bounds (kind : FaultKind) (subject : Nat) (s : State) (h : BoundsInv s) :
    BoundsInv (clearFault kind subject s) := by
  unfold clearFault
  split
  · rename_i e he
    split
    · first | exact h | exact changeOwn_bounds _ _ _ h (ownFault_place he)
    · first | exact h | exact changeOwn_bounds _ _ _ h (ownFault_place he)
  · exact h

@[simp] theorem ackFault_bounds (kind : FaultKind) (subject : Nat) (s : State) (h : BoundsInv s) :
    BoundsInv (ackFault kind subject s) := by
  unfold ackFault
  split
  · rename_i e he
    split
    · first | exact h | exact changeOwn_bounds _ _ _ h (ownFault_place he)
    · first | exact h | exact changeOwn_bounds _ _ _ h (ownFault_place he)
  · exact h

@[simp] theorem applyCopy_bounds (sender : Nat) (e : FaultEntry) (s : State) (h : BoundsInv s) :
    BoundsInv (applyCopy sender e s) := by
  obtain ⟨h1, h2, h3, h4, h5, h6, h7, h8, h9, h10, h11, h12, h13⟩ := id h
  unfold applyCopy
  split
  · exact h
  · split
    · rename_i x hx
      have := insertFault_inv h9 (Or.inr (Option.isSome_iff_exists.2 ⟨x, hx⟩))
      split <;> simp [*]
    · split
      · exact h
      · rename_i hr
        have := insertFault_inv (e := e) (makeRoom_bounds hr h).faults (Or.inl (makeRoom_place hr h))
        obtain ⟨g1, g2, g3, g4, g5, g6, g7, g8, g9, g10, g11, g12, g13⟩ := makeRoom_bounds hr h
        simp [*]

@[simp] theorem dropCopies_bounds (owner : Nat) (s : State) (h : BoundsInv s) : BoundsInv (dropCopies owner s) := by
  obtain ⟨h1, h2, h3, h4, h5, h6, h7, h8, h9, h10, h11, h12, h13⟩ := id h
  unfold dropCopies; apply foldl_inv; intro t x ht; simp [ht]; simp [*]

@[simp] theorem raiseMatching_bounds (p : PeerEntry) (s : State) (h : BoundsInv s) :
    BoundsInv (raiseMatching p s) := by
  obtain ⟨h1, h2, h3, h4, h5, h6, h7, h8, h9, h10, h11, h12, h13⟩ := id h
  unfold raiseMatching
  (repeat' split) <;> simp (maxDischargeDepth := 12) [*]

@[simp] theorem observeNewly_bounds (s : State) (h : BoundsInv s) : BoundsInv (observeNewly s) := by
  obtain ⟨h1, h2, h3, h4, h5, h6, h7, h8, h9, h10, h11, h12, h13⟩ := id h
  unfold observeNewly; have : BoundsInv (((s.link.peers.filter fun p => (observedNow s).contains p.station && !s.faults.observed.contains p.station)).foldl (fun t p => raiseMatching p t) s) := foldl_inv _ (fun t x ht => by simp [ht]) _ _ h
  obtain ⟨g1, g2, g3, g4, g5, g6, g7, g8, g9, g10, g11, g12, g13⟩ := this; exact ⟨g1, g2, g3, g4, g5, g6, g7, g8, g9, g10, g11, g12, g13⟩

@[simp] theorem faultStatusNotice_bounds (subject : Nat) (status : PeerStatus) (s : State) (h : BoundsInv s) :
    BoundsInv (faultStatusNotice subject status s) := by
  obtain ⟨h1, h2, h3, h4, h5, h6, h7, h8, h9, h10, h11, h12, h13⟩ := id h
  unfold faultStatusNotice
  (repeat' split) <;> simp (maxDischargeDepth := 12) [*]

@[simp] theorem faultAnnounceNotice_bounds (sender : Nat) (dormant : Bool) (s : State) (h : BoundsInv s) :
    BoundsInv (faultAnnounceNotice sender dormant s) := by
  obtain ⟨h1, h2, h3, h4, h5, h6, h7, h8, h9, h10, h11, h12, h13⟩ := id h
  unfold faultAnnounceNotice
  (repeat' split) <;> simp (maxDischargeDepth := 12) [*]

@[simp] theorem raiseBoxFull_bounds (now : Bool) (s : State) (h : BoundsInv s) : BoundsInv (raiseBoxFull now s) := by
  obtain ⟨h1, h2, h3, h4, h5, h6, h7, h8, h9, h10, h11, h12, h13⟩ := id h
  unfold raiseBoxFull
  (repeat' split) <;> simp (maxDischargeDepth := 12) [*]

@[simp] theorem clearBoxFull_bounds (s : State) (h : BoundsInv s) : BoundsInv (clearBoxFull s) := by
  obtain ⟨h1, h2, h3, h4, h5, h6, h7, h8, h9, h10, h11, h12, h13⟩ := id h
  unfold clearBoxFull
  (repeat' split) <;> simp (maxDischargeDepth := 12) [*]

@[simp] theorem raiseJournalFull_bounds (s : State) (h : BoundsInv s) : BoundsInv (raiseJournalFull s) := by
  obtain ⟨h1, h2, h3, h4, h5, h6, h7, h8, h9, h10, h11, h12, h13⟩ := id h
  unfold raiseJournalFull
  (repeat' split) <;> simp (maxDischargeDepth := 12) [*]

@[simp] theorem clearJournalFull_bounds (s : State) (h : BoundsInv s) : BoundsInv (clearJournalFull s) := by
  obtain ⟨h1, h2, h3, h4, h5, h6, h7, h8, h9, h10, h11, h12, h13⟩ := id h
  unfold clearJournalFull
  (repeat' split) <;> simp (maxDischargeDepth := 12) [*]

/-- The journal after a commit: the record of the next sequence joins it, and the oldest goes where 2,048 stand (R128). -/
theorem journalInv_place {j : List JournalRec} {next : Nat} {r : JournalRec} (h : JournalInv j next) (hr : r.seq = next) :
    JournalInv (placeRecord r j) (next + 1) := by
  obtain ⟨h1, h2⟩ := h
  have hl : j.length = min 2048 (next - 1) := by simpa using congrArg List.length h2
  have hc : (j ++ [r]).map (·.seq) = List.range' (max 1 (next - 2048)) (min 2048 (next - 1) + 1) := by
    rw [List.range'_1_concat, List.map_append, h2, List.map_singleton, hr]
    congr 2
    omega
  refine ⟨by omega, ?_⟩
  rw [placeRecord, List.map_drop, hc, hl]
  by_cases hn : next ≤ 2048
  · rw [show min 2048 (next - 1) + 1 - 2048 = 0 by omega, List.drop_zero,
      show max 1 (next - 2048) = max 1 (next + 1 - 2048) by omega,
      show min 2048 (next - 1) + 1 = min 2048 (next + 1 - 1) by omega]
  · rw [show min 2048 (next - 1) + 1 - 2048 = 1 by omega, List.range'_succ, List.drop_one, List.tail_cons,
      show max 1 (next - 2048) + 1 = max 1 (next + 1 - 2048) by omega,
      show min 2048 (next - 1) = min 2048 (next + 1 - 1) by omega]

/-- The journal holds as many records as there are held sequences. -/
theorem journalInv_length {j : List JournalRec} {next : Nat} (h : JournalInv j next) : j.length = min 2048 (next - 1) := by
  simpa using congrArg List.length h.2

/-- A record placed replaces the one 2,048 sequences back and no other (R128, R131). -/
theorem journalInv_kept {c : Cash} {r x : JournalRec} (h : JournalInv c.journal c.nextSeq) (hx : x ∈ c.journal) :
    x ∈ placeRecord r c.journal ∨ x.seq + 2048 = c.nextSeq := by
  have hl := journalInv_length h
  obtain ⟨-, h2⟩ := h
  by_cases hn : c.nextSeq ≤ 2048
  · left
    rw [placeRecord, show c.journal.length + 1 - 2048 = 0 by omega]
    simp [hx]
  · cases hj : c.journal with
    | nil => simp [hj] at hx
    | cons y ys =>
      rw [hj, List.length_cons] at hl
      rw [placeRecord, List.length_cons, show ys.length + 1 + 1 - 2048 = 1 by omega]
      rw [hj] at hx
      rcases List.mem_cons.1 hx with rfl | hx
      · right
        rw [hj, show min 2048 (c.nextSeq - 1) = 2047 + 1 by omega, List.range'_succ, List.map_cons] at h2
        have := (List.cons.inj h2).1
        omega
      · left
        simp [hx]

@[simp] theorem takeOffer_bounds (r : JournalRec) (escrow : List Nat) (s : State) (h : BoundsInv s) :
    BoundsInv (takeOffer r escrow s) := by
  obtain ⟨h1, h2, h3, h4, h5, h6, h7, h8, h9, h10, h11, h12, h13⟩ := id h
  unfold takeOffer
  dsimp only
  apply raiseBoxFull_bounds
  have := journalInv_place (r := { r with seq := s.cash.nextSeq, segment := (segmentAfter s.cash).number }) h4 rfl
  constructor <;> simp_all [writeCommit]

@[simp] theorem cashSetup_bounds (s : State) (h : BoundsInv s) : BoundsInv (cashSetup s) := by
  obtain ⟨h1, h2, h3, h4, h5, h6, h7, h8, h9, h10, h11, h12, h13⟩ := id h
  unfold cashSetup
  (repeat' split) <;> simp (maxDischargeDepth := 12) [*]

@[simp] theorem clearStale_bounds (s : State) (h : BoundsInv s) : BoundsInv (clearStale s) := by
  obtain ⟨h1, h2, h3, h4, h5, h6, h7, h8, h9, h10, h11, h12, h13⟩ := id h
  unfold clearStale
  (repeat' split) <;> simp (maxDischargeDepth := 12) [*]

@[simp] theorem judgeSection_bounds (s : State) (i : Nat) (h : BoundsInv s) : BoundsInv (judgeSection s i) := by
  have := sectionAt_records h.sections i
  unfold judgeSection
  dsimp only
  (repeat' split) <;> simp (maxDischargeDepth := 12) [*]

@[simp] theorem judgeList_bounds (is : List Nat) (s : State) (h : BoundsInv s) : BoundsInv (judgeList is s) := by
  have hf : BoundsInv (is.foldl judgeSection s) := foldl_inv _ (fun t x ht => by simp [ht]) _ _ h
  unfold judgeList
  dsimp only
  split
  · exact hf
  · exact clearStale_bounds _ hf

@[simp] theorem judgeSections_bounds (s : State) (h : BoundsInv s) : BoundsInv (judgeSections s) :=
  judgeList_bounds _ _ h

/-- A place is free for the usage entry of a permit and day: the table is not full, or holds it. -/
def hasUsagePlace (permit day : Nat) (s : State) : Prop :=
  s.permits.usage.length < 96 ∨ (s.usageOf permit day).isSome = true

theorem raiseOwn_key (own minutes : Nat) (e : UsageEntry) :
    (raiseOwn own minutes e).permit = e.permit ∧ (raiseOwn own minutes e).day = e.day := by
  unfold raiseOwn
  (repeat' split) <;> simp

theorem usageOf_key {s : State} {permit day : Nat} {e : UsageEntry} (h : s.usageOf permit day = some e) :
    e.permit = permit ∧ e.day = day := by
  have := List.find?_some h
  simpa [isUsage] using this

@[simp] theorem addOwnUsage_bounds (permit : Nat) (day : Nat) (minutes : Nat) (s : State) (h : BoundsInv s)
    (hp : hasUsagePlace permit day s) : BoundsInv (addOwnUsage permit day minutes s) := by
  obtain ⟨h1, h2, h3, h4, h5, h6, h7, h8, h9, h10, h11, h12, h13⟩ := id h
  unfold addOwnUsage
  split
  · exact h
  · dsimp only
    generalize he :
      (s.usageOf permit day).getD { permit := permit, day := day, contribs := [], saturated := false } = e
    have hk : e.permit = permit ∧ e.day = day := by
      rw [← he]
      cases hu : s.usageOf permit day with
      | none => simp
      | some x => simpa using usageOf_key hu
    have hl : (putUsage (raiseOwn s.own minutes e) s.permits.usage).length ≤ 96 := by
      apply putUsage_bound h10
      rw [(raiseOwn_key s.own minutes e).1, (raiseOwn_key s.own minutes e).2, hk.1, hk.2]
      exact hp
    simp (maxDischargeDepth := 12) [*]

@[simp] theorem applyContrib_bounds (sender : Nat) (day : Nat) (s : State) (c : Nat × Nat) (h : BoundsInv s) :
    BoundsInv (applyContrib sender day s c) := by
  obtain ⟨h1, h2, h3, h4, h5, h6, h7, h8, h9, h10, h11, h12, h13⟩ := id h
  unfold applyContrib
  split
  · exact h
  · split
    · exact h
    · split
      · rename_i e he
        have key : ∀ e' : UsageEntry, e'.permit = e.permit → e'.day = e.day → (putUsage e' s.permits.usage).length ≤ 96 := by
          intro e' a b
          apply putUsage_bound h10
          rw [a, b, (usageOf_key he).1, (usageOf_key he).2]
          exact Or.inr (Option.isSome_iff_exists.2 ⟨e, he⟩)
        (repeat' split) <;> simp [*]
      · split <;> simp [*]

@[simp] theorem rolloverUsage_bounds (today : Nat) (s : State) (h : BoundsInv s) :
    BoundsInv (rolloverUsage today s) := by
  obtain ⟨h1, h2, h3, h4, h5, h6, h7, h8, h9, h10, h11, h12, h13⟩ := id h
  have := filter_usage (fun e => decide (today ≤ e.day)) h10
  unfold rolloverUsage
  (repeat' split) <;> simp (maxDischargeDepth := 12) [*]

@[simp] theorem judgeSettled_bounds (s : State) (h : BoundsInv s) : BoundsInv (judgeSettled s) := by
  obtain ⟨h1, h2, h3, h4, h5, h6, h7, h8, h9, h10, h11, h12, h13⟩ := id h
  unfold judgeSettled
  (repeat' split) <;> simp (maxDischargeDepth := 12) [*]

@[simp] theorem judgeWant_bounds (sender : Option Nat) (s : State) (h : BoundsInv s) :
    BoundsInv (judgeWant sender s) := by
  obtain ⟨h1, h2, h3, h4, h5, h6, h7, h8, h9, h10, h11, h12, h13⟩ := id h
  have : (allObjects.filterMap (s.judgedWant sender)).length ≤ 9 := List.length_filterMap_le _ _
  unfold judgeWant
  simp (maxDischargeDepth := 12) [*]

@[simp] theorem mapWant_bounds (obj : ImageObj) (f : WantEntry → WantEntry) (s : State) (h : BoundsInv s) :
    BoundsInv (mapWant obj f s) := by
  obtain ⟨h1, h2, h3, h4, h5, h6, h7, h8, h9, h10, h11, h12, h13⟩ := id h
  unfold mapWant
  (repeat' split) <;> simp (maxDischargeDepth := 12) [*]

@[simp] theorem beginHead_bounds (s : State) (h : BoundsInv s) : BoundsInv (beginHead s) := by
  simp (maxDischargeDepth := 12) [beginHead, h]

@[simp] theorem forgetTimeouts_bounds (i : Intake) (s : State) (h : BoundsInv s) :
    BoundsInv (forgetTimeouts i s) := by
  unfold forgetTimeouts
  split <;> simp [h]

@[simp] theorem followHead_bounds (i : Intake) (s : State) (h : BoundsInv s) : BoundsInv (followHead i s) := by
  unfold followHead
  (repeat' split) <;> simp [h]

@[simp] theorem followIntake_bounds (s : State) (h : BoundsInv s) : BoundsInv (followIntake s) := by
  obtain ⟨h1, h2, h3, h4, h5, h6, h7, h8, h9, h10, h11, h12, h13⟩ := id h
  unfold followIntake
  (repeat' split) <;> simp (maxDischargeDepth := 12) [*]

@[simp] theorem pruneCandidates_bounds (s : State) (h : BoundsInv s) : BoundsInv (pruneCandidates s) := by
  obtain ⟨h1, h2, h3, h4, h5, h6, h7, h8, h9, h10, h11, h12, h13⟩ := id h
  unfold pruneCandidates
  (repeat' split) <;> simp (maxDischargeDepth := 12) [*]

@[simp] theorem sendRequest_bounds (s : State) (h : BoundsInv s) : BoundsInv (sendRequest s) := by
  obtain ⟨h1, h2, h3, h4, h5, h6, h7, h8, h9, h10, h11, h12, h13⟩ := id h
  unfold sendRequest
  (repeat' split) <;> simp (maxDischargeDepth := 12) [*]

@[simp] theorem requestIntake_bounds (s : State) (h : BoundsInv s) : BoundsInv (requestIntake s) := by
  obtain ⟨h1, h2, h3, h4, h5, h6, h7, h8, h9, h10, h11, h12, h13⟩ := id h
  unfold requestIntake
  (repeat' split) <;> simp (maxDischargeDepth := 12) [*]

@[simp] theorem updateIntake_bounds (s : State) (h : BoundsInv s) : BoundsInv (updateIntake s) := by
  obtain ⟨h1, h2, h3, h4, h5, h6, h7, h8, h9, h10, h11, h12, h13⟩ := id h
  unfold updateIntake
  dsimp only
  (repeat' split) <;> simp (maxDischargeDepth := 12) [*]

@[simp] theorem excludeProvider_bounds (i : Intake) (s : State) (h : BoundsInv s) :
    BoundsInv (excludeProvider i s) := by
  simp (maxDischargeDepth := 12) [excludeProvider, h]

@[simp] theorem countFailure_bounds (i : Intake) (s : State) (h : BoundsInv s) : BoundsInv (countFailure i s) := by
  obtain ⟨h1, h2, h3, h4, h5, h6, h7, h8, h9, h10, h11, h12, h13⟩ := id h
  unfold countFailure
  dsimp only
  (repeat' split) <;> simp (maxDischargeDepth := 12) [*]

@[simp] theorem dropCandidate_bounds (n : Nat) (s : State) (h : BoundsInv s) : BoundsInv (dropCandidate n s) := by
  obtain ⟨h1, h2, h3, h4, h5, h6, h7, h8, h9, h10, h11, h12, h13⟩ := id h
  unfold dropCandidate
  (repeat' split) <;> simp (maxDischargeDepth := 12) [*]

@[simp] theorem fixHead_bounds (s : State) (h : BoundsInv s) : BoundsInv (fixHead s) := by
  obtain ⟨h1, h2, h3, h4, h5, h6, h7, h8, h9, h10, h11, h12, h13⟩ := id h
  unfold fixHead
  (repeat' split) <;> simp_all

@[simp] theorem serve_bounds (s : State) (h : BoundsInv s) : BoundsInv (serve s) := by
  obtain ⟨h1, h2, h3, h4, h5, h6, h7, h8, h9, h10, h11, h12, h13⟩ := id h
  unfold serve
  dsimp only
  (repeat' split) <;> simp_all <;> omega

@[simp] theorem replaceSupply_bounds (e : SupplyEntry) (s : State) (h : BoundsInv s) :
    BoundsInv (replaceSupply e s) := by
  have hq : BoundsInv (setSupply (s.repl.supply.map fun x => if sameRequest e x then e else x) s) :=
    setSupply_bounds _ h (by simpa using h.supply)
  unfold replaceSupply
  dsimp only
  split
  · exact serve_bounds _ hq
  · exact hq

@[simp] theorem enterSupply_bounds (e : SupplyEntry) (s : State) (h : BoundsInv s) : BoundsInv (enterSupply e s) := by
  unfold enterSupply; dsimp only
  have h3 := h.supply
  split
  · exact replaceSupply_bounds e s h
  · split
    · split
      · exact serve_bounds _ (fixHead_bounds _ (setSupply_bounds _ h (by simp)))
      · exact setSupply_bounds _ h (by simp; omega)
    · exact h

@[simp] theorem answerNotHeld_bounds (requester : Nat) (obj : ImageObj) (key : Key) (s : State) (h : BoundsInv s) :
    BoundsInv (answerNotHeld requester obj key s) := by
  obtain ⟨h1, h2, h3, h4, h5, h6, h7, h8, h9, h10, h11, h12, h13⟩ := id h
  unfold answerNotHeld
  (repeat' split) <;> simp (maxDischargeDepth := 12) [*]

@[simp] theorem requestImage_bounds (sender : Nat) (obj : ImageObj) (key : Key) (start : Nat) (s : State) (h : BoundsInv s) :
    BoundsInv (requestImage sender obj key start s) := by
  obtain ⟨h1, h2, h3, h4, h5, h6, h7, h8, h9, h10, h11, h12, h13⟩ := id h
  unfold requestImage
  (repeat' split) <;> simp (maxDischargeDepth := 12) [*]

@[simp] theorem answerEntry_bounds (s : State) (e : SupplyEntry) (h : BoundsInv s) : BoundsInv (answerEntry s e) := by
  obtain ⟨h1, h2, h3, h4, h5, h6, h7, h8, h9, h10, h11, h12, h13⟩ := id h
  unfold answerEntry
  (repeat' split) <;> simp (maxDischargeDepth := 12) [*]

@[simp] theorem keepSupply_bounds (keep : SupplyEntry → Bool) (s : State) (h : BoundsInv s) :
    BoundsInv (keepSupply keep s) := by
  have hq : (s.repl.supply.filter keep).length ≤ 4 := le_trans (List.length_filter_le _ _) h.supply
  unfold keepSupply
  dsimp only
  split
  · exact setSupply_bounds _ h hq
  · exact serve_bounds _ (fixHead_bounds _ (setSupply_bounds _ h hq))

@[simp] theorem judgeSupply_bounds (s : State) (h : BoundsInv s) : BoundsInv (judgeSupply s) := by
  unfold judgeSupply; apply keepSupply_bounds; exact foldl_inv _ (fun t x ht => by simp [ht]) _ _ h

@[simp] theorem holdingsNotice_bounds (s : State) (h : BoundsInv s) : BoundsInv (holdingsNotice s) := by
  simp (maxDischargeDepth := 12) [holdingsNotice, h]

@[simp] theorem supplySent_bounds (s : State) (h : BoundsInv s) : BoundsInv (supplySent s) := by
  have h3 := h.supply
  unfold supplySent
  split
  · exact h
  · rename_i hs
    rw [hs, List.length_cons] at h3
    (repeat' split)
    · exact fixHead_bounds _ (setSupply_bounds _ h (by omega))
    · exact setSupply_bounds _ h (by simpa using h3)
    · exact h

@[simp] theorem supplyDropped_bounds (s : State) (h : BoundsInv s) : BoundsInv (supplyDropped s) := by
  obtain ⟨h1, h2, h3, h4, h5, h6, h7, h8, h9, h10, h11, h12, h13⟩ := id h
  unfold supplyDropped
  (repeat' split) <;> simp_all

@[simp] theorem dropOldUsage_bounds (s : State) (h : BoundsInv s) : BoundsInv (dropOldUsage s) := by
  simp (maxDischargeDepth := 12) [dropOldUsage, h]

@[simp] theorem intakeSent_bounds (s : State) (h : BoundsInv s) : BoundsInv (intakeSent s) := by
  obtain ⟨h1, h2, h3, h4, h5, h6, h7, h8, h9, h10, h11, h12, h13⟩ := id h
  unfold intakeSent
  (repeat' split) <;> simp (maxDischargeDepth := 12) [*]

@[simp] theorem intakeDropped_bounds (s : State) (h : BoundsInv s) : BoundsInv (intakeDropped s) := by
  obtain ⟨h1, h2, h3, h4, h5, h6, h7, h8, h9, h10, h11, h12, h13⟩ := id h
  unfold intakeDropped
  (repeat' split) <;> simp (maxDischargeDepth := 12) [*]

@[simp] theorem retryPlacements_bounds (s : State) (h : BoundsInv s) : BoundsInv (retryPlacements s) := by
  simp (maxDischargeDepth := 12) [retryPlacements, h]

@[simp] theorem requestStream_bounds (owner : Nat) (r : RequestBody) (rx : Option SeriesRx) (s : State) (h : BoundsInv s) :
    BoundsInv (requestStream owner r rx s) := by
  obtain ⟨h1, h2, h3, h4, h5, h6, h7, h8, h9, h10, h11, h12, h13⟩ := id h
  unfold requestStream
  (repeat' split) <;> simp (maxDischargeDepth := 12) [*]

@[simp] theorem judgeFaultStream_bounds (p : PeerEntry) (s : State) (h : BoundsInv s) :
    BoundsInv (judgeFaultStream p s) := by
  obtain ⟨h1, h2, h3, h4, h5, h6, h7, h8, h9, h10, h11, h12, h13⟩ := id h
  unfold judgeFaultStream
  dsimp only
  (repeat' split) <;> simp (maxDischargeDepth := 12) [*]

@[simp] theorem dropUsage_bounds (owner : Nat) (which : Nat → Bool) (s : State) (h : BoundsInv s) :
    BoundsInv (dropUsage owner which s) := by
  obtain ⟨h1, h2, h3, h4, h5, h6, h7, h8, h9, h10, h11, h12, h13⟩ := id h
  unfold dropUsage
  (repeat' split) <;> simp (maxDischargeDepth := 12) [*]

@[simp] theorem alignUsageDay_bounds (p : PeerEntry) (s : State) (h : BoundsInv s) :
    BoundsInv (alignUsageDay p s) := by
  obtain ⟨h1, h2, h3, h4, h5, h6, h7, h8, h9, h10, h11, h12, h13⟩ := id h
  unfold alignUsageDay
  dsimp only
  (repeat' split) <;> simp (maxDischargeDepth := 12) [*]

@[simp] theorem compareUsage_bounds (p : PeerEntry) (s : State) (h : BoundsInv s) : BoundsInv (compareUsage p s) := by
  obtain ⟨h1, h2, h3, h4, h5, h6, h7, h8, h9, h10, h11, h12, h13⟩ := id h
  unfold compareUsage
  dsimp only
  (repeat' split) <;> simp (maxDischargeDepth := 12) [*]

@[simp] theorem judgeUsageStream_bounds (p : PeerEntry) (s : State) (h : BoundsInv s) :
    BoundsInv (judgeUsageStream p s) := by
  obtain ⟨h1, h2, h3, h4, h5, h6, h7, h8, h9, h10, h11, h12, h13⟩ := id h
  unfold judgeUsageStream
  (repeat' split) <;> simp (maxDischargeDepth := 12) [*]

@[simp] theorem replAnnounceNotice_bounds (sender : Nat) (s : State) (h : BoundsInv s) :
    BoundsInv (replAnnounceNotice sender s) := by
  obtain ⟨h1, h2, h3, h4, h5, h6, h7, h8, h9, h10, h11, h12, h13⟩ := id h
  unfold replAnnounceNotice
  dsimp only
  (repeat' split) <;> simp (maxDischargeDepth := 12) [*]

@[simp] theorem raiseMissing_bounds (s : State) (h : BoundsInv s) : BoundsInv (raiseMissing s) := by
  obtain ⟨h1, h2, h3, h4, h5, h6, h7, h8, h9, h10, h11, h12, h13⟩ := id h
  unfold raiseMissing
  (repeat' split) <;> simp (maxDischargeDepth := 12) [*]

@[simp] theorem reraiseMissing_bounds (s : State) (h : BoundsInv s) : BoundsInv (reraiseMissing s) := by
  obtain ⟨h1, h2, h3, h4, h5, h6, h7, h8, h9, h10, h11, h12, h13⟩ := id h
  unfold reraiseMissing
  (repeat' split) <;> simp (maxDischargeDepth := 12) [*]

@[simp] theorem clearMissing_bounds (s : State) (h : BoundsInv s) : BoundsInv (clearMissing s) := by
  obtain ⟨h1, h2, h3, h4, h5, h6, h7, h8, h9, h10, h11, h12, h13⟩ := id h
  unfold clearMissing
  (repeat' split) <;> simp (maxDischargeDepth := 12) [*]

@[simp] theorem postTariffChanged_bounds (old : Tariff) (byChangeover : Bool) (s : State) (h : BoundsInv s) :
    BoundsInv (postTariffChanged old byChangeover s) := by
  obtain ⟨h1, h2, h3, h4, h5, h6, h7, h8, h9, h10, h11, h12, h13⟩ := id h
  unfold postTariffChanged
  (repeat' split) <;> simp (maxDischargeDepth := 12) [*]

@[simp] theorem installTariff_bounds (new : TariffSet) (supplier : Nat) (s : State) (h : BoundsInv s) :
    BoundsInv (installTariff new supplier s).1 := by
  obtain ⟨h1, h2, h3, h4, h5, h6, h7, h8, h9, h10, h11, h12, h13⟩ := id h
  unfold installTariff
  (repeat' split) <;> simp (maxDischargeDepth := 12) [*]

@[simp] theorem tariffImageIn_bounds (key : Key) (img : List Byte) (supplier : Nat) (s : State) (h : BoundsInv s) :
    BoundsInv (tariffImageIn key img supplier s).1 := by
  obtain ⟨h1, h2, h3, h4, h5, h6, h7, h8, h9, h10, h11, h12, h13⟩ := id h
  unfold tariffImageIn
  (repeat' split) <;> simp (maxDischargeDepth := 12) [*]

@[simp] theorem makeChangeover_bounds (s : State) (h : BoundsInv s) : BoundsInv (makeChangeover s) := by
  obtain ⟨h1, h2, h3, h4, h5, h6, h7, h8, h9, h10, h11, h12, h13⟩ := id h
  unfold makeChangeover
  (repeat' split) <;> simp (maxDischargeDepth := 12) [*]

@[simp] theorem releasePin_bounds (s : State) (h : BoundsInv s) : BoundsInv (releasePin s) := by
  obtain ⟨h1, h2, h3, h4, h5, h6, h7, h8, h9, h10, h11, h12, h13⟩ := id h
  unfold releasePin
  (repeat' split) <;> simp (maxDischargeDepth := 12) [*]

@[simp] theorem sectionNotice_bounds (i : Nat) (s : State) (h : BoundsInv s) : BoundsInv (sectionNotice i s) := by
  simp (maxDischargeDepth := 12) [sectionNotice, h]

@[simp] theorem postSection_bounds (i : Nat) (previous : Option Key) (byAmendment : Bool) (supplier : Nat) (s : State) (h : BoundsInv s) :
    BoundsInv (postSection i previous byAmendment supplier s) := by
  obtain ⟨h1, h2, h3, h4, h5, h6, h7, h8, h9, h10, h11, h12, h13⟩ := id h
  unfold postSection
  (repeat' split) <;> simp (maxDischargeDepth := 12) [*]

@[simp] theorem writeSection_bounds (i : Nat) (key : Key) (closed : Bool) (records : List PermitRec) (s : State) (h : BoundsInv s)
    (hr : RecordsInv records) : BoundsInv (writeSection i key closed records s) := by
  simp (maxDischargeDepth := 12) [writeSection, h, hr]

theorem sectionImageOk_records {i : Nat} {key : Key} {img : Nat × Option Key × Bool × List PermitRec}
    (h : sectionImageOk i key img = true) : RecordsInv img.2.2.2 := by
  simp only [sectionImageOk, Bool.and_eq_true, decide_eq_true_eq] at h
  exact ⟨h.1.1.1.2, pairwise_of_ascending h.1.2⟩

@[simp] theorem sectionImageIn_bounds (i : Nat) (key : Key) (img : List Byte) (supplier : Nat) (s : State) (h : BoundsInv s) :
    BoundsInv (sectionImageIn i key img supplier s).1 := by
  unfold sectionImageIn
  split
  · exact h
  · split
    · exact h
    · split
      · exact h
      · rename_i g _
        exact sectionNotice_bounds _ _ (postSection_bounds _ _ _ _ _
          (writeSection_bounds _ _ _ _ _ h (sectionImageOk_records (by simpa using g))))

@[simp] theorem amendFromFrame_bounds (sender : Nat) (i : Nat) (old : Key) (new : Key) (c : AmendChange) (s : State) (h : BoundsInv s) :
    BoundsInv (amendFromFrame sender i old new c s) := by
  unfold amendFromFrame
  split
  · split
    · exact h
    · rename_i p hp
      exact postSection_bounds _ _ _ _ _ (sectionNotice_bounds _ _
        (writeSection_bounds _ _ _ _ _ h (applyChange_records hp (sectionAt_records h.sections i))))
  · exact h

@[simp] theorem amendOwn_bounds (i : Nat) (old : Key) (c : AmendChange) (p : PermitSection) (s : State) (h : BoundsInv s)
    (hp : RecordsInv p.records) : BoundsInv (amendOwn i old c p s) := by
  simp (maxDischargeDepth := 12) [amendOwn, h, hp]

@[simp] theorem storeImage_bounds (i : Intake) (s : State) (h : BoundsInv s) : BoundsInv (storeImage i s).1 := by
  obtain ⟨h1, h2, h3, h4, h5, h6, h7, h8, h9, h10, h11, h12, h13⟩ := id h
  unfold storeImage
  (repeat' split) <;> simp (maxDischargeDepth := 12) [*]

@[simp] theorem declineKey_bounds (obj : ImageObj) (key : Key) (s : State) (h : BoundsInv s) :
    BoundsInv (declineKey obj key s) := by
  obtain ⟨h1, h2, h3, h4, h5, h6, h7, h8, h9, h10, h11, h12, h13⟩ := id h
  have : (s.repl.want.filter (·.obj != obj)).length ≤ 9 := Nat.le_trans (List.length_filter_le _ _) h8
  unfold declineKey
  simp (maxDischargeDepth := 12) [*]

@[simp] theorem storeAnswer_bounds (i : Intake) (s : State) (h : BoundsInv s) : BoundsInv (storeAnswer i s) := by
  unfold storeAnswer
  have h1 := storeImage_bounds i (setIntake none s) (setIntake_bounds _ h)
  split <;> rename_i u hu <;> simp [hu] at h1 <;> simp [h1]

@[simp] theorem imageComplete_bounds (i : Intake) (check : Crc) (s : State) (h : BoundsInv s) :
    BoundsInv (imageComplete i check s) := by
  obtain ⟨h1, h2, h3, h4, h5, h6, h7, h8, h9, h10, h11, h12, h13⟩ := id h
  unfold imageComplete
  (repeat' split) <;> simp (maxDischargeDepth := 12) [*]

@[simp] theorem takeFragment_bounds (i : Intake) (f : FragmentBody) (s : State) (h : BoundsInv s) :
    BoundsInv (takeFragment i f s) := by
  obtain ⟨h1, h2, h3, h4, h5, h6, h7, h8, h9, h10, h11, h12, h13⟩ := id h
  unfold takeFragment
  dsimp only
  (repeat' split) <;> simp (maxDischargeDepth := 12) [*]

@[simp] theorem markAllDue_bounds (s : State) (h : BoundsInv s) : BoundsInv (markAllDue s) :=
  setLog_bounds _ h (by simpa using h.log) (spansInv_map (fun _ => rfl) h.spans)

@[simp] theorem takeRound_bounds (round : Nat) (collector : Nat) (s : State) (h : BoundsInv s) :
    BoundsInv (takeRound round collector s) := by
  obtain ⟨h1, h2, h3, h4, h5, h6, h7, h8, h9, h10, h11, h12, h13⟩ := id h
  unfold takeRound
  (repeat' split) <;> simp (maxDischargeDepth := 12) [*]

@[simp] theorem takeRoundOpen_bounds (round : Nat) (collector : Nat) (s : State) (h : BoundsInv s) :
    BoundsInv (takeRoundOpen round collector s) := by
  obtain ⟨h1, h2, h3, h4, h5, h6, h7, h8, h9, h10, h11, h12, h13⟩ := id h
  unfold takeRoundOpen
  (repeat' split) <;> simp (maxDischargeDepth := 12) [*]

@[simp] theorem closeRound_bounds (s : State) (h : BoundsInv s) : BoundsInv (closeRound s) := by
  simp (maxDischargeDepth := 12) [closeRound, h]

@[simp] theorem followAnnounce_bounds (p : PeerEntry) (s : State) (h : BoundsInv s) :
    BoundsInv (followAnnounce p s) := by
  obtain ⟨h1, h2, h3, h4, h5, h6, h7, h8, h9, h10, h11, h12, h13⟩ := id h
  unfold followAnnounce
  dsimp only
  (repeat' split) <;> simp (maxDischargeDepth := 12) [*]

@[simp] theorem noteDue_bounds (station : Nat) (due : Nat) (s : State) (h : BoundsInv s) :
    BoundsInv (noteDue station due s) := by
  obtain ⟨h1, h2, h3, h4, h5, h6, h7, h8, h9, h10, h11, h12, h13⟩ := id h
  unfold noteDue
  (repeat' split) <;> simp (maxDischargeDepth := 12) [*]

@[simp] theorem roundAnnounceNotice_bounds (sender : Nat) (s : State) (h : BoundsInv s) :
    BoundsInv (roundAnnounceNotice sender s) := by
  obtain ⟨h1, h2, h3, h4, h5, h6, h7, h8, h9, h10, h11, h12, h13⟩ := id h
  unfold roundAnnounceNotice
  (repeat' split) <;> simp (maxDischargeDepth := 12) [*]

@[simp] theorem startVisit_bounds (s : State) (h : BoundsInv s) : BoundsInv (startVisit s) := by
  simp (maxDischargeDepth := 12) [startVisit, h]

@[simp] theorem takeVisit_bounds (round : Nat) (collector : Nat) (s : State) (h : BoundsInv s) :
    BoundsInv (takeVisit round collector s) := by
  obtain ⟨h1, h2, h3, h4, h5, h6, h7, h8, h9, h10, h11, h12, h13⟩ := id h
  unfold takeVisit
  dsimp only
  (repeat' split) <;> simp (maxDischargeDepth := 12) [*]

@[simp] theorem expireVisit_bounds (s : State) (h : BoundsInv s) : BoundsInv (expireVisit s) := by
  obtain ⟨h1, h2, h3, h4, h5, h6, h7, h8, h9, h10, h11, h12, h13⟩ := id h
  unfold expireVisit
  (repeat' split) <;> simp (maxDischargeDepth := 12) [*]

theorem mapLast_length (f) (l : List LogRec) : (mapLast f l).length = l.length := by
  fun_induction mapLast f l <;> simp_all

theorem logAfter_length (d r a t) (l : List LogRec) (hl : l.length ≤ 4) : (logAfter (if l.length < 4 then .newSpan else .extend) d r a t l).length ≤ 4 := by
  unfold logAfter
  split
  · exact hl
  · split <;> (rename_i hh; split at hh <;> simp_all [mapLast_length])

theorem writeSnapshot_journal (f c) : (writeSnapshot f c).journal = c.journal := by
  unfold writeSnapshot
  dsimp only
  split <;> rfl

theorem writeSnapshot_nextSeq (f c) : (writeSnapshot f c).nextSeq = c.nextSeq := by
  unfold writeSnapshot
  dsimp only
  split <;> rfl

/-- The two parts of a removal's record write keep spans and records together. -/
theorem writeRemoval_spans {c : Cash} {log : List LogRec} (form : SnapForm) (round : Nat) (attended : Bool)
    (time : Option Nat) (h : SpansInv c.spans log) :
    SpansInv (writeSnapshot form c).spans (logAfter form (snapData c) round attended time log) := by
  unfold writeSnapshot logAfter
  cases hs : (snapData c).segment with
  | none => exact h
  | some x =>
    obtain ⟨seg, first, last⟩ := x
    cases form with
    | newSpan => exact spansInv_append h rfl rfl
    | extend => exact spansInv_extend (fun _ => ⟨rfl, rfl⟩) h

@[simp] theorem writeRemoval_bounds (attended : Bool) (s : State) (h : BoundsInv s) :
    BoundsInv (writeRemoval attended s) := by
  obtain ⟨h1, h2, h3, h4, h5, h6, h7, h8, h9, h10, h11, h12, h13⟩ := id h
  have := writeRemoval_spans s.snapshotForm (removalRound s attended) attended s.zoneSec h13
  unfold State.snapshotForm at this
  unfold writeRemoval State.snapshotForm; simp [*, writeSnapshot_journal, writeSnapshot_nextSeq, logAfter_length]

@[simp] theorem attendedRemoval_bounds (s : State) (h : BoundsInv s) : BoundsInv (attendedRemoval s) := by
  simp (maxDischargeDepth := 12) [attendedRemoval, h]

@[simp] theorem unattendedRemoval_bounds (s : State) (h : BoundsInv s) : BoundsInv (unattendedRemoval s) := by
  simp (maxDischargeDepth := 12) [unattendedRemoval, h]

@[simp] theorem leaveRemoved_bounds (s : State) (h : BoundsInv s) : BoundsInv (leaveRemoved s) := by
  obtain ⟨h1, h2, h3, h4, h5, h6, h7, h8, h9, h10, h11, h12, h13⟩ := id h
  have := spansInv_map (f := fun r => if startsAt s.rounds.ctx.visitRecord r then { r with due := true } else r)
    (fun r => by split <;> rfl) h13
  unfold leaveRemoved
  dsimp only
  (repeat' split) <;> simp (maxDischargeDepth := 12) [*]

@[simp] theorem judgeRemoved_bounds (s : State) (h : BoundsInv s) : BoundsInv (judgeRemoved s) := by
  obtain ⟨h1, h2, h3, h4, h5, h6, h7, h8, h9, h10, h11, h12, h13⟩ := id h
  unfold judgeRemoved
  (repeat' split) <;> simp (maxDischargeDepth := 12) [*]

@[simp] theorem doorChange_bounds (s : State) (h : BoundsInv s) : BoundsInv (doorChange s) := by
  obtain ⟨h1, h2, h3, h4, h5, h6, h7, h8, h9, h10, h11, h12, h13⟩ := id h
  unfold doorChange
  (repeat' split) <;> simp (maxDischargeDepth := 12) [*]

@[simp] theorem boxChange_bounds (s : State) (h : BoundsInv s) : BoundsInv (boxChange s) := by
  obtain ⟨h1, h2, h3, h4, h5, h6, h7, h8, h9, h10, h11, h12, h13⟩ := id h
  unfold boxChange
  (repeat' split) <;> simp (maxDischargeDepth := 12) [*]

@[simp] theorem mapRecord_bounds (first : Nat) (last : Nat) (f : LogRec → LogRec) (s : State) (h : BoundsInv s)
    (hf : ∀ r, (f r).data = r.data) : BoundsInv (mapRecord first last f s) :=
  setLog_bounds _ h (by simpa using h.log) (spansInv_map (fun r => by split <;> simp [hf]) h.spans)

@[simp] theorem placeReports_bounds (s : State) (h : BoundsInv s) : BoundsInv (placeReports s) := by
  obtain ⟨h1, h2, h3, h4, h5, h6, h7, h8, h9, h10, h11, h12, h13⟩ := id h
  unfold placeReports
  (repeat' split) <;> simp (maxDischargeDepth := 12) [*]

@[simp] theorem releaseHeld_bounds (s : State) (h : BoundsInv s) : BoundsInv (releaseHeld s) :=
  setLog_bounds _ h (by simpa using h.log) (spansInv_map (fun _ => rfl) h.spans)

@[simp] theorem reportSent_bounds (first : Nat) (last : Nat) (s : State) (h : BoundsInv s) :
    BoundsInv (reportSent first last s) := by
  simp (maxDischargeDepth := 12) [reportSent, h]

@[simp] theorem reportDropped_bounds (first : Nat) (last : Nat) (s : State) (h : BoundsInv s) :
    BoundsInv (reportDropped first last s) := by
  simp (maxDischargeDepth := 12) [reportDropped, h]

@[simp] theorem takeAck_bounds (sender : Nat) (first : Nat) (last : Nat) (s : State) (h : BoundsInv s) :
    BoundsInv (takeAck sender first last s) := by
  unfold takeAck
  split
  · exact h
  · apply postEvent_bounds
    apply clearJournalFull_bounds
    exact ⟨h.tx, h.events, h.supply, h.journal, Nat.le_trans (List.length_filter_le _ _) h.log, h.sheet, h.peers, h.want,
      h.faults, h.usage, h.sections, h.draft, spansInv_filter first last h.spans⟩

@[simp] theorem sendAck_bounds (station : Nat) (d : CollectionData) (s : State) (h : BoundsInv s) :
    BoundsInv (sendAck station d s) := by
  simp (maxDischargeDepth := 12) [sendAck, h]

@[simp] theorem postReport_bounds (station : Nat) (d : CollectionData) (replaced : Bool) (s : State) (h : BoundsInv s) :
    BoundsInv (postReport station d replaced s) := by
  simp (maxDischargeDepth := 12) [postReport, h]

@[simp] theorem takeReport_bounds (station : Nat) (d : CollectionData) (s : State) (h : BoundsInv s) :
    BoundsInv (takeReport station d s) := by
  have h6 := h.sheet
  unfold takeReport
  (repeat' split)
  · exact h
  · exact sendAck_bounds _ _ _ (postReport_bounds _ _ _ _ (setSheet_bounds _ h (by simpa using h6)))
  · exact sendAck_bounds _ _ _ h
  · exact sendAck_bounds _ _ _ (postReport_bounds _ _ _ _ (setSheet_bounds _ h (by simp; omega)))
  · exact postEvent_bounds _ _ h

@[simp] theorem endSale_bounds (s : State) (h : BoundsInv s) : BoundsInv (endSale s) := by
  obtain ⟨h1, h2, h3, h4, h5, h6, h7, h8, h9, h10, h11, h12, h13⟩ := id h
  unfold endSale
  (repeat' split) <;> simp (maxDischargeDepth := 12) [*]

@[simp] theorem abandonSale_bounds (cause : AbandonCause) (s : State) (h : BoundsInv s) :
    BoundsInv (abandonSale cause s) := by
  obtain ⟨h1, h2, h3, h4, h5, h6, h7, h8, h9, h10, h11, h12, h13⟩ := id h
  unfold abandonSale
  (repeat' split) <;> simp (maxDischargeDepth := 12) [*]

@[simp] theorem quietLink_bounds (s : State) (h : BoundsInv s) : BoundsInv (quietLink s) := by
  obtain ⟨h1, h2, h3, h4, h5, h6, h7, h8, h9, h10, h11, h12, h13⟩ := id h; have : (keptFrames s.link.line s.link.tx).length ≤ 8 := by
    unfold keptFrames; split <;> simp
  unfold quietLink; simp [*]

@[simp] theorem enterDormant_bounds (s : State) (h : BoundsInv s) : BoundsInv (enterDormant s) := by
  obtain ⟨h1, h2, h3, h4, h5, h6, h7, h8, h9, h10, h11, h12, h13⟩ := id h
  unfold enterDormant
  (repeat' split) <;> simp (maxDischargeDepth := 12) [*]

@[simp] theorem setDormantDue_bounds (s : State) (h : BoundsInv s) : BoundsInv (setDormantDue s) := by
  obtain ⟨h1, h2, h3, h4, h5, h6, h7, h8, h9, h10, h11, h12, h13⟩ := id h
  unfold setDormantDue
  (repeat' split) <;> simp (maxDischargeDepth := 12) [*]

@[simp] theorem restartSilence_bounds (s : State) (h : BoundsInv s) : BoundsInv (restartSilence s) :=
  ⟨h.tx, h.events, h.supply, h.journal, h.log, h.sheet, map_peers (fun p => by split <;> rfl) h.peers, h.want,
    h.faults, h.usage, h.sections, h.draft, h.spans⟩

@[simp] theorem exitDormant_bounds (s : State) (h : BoundsInv s) : BoundsInv (exitDormant s) := by
  obtain ⟨h1, h2, h3, h4, h5, h6, h7, h8, h9, h10, h11, h12, h13⟩ := id h
  unfold exitDormant
  dsimp only
  have : BoundsInv (restartSilence { postEvent (.supplyLow (.restored (s.power.dormantSince.getD (s.clock.elapsed, none)).2 ((s.clock.elapsed - (s.power.dormantSince.getD (s.clock.elapsed, none)).1) / 1000))) s with power := exitPower (postEvent (.supplyLow (.restored (s.power.dormantSince.getD (s.clock.elapsed, none)).2 ((s.clock.elapsed - (s.power.dormantSince.getD (s.clock.elapsed, none)).1) / 1000))) s) ((s.power.dormantSince.getD (s.clock.elapsed, none)).2, (s.clock.elapsed - (s.power.dormantSince.getD (s.clock.elapsed, none)).1) / 1000) }) := by
    apply restartSilence_bounds; obtain ⟨g1, g2, g3, g4, g5, g6, g7, g8, g9, g10, g11, g12, g13⟩ := postEvent_bounds (.supplyLow (.restored (s.power.dormantSince.getD (s.clock.elapsed, none)).2 ((s.clock.elapsed - (s.power.dormantSince.getD (s.clock.elapsed, none)).1) / 1000))) s h; constructor <;> assumption
  obtain ⟨g1, g2, g3, g4, g5, g6, g7, g8, g9, g10, g11, g12, g13⟩ := this; constructor <;> assumption

@[simp] theorem wakeByButton_bounds (s : State) (h : BoundsInv s) : BoundsInv (wakeByButton s) := by
  obtain ⟨h1, h2, h3, h4, h5, h6, h7, h8, h9, h10, h11, h12, h13⟩ := id h
  unfold wakeByButton
  (repeat' split) <;> simp (maxDischargeDepth := 12) [*]

@[simp] theorem goListening_bounds (s : State) (h : BoundsInv s) : BoundsInv (goListening s) := by
  obtain ⟨h1, h2, h3, h4, h5, h6, h7, h8, h9, h10, h11, h12, h13⟩ := id h
  unfold goListening
  (repeat' split) <;> simp (maxDischargeDepth := 12) [*]

@[simp] theorem restEffect_bounds (s : State) (h : BoundsInv s) : BoundsInv (restEffect s) := by
  obtain ⟨h1, h2, h3, h4, h5, h6, h7, h8, h9, h10, h11, h12, h13⟩ := id h
  unfold restEffect
  (repeat' split) <;> simp (maxDischargeDepth := 12) [*]

@[simp] theorem resetPart_bounds (kind : ResetKind) (s : State) (h : BoundsInv s) : BoundsInv (resetPart kind s) :=
  ⟨Nat.zero_le _, ⟨Nat.zero_le _, fun g => by simp [resetPart, Port.afterReset] at g⟩, Nat.zero_le _, h.journal,
    by simpa [resetPart, Rounds.afterReset] using h.log, h.sheet, rfl, Nat.zero_le _, filter_faults _ h.faults,
    Nat.le_trans (List.length_filterMap_le _ _) h.usage, map_sections (fun _ => rfl) h.sections, draftInv_none,
    spansInv_map (fun _ => rfl) h.spans⟩

@[simp] theorem holdReceiver_bounds (s : State) (h : BoundsInv s) : BoundsInv (holdReceiver s) := by
  obtain ⟨h1, h2, h3, h4, h5, h6, h7, h8, h9, h10, h11, h12, h13⟩ := id h
  unfold holdReceiver
  (repeat' split) <;> simp (maxDischargeDepth := 12) [*]

@[simp] theorem refreshReceiver_bounds (s : State) (h : BoundsInv s) : BoundsInv (refreshReceiver s) := by
  obtain ⟨h1, h2, h3, h4, h5, h6, h7, h8, h9, h10, h11, h12, h13⟩ := id h
  unfold refreshReceiver
  (repeat' split) <;> simp (maxDischargeDepth := 12) [*]

@[simp] theorem settle_bounds (s : State) (h : BoundsInv s) : BoundsInv (settle s) := by
  simp (maxDischargeDepth := 12) [settle, h]

@[simp] theorem makeRollover_bounds (s : State) (h : BoundsInv s) : BoundsInv (makeRollover s) := by
  obtain ⟨h1, h2, h3, h4, h5, h6, h7, h8, h9, h10, h11, h12, h13⟩ := id h
  unfold makeRollover
  (repeat' split) <;> simp (maxDischargeDepth := 12) [*]

@[simp] theorem changeoverIfDue_bounds (s : State) (h : BoundsInv s) : BoundsInv (changeoverIfDue s) := by
  obtain ⟨h1, h2, h3, h4, h5, h6, h7, h8, h9, h10, h11, h12, h13⟩ := id h
  unfold changeoverIfDue
  (repeat' split) <;> simp (maxDischargeDepth := 12) [*]

@[simp] theorem moveZone_bounds (new : Nat) (s : State) (h : BoundsInv s) : BoundsInv (moveZone new s) := by
  obtain ⟨h1, h2, h3, h4, h5, h6, h7, h8, h9, h10, h11, h12, h13⟩ := id h
  unfold moveZone
  (repeat' split) <;> simp (maxDischargeDepth := 12) [*, newCycle]

@[simp] theorem setZone_bounds (new : Nat) (s : State) (h : BoundsInv s) : BoundsInv (setZone new s) := by
  simp (maxDischargeDepth := 12) [setZone, h]

@[simp] theorem postAdopted_bounds (sender : Nat) (outcome : AdoptOutcome) (step : Option Int) (s : State) (h : BoundsInv s) :
    BoundsInv (postAdopted sender outcome step s) := by
  simp (maxDischargeDepth := 12) [postAdopted, h]

@[simp] theorem judgeTime_bounds (sender : Nat) (receptionMs : Nat) (a : AnnounceBody) (s : State) (h : BoundsInv s) :
    BoundsInv (judgeTime sender receptionMs a s) := by
  obtain ⟨h1, h2, h3, h4, h5, h6, h7, h8, h9, h10, h11, h12, h13⟩ := id h
  unfold judgeTime
  dsimp only
  (repeat' split) <;> simp (maxDischargeDepth := 12) [*]

@[simp] theorem noticeSent_bounds (f : TxFrame) (s : State) (h : BoundsInv s) : BoundsInv (noticeSent f s) := by
  obtain ⟨h1, h2, h3, h4, h5, h6, h7, h8, h9, h10, h11, h12, h13⟩ := id h
  unfold noticeSent
  (repeat' split) <;> simp (maxDischargeDepth := 12) [*]

@[simp] theorem noticeDropped_bounds (f : TxFrame) (s : State) (h : BoundsInv s) : BoundsInv (noticeDropped f s) := by
  obtain ⟨h1, h2, h3, h4, h5, h6, h7, h8, h9, h10, h11, h12, h13⟩ := id h
  unfold noticeDropped
  (repeat' split) <;> simp (maxDischargeDepth := 12) [*]

@[simp] theorem startHead_bounds (s : State) (h : BoundsInv s) : BoundsInv (startHead s) := by
  simp (maxDischargeDepth := 12) [startHead, h]

@[simp] theorem dropHead_bounds (f : TxFrame) (s : State) (h : BoundsInv s) : BoundsInv (dropHead f s) := by
  simp (maxDischargeDepth := 12) [dropHead, h]

theorem headAttempt_length (a) (l : List TxFrame) : (headAttempt a l).length = l.length := by
  cases l <;> rfl

@[simp] theorem expireBackoff_bounds (s : State) (h : BoundsInv s) : BoundsInv (expireBackoff s) := by
  obtain ⟨h1, h2, h3, h4, h5, h6, h7, h8, h9, h10, h11, h12, h13⟩ := id h
  unfold expireBackoff
  (repeat' split) <;> simp_all [headAttempt_length]

@[simp] theorem endFrame_bounds (s : State) (h : BoundsInv s) : BoundsInv (endFrame s) := by
  unfold endFrame; split
  · exact h
  · exact noticeSent_bounds _ _ (takeUpChannel_bounds _ (popHead_bounds
      ⟨h.tx, h.events, h.supply, h.journal, h.log, h.sheet, h.peers, h.want, h.faults, h.usage, h.sections, h.draft, h.spans⟩))

@[simp] theorem sendAnnounce_bounds (zone : Nat) (s : State) (h : BoundsInv s) : BoundsInv (sendAnnounce zone s) := by
  obtain ⟨h1, h2, h3, h4, h5, h6, h7, h8, h9, h10, h11, h12, h13⟩ := id h
  unfold sendAnnounce
  dsimp only
  apply noteDue_bounds; apply setAccess_bounds; exact startTransmission_bounds _ _ h

@[simp] theorem ownSlot_bounds (zone : Nat) (s : State) (h : BoundsInv s) : BoundsInv (ownSlot zone s) := by
  obtain ⟨h1, h2, h3, h4, h5, h6, h7, h8, h9, h10, h11, h12, h13⟩ := id h
  unfold ownSlot
  (repeat' split) <;> simp (maxDischargeDepth := 12) [*]

@[simp] theorem endAnnounce_bounds (s : State) (h : BoundsInv s) : BoundsInv (endAnnounce s) := by
  obtain ⟨h1, h2, h3, h4, h5, h6, h7, h8, h9, h10, h11, h12, h13⟩ := id h
  unfold endAnnounce
  (repeat' split) <;> simp (maxDischargeDepth := 12) [*]

@[simp] theorem ownNumberHeard_bounds (s : State) (h : BoundsInv s) : BoundsInv (ownNumberHeard s) := by
  obtain ⟨h1, h2, h3, h4, h5, h6, h7, h8, h9, h10, h11, h12, h13⟩ := id h
  unfold ownNumberHeard
  (repeat' split) <;> simp (maxDischargeDepth := 12) [*]

@[simp] theorem noteAddressed_bounds (h : FrameHeader) (s : State) (hB : BoundsInv s) :
    BoundsInv (noteAddressed h s) := by
  obtain ⟨h1, h2, h3, h4, h5, h6, h7, h8, h9, h10, h11, h12, h13⟩ := id hB
  unfold noteAddressed; split; constructor <;> assumption; exact hB

@[simp] theorem noteHeard_bounds (n : Nat) (s : State) (h : BoundsInv s) : BoundsInv (noteHeard n s) :=
  ⟨h.tx, h.events, h.supply, h.journal, h.log, h.sheet, map_peers (fun p => by split <;> rfl) h.peers, h.want,
    h.faults, h.usage, h.sections, h.draft, h.spans⟩

@[simp] theorem trustFrame_bounds (h : FrameHeader) (body : FrameBody) (f : State → State) (s : State) (hB : BoundsInv s) (hf : ∀ t, BoundsInv t → BoundsInv (f t)) :
    BoundsInv (trustFrame h body f s) := by
  unfold trustFrame
  (repeat' split) <;> first | exact hB | exact hf _ (noteHeard_bounds _ _ hB) | exact noteHeard_bounds _ _ hB

/-- A frame that reaches the filters and passes them is from another station of the zone. -/
theorem passes_fits {h : FrameHeader} {body : FrameBody} {s : State} (hc : s.canReceive = true)
    (hf : filterStep s.zoneNo s.own h body = none) : peerFits s.port.setup h.sender := by
  simp only [State.canReceive, State.setupDone, Bool.and_eq_true] at hc
  obtain ⟨r, hr⟩ := Option.isSome_iff_exists.1 hc.1
  unfold filterStep at hf
  (repeat' split at hf) <;> simp_all [peerFits, State.own, stationOk]
  omega

theorem filterFrame_bounds (h : FrameHeader) (body : FrameBody) (accept : State → State) (s : State) (hB : BoundsInv s)
    (hf : ∀ t, BoundsInv t → peerFits t.port.setup h.sender → BoundsInv (accept t)) :
    BoundsInv (filterFrame h body accept s) := by
  unfold filterFrame
  split
  · rename_i hc
    split
    · exact ownNumberHeard_bounds _ hB
    · exact hB
    · rename_i hn
      split
      · refine hf _ (noteAddressed_bounds _ _ hB) ?_
        have : (noteAddressed h s).port = s.port := by unfold noteAddressed; split <;> rfl
        rw [this]
        exact passes_fits hc hn
      · exact noteAddressed_bounds _ _ hB
  · exact hB

@[simp] theorem onFrame_bounds (h : FrameHeader) (body : FrameBody) (f : State → State) (s : State) (hB : BoundsInv s) (hf : ∀ t, BoundsInv t → BoundsInv (f t)) :
    BoundsInv (onFrame h body f s) := by
  exact filterFrame_bounds _ _ _ _ hB (fun t ht _ => trustFrame_bounds _ _ _ _ ht hf)

@[simp] theorem atMachine_bounds (f : State → State) (s : State) (h : BoundsInv s) (hf : ∀ t, BoundsInv t → BoundsInv (f t)) :
    BoundsInv (atMachine f s) := by
  obtain ⟨h1, h2, h3, h4, h5, h6, h7, h8, h9, h10, h11, h12, h13⟩ := id h
  unfold atMachine
  (repeat' split) <;> simp (maxDischargeDepth := 12) [*]

@[simp] theorem putWaiting_bounds (r : Received) (s : State) (h : BoundsInv s) : BoundsInv (putWaiting r s) := by
  obtain ⟨h1, h2, h3, h4, h5, h6, h7, h8, h9, h10, h11, h12, h13⟩ := id h
  unfold putWaiting
  split <;> simp [*]

@[simp] theorem frameComplete_bounds (bytes : List Byte) (start : Nat) (s : State) (h : BoundsInv s) :
    BoundsInv (frameComplete bytes start s) := by
  obtain ⟨h1, h2, h3, h4, h5, h6, h7, h8, h9, h10, h11, h12, h13⟩ := id h
  unfold frameComplete
  (repeat' split) <;> simp (maxDischargeDepth := 12) [*]

@[simp] theorem collectByte_bounds (bytes : List Byte) (start : Nat) (stopOk : Bool) (s : State) (h : BoundsInv s) :
    BoundsInv (collectByte bytes start stopOk s) := by
  obtain ⟨h1, h2, h3, h4, h5, h6, h7, h8, h9, h10, h11, h12, h13⟩ := id h
  unfold collectByte
  (repeat' split) <;> simp (maxDischargeDepth := 12) [*]

@[simp] theorem takeByte_bounds (b : Byte) (stopOk : Bool) (s : State) (h : BoundsInv s) :
    BoundsInv (takeByte b stopOk s) := by
  obtain ⟨h1, h2, h3, h4, h5, h6, h7, h8, h9, h10, h11, h12, h13⟩ := id h
  unfold takeByte
  (repeat' split) <;> simp (maxDischargeDepth := 12) [*]

@[simp] theorem refuse_bounds (st : Status) (s : State) (h : BoundsInv s) : BoundsInv (refuse st s).2.2 := by
  simp (maxDischargeDepth := 12) [refuse, h]

@[simp] theorem okay_bounds (r : Result) (s : State) (h : BoundsInv s) : BoundsInv (okay r s).2.2 := by
  simp (maxDischargeDepth := 12) [okay, h]

@[simp] theorem onWrite_bounds (judge : State → State) (s : State) (h : BoundsInv s) (hf : ∀ t, BoundsInv t → BoundsInv (judge t)) :
    BoundsInv (onWrite judge s) := by
  obtain ⟨h1, h2, h3, h4, h5, h6, h7, h8, h9, h10, h11, h12, h13⟩ := id h
  unfold onWrite
  (repeat' split) <;> simp (maxDischargeDepth := 12) [*]

@[simp] theorem guarded_bounds (roles : State → Bool) (body : State → Answer) (s : State) (h : BoundsInv s) (hf : ∀ t, BoundsInv t → BoundsInv (body t).2.2) :
    BoundsInv (guarded roles body s).2.2 := by
  obtain ⟨h1, h2, h3, h4, h5, h6, h7, h8, h9, h10, h11, h12, h13⟩ := id h
  unfold guarded
  (repeat' split) <;> simp (maxDischargeDepth := 12) [*]

@[simp] theorem placed_bounds (dest : Nat) (body : FrameBody) (s : State) (h : BoundsInv s) :
    BoundsInv (placed dest body s).2.2 := by
  simp (maxDischargeDepth := 12) [placed, h]

@[simp] theorem changeHome_bounds (home : Nat × Nat) (s : State) (h : BoundsInv s) :
    BoundsInv (changeHome home s) := by
  obtain ⟨h1, h2, h3, h4, h5, h6, h7, h8, h9, h10, h11, h12, h13⟩ := id h
  have : SectionsInv (List.replicate 8 PermitSection.never) := by
    intro p hp
    simp [List.eq_of_mem_replicate hp, PermitSection.never]
  have hu := removeContribs_length s.own (fun _ => true) h10
  unfold changeHome
  constructor <;> simp_all [filter_faults]

theorem setupRecord_station {p : SetupParams} {r : SetupRecord} (h : setupRecord p = some r) :
    1 ≤ r.station ∧ r.station ≤ 32 := by
  unfold setupRecord at h
  (repeat' split at h) <;> simp at h
  rename_i g
  simp only [Bool.and_eq_true, stationOk, decide_eq_true_eq] at g
  rw [← h]
  simp only
  omega

/-- Before Setup no peer is known, and the record of a SETUP names a station. -/
theorem setup_peers {s : State} {p : SetupParams} {r : SetupRecord} (h : BoundsInv s) (hs : s.port.setup = none)
    (hr : setupRecord p = some r) : PeersInv (some r) s.link.peers := by
  have hp := h.peers
  rw [hs] at hp
  rw [show s.link.peers = [] from hp]
  exact ⟨setupRecord_station hr, by simp, by simp, by simp⟩

@[simp] theorem senseSetup_bounds (s : State) (h : BoundsInv s) : BoundsInv (senseSetup s) := by
  obtain ⟨h1, h2, h3, h4, h5, h6, h7, h8, h9, h10, h11, h12, h13⟩ := id h
  unfold senseSetup
  (repeat' split) <;> simp (maxDischargeDepth := 12) [*]

@[simp] theorem permitSetup_bounds (s : State) (h : BoundsInv s) : BoundsInv (permitSetup s) := by
  obtain ⟨h1, h2, h3, h4, h5, h6, h7, h8, h9, h10, h11, h12, h13⟩ := id h
  unfold permitSetup
  (repeat' split) <;> simp (maxDischargeDepth := 12) [*]

@[simp] theorem roundSetup_bounds (s : State) (h : BoundsInv s) : BoundsInv (roundSetup s) := by
  obtain ⟨h1, h2, h3, h4, h5, h6, h7, h8, h9, h10, h11, h12, h13⟩ := id h
  unfold roundSetup
  dsimp only
  (repeat' split) <;> simp (maxDischargeDepth := 12) [*]

@[simp] theorem completeSetup_bounds (s : State) (h : BoundsInv s) : BoundsInv (completeSetup s) := by
  simp (maxDischargeDepth := 12) [completeSetup, h]

@[simp] theorem carryOutSetup_bounds (r : SetupRecord) (s : State) (h : BoundsInv s)
    (hp : PeersInv (some r) s.link.peers) : BoundsInv (carryOutSetup r s) := by
  unfold carryOutSetup
  dsimp only
  apply completeSetup_bounds
  split
  · exact setPort_bounds _ h h.events hp
  · refine setPort_bounds _ (changeHome_bounds _ _ h) h.events ?_
    simpa [changeHome] using hp

@[simp] theorem readOut_bounds (whole : Bool) (s : State) (h : BoundsInv s) : BoundsInv (readOut whole s) := by
  obtain ⟨h1, h2, h3, h4, h5, h6, h7, h8, h9, h10, h11, h12, h13⟩ := id h
  unfold readOut
  (repeat' split) <;> simp (maxDischargeDepth := 12) [*]

@[simp] theorem answerBadFrame_bounds (s : State) (h : BoundsInv s) : BoundsInv (answerBadFrame s) := by
  obtain ⟨h1, h2, h3, h4, h5, h6, h7, h8, h9, h10, h11, h12, h13⟩ := id h
  unfold answerBadFrame; apply respond_bounds; exact setPort_bounds _ h h2 h7

@[simp] theorem readStatusBody_bounds (s : State) (h : BoundsInv s) : BoundsInv (readStatusBody s).2.2 := by
  obtain ⟨h1, h2, h3, h4, h5, h6, h7, h8, h9, h10, h11, h12, h13⟩ := id h
  unfold readStatusBody
  (repeat' split) <;> simp (maxDischargeDepth := 12) [*]

@[simp] theorem setupBody_bounds (p : SetupParams) (s : State) (h : BoundsInv s) : BoundsInv (setupBody p s).2.2 := by
  unfold setupBody
  split
  · exact h
  · rename_i hs
    have hn : s.port.setup = none := by simpa [State.setupDone] using hs
    cases hr : setupRecord p with
    | none => exact h
    | some r => exact okay_bounds _ _ (carryOutSetup_bounds _ _ h (setup_peers h hn hr))

@[simp] theorem readEventBody_bounds (s : State) (h : BoundsInv s) : BoundsInv (readEventBody s).2.2 := by
  obtain ⟨h1, h2, h3, h4, h5, h6, h7, h8, h9, h10, h11, h12, h13⟩ := id h
  unfold readEventBody
  split
  · exact h
  · rename_i e rest hq
    refine setPort_bounds _ h ?_ h7
    simp only [EventsInv, hq, List.length_cons] at h2 ⊢
    exact ⟨by omega, fun hh => by omega⟩

@[simp] theorem setAssetTagBody_bounds (tag : List Byte) (s : State) (h : BoundsInv s) :
    BoundsInv (setAssetTagBody tag s).2.2 := by
  obtain ⟨h1, h2, h3, h4, h5, h6, h7, h8, h9, h10, h11, h12, h13⟩ := id h
  unfold setAssetTagBody
  (repeat' split) <;> simp (maxDischargeDepth := 12) [*]

@[simp] theorem setTimeBody_bounds (seconds : Nat) (s : State) (h : BoundsInv s) :
    BoundsInv (setTimeBody seconds s).2.2 := by
  obtain ⟨h1, h2, h3, h4, h5, h6, h7, h8, h9, h10, h11, h12, h13⟩ := id h
  unfold setTimeBody
  (repeat' split) <;> simp (maxDischargeDepth := 12) [*]

@[simp] theorem giveMark_bounds (m : Mark) (f : State → State) (s : State) (h : BoundsInv s) (hf : ∀ t, BoundsInv t → BoundsInv (f t)) :
    BoundsInv (giveMark m f s) := by
  obtain ⟨h1, h2, h3, h4, h5, h6, h7, h8, h9, h10, h11, h12, h13⟩ := id h
  unfold giveMark
  (repeat' split) <;> simp (maxDischargeDepth := 12) [*]

@[simp] theorem cycleStart_bounds (s : State) (h : BoundsInv s) : BoundsInv (cycleStart s) := by
  obtain ⟨h1, h2, h3, h4, h5, h6, h7, h8, h9, h10, h11, h12, h13⟩ := id h
  unfold cycleStart
  (repeat' split) <;> simp (maxDischargeDepth := 12) [*, newCycle]

@[simp] theorem exchangeStart_bounds (s : State) (h : BoundsInv s) : BoundsInv (exchangeStart s) := by
  obtain ⟨h1, h2, h3, h4, h5, h6, h7, h8, h9, h10, h11, h12, h13⟩ := id h
  unfold exchangeStart; apply releaseHeld_bounds; apply retryPlacements_bounds
  constructor <;> simp_all; split <;> simp_all [headAttempt_length]

@[simp] theorem readPeerBody_bounds (station : Nat) (s : State) (h : BoundsInv s) :
    BoundsInv (readPeerBody station s).2.2 := by
  obtain ⟨h1, h2, h3, h4, h5, h6, h7, h8, h9, h10, h11, h12, h13⟩ := id h
  unfold readPeerBody
  (repeat' split) <;> simp (maxDischargeDepth := 12) [*]

@[simp] theorem discardFrame_bounds (bytes : List Byte) (s : State) (h : BoundsInv s) :
    BoundsInv (discardFrame bytes s) := by
  obtain ⟨h1, h2, h3, h4, h5, h6, h7, h8, h9, h10, h11, h12, h13⟩ := id h
  unfold discardFrame
  (repeat' split) <;> simp (maxDischargeDepth := 12) [*]

@[simp] theorem takeEntry_bounds (sender : Nat) (a : AnnounceBody) (s : State) (h : BoundsInv s)
    (hn : peerFits s.port.setup sender) : BoundsInv (takeEntry sender a s) := by
  obtain ⟨h1, h2, h3, h4, h5, h6, h7, h8, h9, h10, h11, h12, h13⟩ := id h
  have := fun old => insertPeer_inv (e := announcedEntry sender s.clock.elapsed a old) h7 hn
  unfold takeEntry
  dsimp only
  (repeat' split) <;> simp (maxDischargeDepth := 12) [*]

@[simp] theorem noteWindow_bounds (sender : Nat) (s : State) (h : BoundsInv s) : BoundsInv (noteWindow sender s) := by
  obtain ⟨h1, h2, h3, h4, h5, h6, h7, h8, h9, h10, h11, h12, h13⟩ := id h
  unfold noteWindow
  (repeat' split) <;> simp (maxDischargeDepth := 12) [*]

@[simp] theorem permitAnnounceNotice_bounds (s : State) (h : BoundsInv s) : BoundsInv (permitAnnounceNotice s) := by
  simp (maxDischargeDepth := 12) [permitAnnounceNotice, h]

@[simp] theorem takeAnnounce_bounds (sender : Nat) (receptionMs : Nat) (a : AnnounceBody) (s : State) (h : BoundsInv s)
    (hn : peerFits s.port.setup sender) : BoundsInv (takeAnnounce sender receptionMs a s) := by
  simp (maxDischargeDepth := 12) [takeAnnounce, h, hn]

@[simp] theorem makeSilent_bounds (station : Nat) (s : State) (h : BoundsInv s) : BoundsInv (makeSilent station s) :=
  ⟨h.tx, h.events, h.supply, h.journal, h.log, h.sheet, map_peers (fun p => by split <;> rfl) h.peers, h.want,
    h.faults, h.usage, h.sections, h.draft, h.spans⟩

@[simp] theorem mediumIdleOp_bounds (s : State) (h : BoundsInv s) : BoundsInv (mediumIdleOp s) := by
  obtain ⟨h1, h2, h3, h4, h5, h6, h7, h8, h9, h10, h11, h12, h13⟩ := id h
  unfold mediumIdleOp
  dsimp only
  (repeat' split) <;> simp (maxDischargeDepth := 12) [*]

@[simp] theorem readReplicationBody_bounds (s : State) (h : BoundsInv s) : BoundsInv (readReplicationBody s).2.2 := by
  simp (maxDischargeDepth := 12) [readReplicationBody, h]

@[simp] theorem takeRequest_bounds (sender : Nat) (r : RequestBody) (s : State) (h : BoundsInv s) :
    BoundsInv (takeRequest sender r s) := by
  obtain ⟨h1, h2, h3, h4, h5, h6, h7, h8, h9, h10, h11, h12, h13⟩ := id h
  unfold takeRequest
  (repeat' split) <;> simp (maxDischargeDepth := 12) [*]

@[simp] theorem judgeFragment_bounds (sender : Nat) (f : FragmentBody) (s : State) (h : BoundsInv s) :
    BoundsInv (judgeFragment sender f s) := by
  obtain ⟨h1, h2, h3, h4, h5, h6, h7, h8, h9, h10, h11, h12, h13⟩ := id h
  unfold judgeFragment
  (repeat' split) <;> simp (maxDischargeDepth := 12) [*]

@[simp] theorem takeNotHeld_bounds (sender : Nat) (obj : ImageObj) (key : Key) (s : State) (h : BoundsInv s) :
    BoundsInv (takeNotHeld sender obj key s) := by
  obtain ⟨h1, h2, h3, h4, h5, h6, h7, h8, h9, h10, h11, h12, h13⟩ := id h
  unfold takeNotHeld
  (repeat' split) <;> simp (maxDischargeDepth := 12) [*]

@[simp] theorem takeSuperseded_bounds (sender : Nat) (obj : ImageObj) (key : Key) (s : State) (h : BoundsInv s) :
    BoundsInv (takeSuperseded sender obj key s) := by
  obtain ⟨h1, h2, h3, h4, h5, h6, h7, h8, h9, h10, h11, h12, h13⟩ := id h
  unfold takeSuperseded
  (repeat' split) <;> simp (maxDischargeDepth := 12) [*]

@[simp] theorem readTariffBody_bounds (slot : Option TariffSlot) (part : Option TariffPart) (index : Nat) (s : State) (h : BoundsInv s) :
    BoundsInv (readTariffBody slot part index s).2.2 := by
  obtain ⟨h1, h2, h3, h4, h5, h6, h7, h8, h9, h10, h11, h12, h13⟩ := id h
  unfold readTariffBody
  (repeat' split) <;> simp (maxDischargeDepth := 12) [*]

@[simp] theorem beginFrom_bounds (t : Option TariffSet) (s : State) (h : BoundsInv s) :
    BoundsInv (beginFrom t s).2.2 := by
  obtain ⟨h1, h2, h3, h4, h5, h6, h7, h8, h9, h10, h11, h12, h13⟩ := id h
  unfold beginFrom
  (repeat' split) <;> simp (maxDischargeDepth := 12) [*]

@[simp] theorem draftBeginBody_bounds (source : Option DraftSource) (s : State) (h : BoundsInv s) :
    BoundsInv (draftBeginBody source s).2.2 := by
  obtain ⟨h1, h2, h3, h4, h5, h6, h7, h8, h9, h10, h11, h12, h13⟩ := id h
  unfold draftBeginBody
  (repeat' split) <;> simp (maxDischargeDepth := 12) [*]

@[simp] theorem withDraft_bounds (body : Draft → State → Answer) (s : State) (h : BoundsInv s) (hf : ∀ r t, BoundsInv t → BoundsInv (body r t).2.2) :
    BoundsInv (withDraft body s).2.2 := by
  obtain ⟨h1, h2, h3, h4, h5, h6, h7, h8, h9, h10, h11, h12, h13⟩ := id h
  unfold withDraft
  (repeat' split) <;> simp (maxDischargeDepth := 12) [*]

@[simp] theorem draftSelectBody_bounds (part : Option TariffPart) (d : Draft) (s : State) (h : BoundsInv s) :
    BoundsInv (draftSelectBody part d s).2.2 := by
  obtain ⟨h1, h2, h3, h4, h5, h6, h7, h8, h9, h10, h11, h12, h13⟩ := id h
  unfold draftSelectBody
  (repeat' split) <;> simp (maxDischargeDepth := 12) [*]

@[simp] theorem draftWriteBody_bounds (entry : List Byte) (d : Draft) (s : State) (h : BoundsInv s) :
    BoundsInv (draftWriteBody entry d s).2.2 := by
  obtain ⟨h1, h2, h3, h4, h5, h6, h7, h8, h9, h10, h11, h12, h13⟩ := id h
  unfold draftWriteBody
  (repeat' split) <;> simp (maxDischargeDepth := 12) [*]

@[simp] theorem draftReadBody_bounds (d : Draft) (s : State) (h : BoundsInv s) :
    BoundsInv (draftReadBody d s).2.2 := by
  simp (maxDischargeDepth := 12) [draftReadBody, h]

@[simp] theorem publish_bounds (effectiveFrom : Nat) (zoneSec : Nat) (d : Draft) (s : State) (h : BoundsInv s) :
    BoundsInv (publish effectiveFrom zoneSec d s).2.2 := by
  simp (maxDischargeDepth := 12) [publish, h]

@[simp] theorem publishBody_bounds (effectiveFrom : Nat) (d : Draft) (s : State) (h : BoundsInv s) :
    BoundsInv (publishBody effectiveFrom d s).2.2 := by
  obtain ⟨h1, h2, h3, h4, h5, h6, h7, h8, h9, h10, h11, h12, h13⟩ := id h
  unfold publishBody
  (repeat' split) <;> simp (maxDischargeDepth := 12) [*]

@[simp] theorem quoteAnswer_bounds (o : QuoteOutcome) (s : State) (h : BoundsInv s) :
    BoundsInv (quoteAnswer o s).2.2 := by
  obtain ⟨h1, h2, h3, h4, h5, h6, h7, h8, h9, h10, h11, h12, h13⟩ := id h
  unfold quoteAnswer
  (repeat' split) <;> simp (maxDischargeDepth := 12) [*]

@[simp] theorem quoteBody_bounds (mode : Option QuoteMode) (value : Nat) (cls : ClassParam) (s : State) (h : BoundsInv s) :
    BoundsInv (quoteBody mode value cls s).2.2 := by
  obtain ⟨h1, h2, h3, h4, h5, h6, h7, h8, h9, h10, h11, h12, h13⟩ := id h
  unfold quoteBody
  (repeat' split) <;> simp (maxDischargeDepth := 12) [*]

@[simp] theorem onSale_bounds (body : Sale → State → Answer) (s : State) (h : BoundsInv s) (hf : ∀ r t, BoundsInv t → BoundsInv (body r t).2.2) :
    BoundsInv (onSale body s).2.2 := by
  obtain ⟨h1, h2, h3, h4, h5, h6, h7, h8, h9, h10, h11, h12, h13⟩ := id h
  unfold onSale
  (repeat' split) <;> simp (maxDischargeDepth := 12) [*]

@[simp] theorem taken_bounds (r : Sale) (s : State) (h : BoundsInv s) : BoundsInv (taken r s).2.2 := by
  simp (maxDischargeDepth := 12) [taken, h]

@[simp] theorem openSale_bounds (pin : Key) (s : State) (h : BoundsInv s) : BoundsInv (openSale pin s).2.2 := by
  obtain ⟨h1, h2, h3, h4, h5, h6, h7, h8, h9, h10, h11, h12, h13⟩ := id h
  unfold openSale
  (repeat' split) <;> simp (maxDischargeDepth := 12) [*]

@[simp] theorem saleOpenBody_bounds (s : State) (h : BoundsInv s) : BoundsInv (saleOpenBody s).2.2 := by
  obtain ⟨h1, h2, h3, h4, h5, h6, h7, h8, h9, h10, h11, h12, h13⟩ := id h
  unfold saleOpenBody
  (repeat' split) <;> simp (maxDischargeDepth := 12) [*]

@[simp] theorem refuseBoxFull_bounds (s : State) (h : BoundsInv s) : BoundsInv (refuseBoxFull s).2.2 := by
  simp (maxDischargeDepth := 12) [refuseBoxFull, h]

@[simp] theorem saleCoinBody_bounds (index : Nat) (r : Sale) (s : State) (h : BoundsInv s) :
    BoundsInv (saleCoinBody index r s).2.2 := by
  obtain ⟨h1, h2, h3, h4, h5, h6, h7, h8, h9, h10, h11, h12, h13⟩ := id h
  unfold saleCoinBody
  (repeat' split) <;> simp (maxDischargeDepth := 12) [*]

@[simp] theorem saleCardBody_bounds (amount : Nat) (r : Sale) (s : State) (h : BoundsInv s) :
    BoundsInv (saleCardBody amount r s).2.2 := by
  obtain ⟨h1, h2, h3, h4, h5, h6, h7, h8, h9, h10, h11, h12, h13⟩ := id h
  unfold saleCardBody
  (repeat' split) <;> simp (maxDischargeDepth := 12) [*]

@[simp] theorem takenPermit_bounds (check : CheckResult) (r : Sale) (s : State) (h : BoundsInv s) :
    BoundsInv (takenPermit check r s).2.2 := by
  simp (maxDischargeDepth := 12) [takenPermit, h]

@[simp] theorem applyPermit_bounds (p : PermitRec) (check : CheckResult) (treat : ClassEntry) (r : Sale) (s : State) (h : BoundsInv s) :
    BoundsInv (applyPermit p check treat r s).2.2 := by
  obtain ⟨h1, h2, h3, h4, h5, h6, h7, h8, h9, h10, h11, h12, h13⟩ := id h
  unfold applyPermit
  (repeat' split) <;> simp (maxDischargeDepth := 12) [*]

@[simp] theorem salePermitBody_bounds (number : Nat) (r : Sale) (s : State) (h : BoundsInv s) :
    BoundsInv (salePermitBody number r s).2.2 := by
  obtain ⟨h1, h2, h3, h4, h5, h6, h7, h8, h9, h10, h11, h12, h13⟩ := id h
  unfold salePermitBody
  (repeat' split) <;> simp (maxDischargeDepth := 12) [*]

@[simp] theorem saleDurationBody_bounds (minutes : Nat) (r : Sale) (s : State) (h : BoundsInv s) :
    BoundsInv (saleDurationBody minutes r s).2.2 := by
  obtain ⟨h1, h2, h3, h4, h5, h6, h7, h8, h9, h10, h11, h12, h13⟩ := id h
  unfold saleDurationBody
  (repeat' split) <;> simp (maxDischargeDepth := 12) [*]

theorem commitUsage_bounds (zoneSec : Nat) (r : Sale) (q : QuoteResult) (s : State) (h : BoundsInv s)
    (hp : ∀ p, r.permit = some p → saleKind r = .allowanceUse → hasUsagePlace p.number (zoneSec / 86400) s) :
    BoundsInv (commitUsage zoneSec r q s) := by
  unfold commitUsage
  split
  · rename_i p m hr hg
    refine addOwnUsage_bounds _ _ _ _ h (hp p hr ?_)
    unfold grantedOf at hg
    split at hg
    · rename_i hk; simpa using hk
    · simp at hg
  · exact h

theorem postFault_permits (e : FaultEntry) (cause : FaultCause) (after : Option FaultEntry) (s : State) :
    (postFault e cause after s).permits = s.permits := by
  unfold postFault
  split <;> rfl

theorem changeOwn_permits (e : FaultEntry) (cause : FaultCause) (s : State) :
    (changeOwn e cause s).permits = s.permits := by
  unfold changeOwn place
  dsimp only
  split <;> simp [postFault_permits]

theorem makeRoom_permits {b : Bool} {s t : State} (h : makeRoom b s = some t) : t.permits = s.permits := by
  unfold makeRoom at h
  split at h
  · cases h; rfl
  · obtain ⟨e, _, he⟩ := Option.map_eq_some_iff.1 h
    rw [← he, evict, postFault_permits]

theorem raiseFault_permits (kind : FaultKind) (subject : Nat) (s : State) :
    (raiseFault kind subject s).permits = s.permits := by
  unfold raiseFault tryRaise
  split
  · cases hr : makeRoom true s with
    | none => rfl
    | some t => simp [changeOwn_permits, makeRoom_permits hr]
  · split <;> simp [changeOwn_permits]

theorem takeOffer_permits (j : JournalRec) (escrow : List Nat) (s : State) : (takeOffer j escrow s).permits = s.permits := by
  unfold takeOffer raiseBoxFull
  dsimp only
  split <;> simp [raiseFault_permits]

/-- A commit that the permit store does not refuse finds a place for its usage entry. -/
theorem usage_place {zoneSec : Nat} {r : Sale} {s : State} (h : usageRefused zoneSec r s = false) {p : AppliedPermit}
    (hp : r.permit = some p) (hk : saleKind r = .allowanceUse) : hasUsagePlace p.number (zoneSec / 86400) s := by
  have ha : p.treat.kind = .allowance := by
    simp only [saleKind, hp] at hk
    split at hk <;> simp_all
  simp only [usageRefused, hp, ha, State.usageBlocked] at h
  unfold hasUsagePlace
  cases hu : s.usageOf p.number (zoneSec / 86400) with
  | none =>
    simp [hu] at h
    exact Or.inl (by omega)
  | some e => simp

theorem commitSale_bounds (zoneSec : Nat) (r : Sale) (q : QuoteResult) (s : State) (h : BoundsInv s)
    (hu : usageRefused zoneSec r s = false) : BoundsInv (commitSale zoneSec r q s).2.2 := by
  refine okay_bounds _ _ (endSale_bounds _ (commitUsage_bounds _ _ _ _ (takeOffer_bounds _ _ _ h) fun p hp hk => ?_))
  have := usage_place hu hp hk
  simpa only [hasUsagePlace, State.usageOf, takeOffer_permits] using this

@[simp] theorem judgeCommit_bounds (zoneSec : Nat) (r : Sale) (s : State) (h : BoundsInv s) :
    BoundsInv (judgeCommit zoneSec r s).2.2 := by
  unfold judgeCommit
  split
  · exact h
  · exact h
  · exact h
  · exact h
  · exact h
  · split
    · exact h
    · split
      · exact h
      · rename_i hu
        split
        · exact raiseJournalFull_bounds _ h
        · exact commitSale_bounds _ _ _ _ h (by simpa using hu)

@[simp] theorem saleCommitBody_bounds (r : Sale) (s : State) (h : BoundsInv s) :
    BoundsInv (saleCommitBody r s).2.2 := by
  simp (maxDischargeDepth := 12) [saleCommitBody, h]

@[simp] theorem saleCancelBody_bounds (r : Sale) (s : State) (h : BoundsInv s) :
    BoundsInv (saleCancelBody r s).2.2 := by
  simp (maxDischargeDepth := 12) [saleCancelBody, h]

@[simp] theorem readTallyBody_bounds (s : State) (h : BoundsInv s) : BoundsInv (readTallyBody s).2.2 := by
  simp (maxDischargeDepth := 12) [readTallyBody, h]

@[simp] theorem readJournalBody_bounds (q : Nat) (s : State) (h : BoundsInv s) :
    BoundsInv (readJournalBody q s).2.2 := by
  obtain ⟨h1, h2, h3, h4, h5, h6, h7, h8, h9, h10, h11, h12, h13⟩ := id h
  unfold readJournalBody
  (repeat' split) <;> simp (maxDischargeDepth := 12) [*]

@[simp] theorem checkPermitBody_bounds (number : Nat) (s : State) (h : BoundsInv s) :
    BoundsInv (checkPermitBody number s).2.2 := by
  obtain ⟨h1, h2, h3, h4, h5, h6, h7, h8, h9, h10, h11, h12, h13⟩ := id h
  unfold checkPermitBody
  (repeat' split) <;> simp (maxDischargeDepth := 12) [*]

@[simp] theorem amendSection_bounds (i : Nat) (c : AmendChange) (s : State) (h : BoundsInv s) :
    BoundsInv (amendSection i c s).2.2 := by
  unfold amendSection
  (repeat' split) <;> first
    | exact h
    | (rename_i p hp
       exact okay_bounds _ _ (amendOwn_bounds _ _ _ _ _ h (applyChange_records hp (sectionAt_records h.sections i))))

@[simp] theorem amendPermitBody_bounds (op : AmendParam) (s : State) (h : BoundsInv s) :
    BoundsInv (amendPermitBody op s).2.2 := by
  obtain ⟨h1, h2, h3, h4, h5, h6, h7, h8, h9, h10, h11, h12, h13⟩ := id h
  unfold amendPermitBody
  (repeat' split) <;> simp (maxDischargeDepth := 12) [*]

@[simp] theorem closeSectionBody_bounds (i : Nat) (s : State) (h : BoundsInv s) :
    BoundsInv (closeSectionBody i s).2.2 := by
  obtain ⟨h1, h2, h3, h4, h5, h6, h7, h8, h9, h10, h11, h12, h13⟩ := id h
  unfold closeSectionBody
  (repeat' split) <;> simp (maxDischargeDepth := 12) [*]

@[simp] theorem loadBeginBody_bounds (i : Nat) (s : State) (h : BoundsInv s) : BoundsInv (loadBeginBody i s).2.2 := by
  obtain ⟨h1, h2, h3, h4, h5, h6, h7, h8, h9, h10, h11, h12, h13⟩ := id h
  unfold loadBeginBody
  (repeat' split) <;> simp (maxDischargeDepth := 12) [*]

@[simp] theorem loadRecordBody_bounds (bs : List Byte) (s : State) (h : BoundsInv s) :
    BoundsInv (loadRecordBody bs s).2.2 := by
  unfold loadRecordBody
  split
  · exact h
  · rename_i d hd
    cases hr : (permitOf bs).filter (loadFits d) with
    | none => exact h
    | some r =>
      have hf : loadFits d r = true := (Option.filter_eq_some_iff.1 hr).2
      simp only [loadFits, Bool.and_eq_true, decide_eq_true_eq] at hf
      exact okay_bounds _ _ (setSectionDraft_bounds _ h (draftInv_some (append_records (h.draft d hd) hf.2 hf.1.2)))

@[simp] theorem loadEndBody_bounds (closed : Bool) (s : State) (h : BoundsInv s) :
    BoundsInv (loadEndBody closed s).2.2 := by
  unfold loadEndBody
  split
  · exact h
  · rename_i d hd
    split
    · exact h
    · exact okay_bounds _ _ (sectionNotice_bounds _ _
        (writeSection_bounds _ _ _ _ _ (setSectionDraft_bounds _ h draftInv_none) (h.draft d hd)))

@[simp] theorem readSectionBody_bounds (i : Nat) (number : Nat) (s : State) (h : BoundsInv s) :
    BoundsInv (readSectionBody i number s).2.2 := by
  obtain ⟨h1, h2, h3, h4, h5, h6, h7, h8, h9, h10, h11, h12, h13⟩ := id h
  unfold readSectionBody
  (repeat' split) <;> simp (maxDischargeDepth := 12) [*]

@[simp] theorem readUsageBody_bounds (number : Nat) (s : State) (h : BoundsInv s) :
    BoundsInv (readUsageBody number s).2.2 := by
  obtain ⟨h1, h2, h3, h4, h5, h6, h7, h8, h9, h10, h11, h12, h13⟩ := id h
  unfold readUsageBody
  (repeat' split) <;> simp (maxDischargeDepth := 12) [*]

@[simp] theorem moveUsagePos_bounds (old new : UsagePos) (s : State) (h : BoundsInv s) :
    BoundsInv (moveUsagePos old new s) := by
  unfold moveUsagePos; split <;> simp [h]

@[simp] theorem takeUsage_bounds (sender : Nat) (u : UsageBody) (s : State) (h : BoundsInv s) :
    BoundsInv (takeUsage sender u s) := by
  unfold takeUsage; split
  · exact moveUsagePos_bounds _ _ _ (foldl_inv _ (fun t x ht => by simp [ht]) _ _ h)
  · simp [h]

@[simp] theorem passStale_bounds (i : Nat) (s : State) (h : BoundsInv s) : BoundsInv (passStale i s) := by
  have := sectionAt_records h.sections i
  unfold passStale
  (repeat' split) <;> simp (maxDischargeDepth := 12) [*]

@[simp] theorem closeOwnRound_bounds (s : State) (h : BoundsInv s) : BoundsInv (closeOwnRound s) := by
  simp (maxDischargeDepth := 12) [closeOwnRound, h]

@[simp] theorem newRound_bounds (opened : Option Nat) (s : State) (h : BoundsInv s) :
    BoundsInv (newRound opened s) := by
  obtain ⟨h1, h2, h3, h4, h5, h6, h7, h8, h9, h10, h11, h12, h13⟩ := id h
  unfold newRound
  (repeat' split) <;> simp (maxDischargeDepth := 12) [*]

@[simp] theorem roundOpenBody_bounds (s : State) (h : BoundsInv s) : BoundsInv (roundOpenBody s).2.2 := by
  obtain ⟨h1, h2, h3, h4, h5, h6, h7, h8, h9, h10, h11, h12, h13⟩ := id h
  unfold roundOpenBody
  (repeat' split) <;> simp (maxDischargeDepth := 12) [*]

@[simp] theorem roundVisitBody_bounds (station : Nat) (s : State) (h : BoundsInv s) :
    BoundsInv (roundVisitBody station s).2.2 := by
  obtain ⟨h1, h2, h3, h4, h5, h6, h7, h8, h9, h10, h11, h12, h13⟩ := id h
  unfold roundVisitBody
  (repeat' split) <;> simp (maxDischargeDepth := 12) [*]

@[simp] theorem roundCloseBody_bounds (s : State) (h : BoundsInv s) : BoundsInv (roundCloseBody s).2.2 := by
  obtain ⟨h1, h2, h3, h4, h5, h6, h7, h8, h9, h10, h11, h12, h13⟩ := id h
  unfold roundCloseBody
  (repeat' split) <;> simp (maxDischargeDepth := 12) [*]

@[simp] theorem readSheetBody_bounds (index : Nat) (s : State) (h : BoundsInv s) :
    BoundsInv (readSheetBody index s).2.2 := by
  obtain ⟨h1, h2, h3, h4, h5, h6, h7, h8, h9, h10, h11, h12, h13⟩ := id h
  unfold readSheetBody
  (repeat' split) <;> simp (maxDischargeDepth := 12) [*]

@[simp] theorem readRoundBody_bounds (s : State) (h : BoundsInv s) : BoundsInv (readRoundBody s).2.2 := by
  simp (maxDischargeDepth := 12) [readRoundBody, h]

@[simp] theorem takeClose_bounds (round : Nat) (collector : Nat) (s : State) (h : BoundsInv s) :
    BoundsInv (takeClose round collector s) := by
  obtain ⟨h1, h2, h3, h4, h5, h6, h7, h8, h9, h10, h11, h12, h13⟩ := id h
  unfold takeClose
  (repeat' split) <;> simp (maxDischargeDepth := 12) [*]

@[simp] theorem faultAnswer_bounds (kind : FaultKind) (subject : Nat) (s : State) (h : BoundsInv s) :
    BoundsInv (faultAnswer kind subject s).2.2 := by
  obtain ⟨h1, h2, h3, h4, h5, h6, h7, h8, h9, h10, h11, h12, h13⟩ := id h
  unfold faultAnswer
  (repeat' split) <;> simp (maxDischargeDepth := 12) [*]

@[simp] theorem raiseFaultBody_bounds (code : Nat) (s : State) (h : BoundsInv s) :
    BoundsInv (raiseFaultBody code s).2.2 := by
  unfold raiseFaultBody; split; exact h; split; exact h; rename_i hr; simp [tryRaise_bounds hr h]

@[simp] theorem ackFaultBody_bounds (owner : Nat) (code : Nat) (subject : Nat) (s : State) (h : BoundsInv s) :
    BoundsInv (ackFaultBody owner code subject s).2.2 := by
  obtain ⟨h1, h2, h3, h4, h5, h6, h7, h8, h9, h10, h11, h12, h13⟩ := id h
  unfold ackFaultBody
  (repeat' split) <;> simp (maxDischargeDepth := 12) [*]

@[simp] theorem clearFaultBody_bounds (owner : Nat) (code : Nat) (subject : Nat) (s : State) (h : BoundsInv s) :
    BoundsInv (clearFaultBody owner code subject s).2.2 := by
  obtain ⟨h1, h2, h3, h4, h5, h6, h7, h8, h9, h10, h11, h12, h13⟩ := id h
  unfold clearFaultBody
  (repeat' split) <;> simp (maxDischargeDepth := 12) [*]

@[simp] theorem readFaultsBody_bounds (owner : Nat) (code : Nat) (subject : Nat) (s : State) (h : BoundsInv s) :
    BoundsInv (readFaultsBody owner code subject s).2.2 := by
  obtain ⟨h1, h2, h3, h4, h5, h6, h7, h8, h9, h10, h11, h12, h13⟩ := id h
  unfold readFaultsBody
  (repeat' split) <;> simp (maxDischargeDepth := 12) [*]

@[simp] theorem restartStationBody_bounds (target : Nat) (number : Nat) (s : State) (h : BoundsInv s) :
    BoundsInv (restartStationBody target number s).2.2 := by
  obtain ⟨h1, h2, h3, h4, h5, h6, h7, h8, h9, h10, h11, h12, h13⟩ := id h
  unfold restartStationBody
  (repeat' split) <;> simp (maxDischargeDepth := 12) [*]

@[simp] theorem pageStationBody_bounds (target : Nat) (code : Nat) (s : State) (h : BoundsInv s) :
    BoundsInv (pageStationBody target code s).2.2 := by
  obtain ⟨h1, h2, h3, h4, h5, h6, h7, h8, h9, h10, h11, h12, h13⟩ := id h
  unfold pageStationBody
  (repeat' split) <;> simp (maxDischargeDepth := 12) [*]

@[simp] theorem takeFaultReport_bounds (sender : Nat) (r : ReportBody) (s : State) (h : BoundsInv s) :
    BoundsInv (takeFaultReport sender r s) := by
  unfold takeFaultReport; split
  · exact setFaultPos_bounds _ (foldl_inv _ (fun t x ht => by simp [ht]) _ _ h)
  · simp [h]

@[simp] theorem takeRestart_bounds (sender : Nat) (number : Nat) (s : State) (h : BoundsInv s) :
    BoundsInv (takeRestart sender number s) := by
  obtain ⟨h1, h2, h3, h4, h5, h6, h7, h8, h9, h10, h11, h12, h13⟩ := id h
  unfold takeRestart
  (repeat' split) <;> simp (maxDischargeDepth := 12) [*]

@[simp] theorem takeSample_bounds (g : Nat) (level : Bool) (s : State) (h : BoundsInv s) :
    BoundsInv (takeSample g level s) := by
  obtain ⟨h1, h2, h3, h4, h5, h6, h7, h8, h9, h10, h11, h12, h13⟩ := id h
  unfold takeSample
  (repeat' split) <;> simp (maxDischargeDepth := 12) [*]

@[simp] theorem roundFirstSettled_bounds (group : Nat) (s : State) (h : BoundsInv s) :
    BoundsInv (roundFirstSettled group s) := by
  obtain ⟨h1, h2, h3, h4, h5, h6, h7, h8, h9, h10, h11, h12, h13⟩ := id h
  unfold roundFirstSettled
  (repeat' split) <;> simp (maxDischargeDepth := 12) [*]

@[simp] theorem firstSettle_bounds (group : Nat) (c : Settled) (s : State) (h : BoundsInv s) :
    BoundsInv (firstSettle group c s) := by
  obtain ⟨h1, h2, h3, h4, h5, h6, h7, h8, h9, h10, h11, h12, h13⟩ := id h
  unfold firstSettle
  (repeat' split) <;> simp (maxDischargeDepth := 12) [*]

@[simp] theorem handChange_bounds (group : Nat) (c : Settled) (s : State) (h : BoundsInv s) :
    BoundsInv (handChange group c s) := by
  obtain ⟨h1, h2, h3, h4, h5, h6, h7, h8, h9, h10, h11, h12, h13⟩ := id h
  unfold handChange
  (repeat' split) <;> simp_all

@[simp] theorem changeGroup_bounds (group : Nat) (c : Settled) (s : State) (h : BoundsInv s) :
    BoundsInv (changeGroup group c s) := by
  simp (maxDischargeDepth := 12) [changeGroup, h]

@[simp] theorem restBody_bounds (s : State) (h : BoundsInv s) : BoundsInv (restBody s).2.2 := by
  obtain ⟨h1, h2, h3, h4, h5, h6, h7, h8, h9, h10, h11, h12, h13⟩ := id h
  unfold restBody
  (repeat' split) <;> simp (maxDischargeDepth := 12) [*]

@[simp] theorem readPowerBody_bounds (s : State) (h : BoundsInv s) : BoundsInv (readPowerBody s).2.2 := by
  simp (maxDischargeDepth := 12) [readPowerBody, h]

@[simp] theorem supplyAsserted_bounds (s : State) (h : BoundsInv s) : BoundsInv (supplyAsserted s) := by
  obtain ⟨h1, h2, h3, h4, h5, h6, h7, h8, h9, h10, h11, h12, h13⟩ := id h
  unfold supplyAsserted
  (repeat' split) <;> simp (maxDischargeDepth := 12) [*]

@[simp] theorem withdrawSupply_bounds (s : State) (h : BoundsInv s) : BoundsInv (withdrawSupply s) := by
  obtain ⟨h1, h2, h3, h4, h5, h6, h7, h8, h9, h10, h11, h12, h13⟩ := id h
  unfold withdrawSupply
  (repeat' split) <;> simp (maxDischargeDepth := 12) [*]

@[simp] theorem supplyDeasserted_bounds (s : State) (h : BoundsInv s) : BoundsInv (supplyDeasserted s) := by
  obtain ⟨h1, h2, h3, h4, h5, h6, h7, h8, h9, h10, h11, h12, h13⟩ := id h
  unfold supplyDeasserted
  (repeat' split) <;> simp (maxDischargeDepth := 12) [*]

@[simp] theorem exchangeEnd_bounds (s : State) (h : BoundsInv s) : BoundsInv (exchangeEnd s) := by
  obtain ⟨h1, h2, h3, h4, h5, h6, h7, h8, h9, h10, h11, h12, h13⟩ := id h
  constructor <;> simpa [exchangeEnd]

@[simp] theorem byteIn_bounds (b : Byte) (stopOk : Bool) (s : State) (h : BoundsInv s) :
    BoundsInv (byteIn b stopOk s) := by
  obtain ⟨h1, h2, h3, h4, h5, h6, h7, h8, h9, h10, h11, h12, h13⟩ := id h
  unfold byteIn
  (repeat' split) <;> simp (maxDischargeDepth := 12) [*]

@[simp] theorem setButtonPin_bounds (level : Bool) (s : State) (h : BoundsInv s) : BoundsInv (setButtonPin level s) :=
  ⟨h.tx, h.events, h.supply, h.journal, h.log, h.sheet, h.peers, h.want, h.faults, h.usage, h.sections, h.draft, h.spans⟩

@[simp] theorem setSupplyPin_bounds (level : Bool) (s : State) (h : BoundsInv s) : BoundsInv (setSupplyPin level s) :=
  ⟨h.tx, h.events, h.supply, h.journal, h.log, h.sheet, h.peers, h.want, h.faults, h.usage, h.sections, h.draft, h.spans⟩

@[simp] theorem takePress_bounds (s : State) (h : BoundsInv s) : BoundsInv (takePress s) :=
  wakeByButton_bounds _
    ⟨h.tx, h.events, h.supply, h.journal, h.log, h.sheet, h.peers, h.want, h.faults, h.usage, h.sections, h.draft, h.spans⟩

@[simp] theorem assertSupply_bounds (s : State) (h : BoundsInv s) : BoundsInv (assertSupply s) := by
  unfold assertSupply
  split <;> simp [h]

@[simp] theorem deassertSupply_bounds (s : State) (h : BoundsInv s) : BoundsInv (deassertSupply s) := by
  unfold deassertSupply
  (repeat' split) <;> simp [h]

end Sys2Proof.Machine
end

