-- ==== Sys2Proof/Laws/Due.lean ====
section
/-! SUPPORT. What `State.nextDue` finds: a row that is due, the first of those that are, the lowest-numbered of its kind, and one
wherever one is. -/

namespace Sys2Proof.Machine

/-! ### What a search from a rank on finds -/

/-- No row of the kind of `i` is due with a smaller number; of the silences, where the peer table is in order. -/
def LowestDue (s : State) (i : Instr) : Prop :=
  ((∃ n, i = .peerSilence n) → s.link.peers.Pairwise fun a b => a.station < b.station) →
    ∀ j, rowDue s j → dueRank j = dueRank i → dueNumber i ≤ dueNumber j

/-- `o` is the first row due of rank `n` or above, where there is one. -/
def DueFrom (s : State) (n : Nat) (o : Option Instr) : Prop :=
  (∀ i, o = some i → rowDue s i ∧ n ≤ dueRank i ∧ LowestDue s i
      ∧ ∀ j, rowDue s j → n ≤ dueRank j → dueRank i ≤ dueRank j)
    ∧ (o = none → ∀ j, rowDue s j → dueRank j < n)

/-- `o` is the lowest row due of rank `n`, where there is one. -/
def DueAt (s : State) (n : Nat) (o : Option Instr) : Prop :=
  (∀ i, o = some i → rowDue s i ∧ dueRank i = n ∧ LowestDue s i) ∧ (o = none → ∀ j, rowDue s j → dueRank j ≠ n)

theorem dueFrom_or {s : State} {n : Nat} {a o : Option Instr} (ha : DueAt s n a) (ho : DueFrom s (n + 1) o) :
    DueFrom s n (a.or o) := by
  cases a with
  | some i =>
    obtain ⟨hd, hr, hl⟩ := ha.1 i rfl
    refine ⟨fun j hj => ?_, fun h => by simp at h⟩
    obtain rfl : i = j := by simpa using hj
    exact ⟨hd, by omega, hl, fun k _ hk => by omega⟩
  | none =>
    refine ⟨fun i hi => ?_, fun h j hj => ?_⟩
    · obtain ⟨hd, hr, hl, hm⟩ := ho.1 i (by simpa using hi)
      refine ⟨hd, by omega, hl, fun j hj hn => ?_⟩
      have := ha.2 rfl j hj
      exact hm j hj (by omega)
    · have := ha.2 rfl j hj
      have := ho.2 (by simpa using h) j hj
      omega

theorem dueFrom_end (s : State) : DueFrom s 26 none := by
  refine ⟨by simp, fun _ j hj => ?_⟩
  cases j <;> first | exact hj.elim | simp [dueRank]

theorem dueFrom_last {s : State} {a : Option Instr} (ha : DueAt s 25 a) : DueFrom s 25 a := by
  simpa using dueFrom_or ha (dueFrom_end s)

theorem range_ordered (n : Nat) : (List.range n).Pairwise fun a b => a ≤ b :=
  (List.pairwise_lt_range (n := n)).imp Nat.le_of_lt

/-- The one row of rank `n`, due where `b` says so. -/
theorem dueAt_dueIf {s : State} {n : Nat} {b : Bool} {i : Instr} (hi : rowDue s i ↔ b = true)
    (hr : dueRank i = n ∧ dueNumber i = 0) (hu : ∀ j, rowDue s j → dueRank j = n → rowDue s i) :
    DueAt s n (dueIf b i) := by
  unfold DueAt dueIf LowestDue
  cases b <;> simp_all

/-- What a search of a list finds, where the rows of rank `n` are due of its entries and these stand in order. -/
theorem dueAt_find {α : Type} {s : State} {n : Nat} {p : α → Bool} {l : List α} {f : α → Instr}
    (hd : ∀ x ∈ l, p x = true → rowDue s (f x)) (hr : ∀ x, dueRank (f x) = n)
    (ho : ∀ x, ((∃ m, f x = .peerSilence m) → s.link.peers.Pairwise fun a b => a.station < b.station) →
      l.Pairwise fun a b => dueNumber (f a) ≤ dueNumber (f b))
    (hu : ∀ j, rowDue s j → dueRank j = n → ∃ x ∈ l, p x = true ∧ dueNumber (f x) = dueNumber j) :
    DueAt s n ((l.find? p).map f) := by
  refine ⟨fun i hi => ?_, fun h j hj e => ?_⟩
  · obtain ⟨x, hx, rfl⟩ := Option.map_eq_some_iff.1 hi
    refine ⟨hd x (List.mem_of_find?_eq_some hx) (List.find?_some hx), hr x, fun hp j hj e => ?_⟩
    obtain ⟨y, hy, hpy, e'⟩ := hu j hj (e.trans (hr x))
    obtain ⟨-, before, after, rfl, hb⟩ := List.find?_eq_some_iff_append.1 hx
    have hpw := (List.pairwise_append.1 (ho x hp)).2.1
    rw [← e']
    rcases List.mem_append.1 hy with hy | hy
    · exact absurd hpy (by simpa using hb y hy)
    · rcases List.mem_cons.1 hy with rfl | hy
      · exact Nat.le_refl _
      · exact (List.pairwise_cons.1 hpw).1 y hy
  · obtain ⟨x, hx, hp, -⟩ := hu j hj e
    simp only [Option.map_eq_none_iff, List.find?_eq_none] at h
    exact h x hx hp

/-! ### The conditions of the rows -/

theorem silentDue_iff (s : State) (p : PeerEntry) :
    silentDue s p = true ↔
      s.power.state ≠ .dormant ∧ p.lastHeard + 256000 ≤ s.clock.elapsed
        ∧ (p.status = .live
            ∨ (p.status = .dormant ∧ ∀ t, p.dormantHeard = some t → t + 86400000 ≤ s.clock.elapsed)) := by
  unfold silentDue State.hasRun
  cases p.status <;> cases p.dormantHeard <;> simp [and_assoc]

theorem staleDue_iff (s : State) (i : Nat) :
    s.staleDue i = true ↔
      (s.sectionAt i).staleRaised = false
        ∧ ∃ t, (s.sectionAt i).behindSince = some t ∧ t + 3600000 ≤ s.clock.elapsed := by
  unfold State.staleDue State.hasRun
  cases (s.sectionAt i).behindSince <;> simp

theorem runCondition_eq (x : SenseGroup) (c : Settled) : runCondition x = some c ↔ runComplete x ∧ c = runShows x := by
  unfold runCondition runComplete runShows isEnabled
  by_cases h : x.runLevel = (settingsOf x).activeHigh <;> simp [h, and_assoc] <;> tauto

theorem firstCondition_iff (x : SenseGroup) :
    (firstCondition x).isSome = true ↔ runComplete x ∧ x.settled = .unsettled := by
  unfold firstCondition
  have h := runCondition_eq x
  cases hr : runCondition x with
  | none => simp_all
  | some c => by_cases e : x.settled = .unsettled <;> simp [e, ((h c).1 hr).1]

theorem changedCondition_iff (x : SenseGroup) :
    (changedCondition x).isSome = true ↔ runComplete x ∧ x.settled ≠ .unsettled ∧ x.settled ≠ runShows x := by
  unfold changedCondition
  have h := runCondition_eq x
  cases hr : runCondition x with
  | none => simp_all
  | some c =>
    obtain ⟨hc, rfl⟩ := (h c).1 hr
    rw [Option.filter_some, ne_comm (a := x.settled) (b := runShows x)]
    by_cases e : x.settled = .unsettled <;> by_cases e' : runShows x = x.settled <;> simp [e, e', hc]

/-! ### The rows of each kind -/

theorem dueOnLine_from {s : State} {o : Option Instr} (h : DueFrom s 5 o) : DueFrom s 0 (s.dueOnLine.or o) := by
  simp only [State.dueOnLine, Option.or_assoc]
  refine dueFrom_or (dueAt_dueIf ?_ ⟨rfl, rfl⟩ ?_) (dueFrom_or (dueAt_dueIf ?_ ⟨rfl, rfl⟩ ?_) (dueFrom_or (dueAt_dueIf ?_ ⟨rfl, rfl⟩ ?_)
    (dueFrom_or (dueAt_dueIf ?_ ⟨rfl, rfl⟩ ?_) (dueFrom_or (dueAt_dueIf ?_ ⟨rfl, rfl⟩ ?_) h))))
  all_goals first
    | (intro j hj e; cases j <;> first | (simp [dueRank] at e; done) | exact hj | exact ⟨rfl, hj.2⟩)
    | skip
  · unfold rowDue State.frameOut State.hasRun
    cases s.link.line with
    | none => simp
    | some l => cases l <;> cases s.link.tx <;> simp
  · unfold rowDue State.entryDue State.announceOut State.farewell State.hasRun announceMs
    cases s.link.line with
    | none => simp
    | some l => cases l <;> simp [and_comm, or_assoc, or_comm]
  · unfold rowDue State.announceOut State.hasRun announceMs
    cases s.link.line with
    | none => simp
    | some l => cases l <;> simp
  · unfold rowDue State.gapOver State.hasRun
    cases s.link.path <;> simp
  · unfold rowDue State.quietOver State.hasRun
    cases s.link.path <;> simp

theorem dueOnClock_from {s : State} {o : Option Instr} (h : DueFrom s 11 o) : DueFrom s 5 (s.dueOnClock.or o) := by
  simp only [State.dueOnClock, Option.or_assoc]
  refine dueFrom_or (dueAt_dueIf ?_ ⟨rfl, rfl⟩ ?_) (dueFrom_or (dueAt_dueIf ?_ ⟨rfl, rfl⟩ ?_) (dueFrom_or (dueAt_dueIf ?_ ⟨rfl, rfl⟩ ?_)
    (dueFrom_or (dueAt_dueIf ?_ ⟨rfl, rfl⟩ ?_) (dueFrom_or (dueAt_dueIf ?_ ⟨rfl, rfl⟩ ?_) (dueFrom_or (dueAt_dueIf ?_ ⟨rfl, rfl⟩ ?_) h)))))
  all_goals first
    | (intro j hj e; cases j <;> first | (simp [dueRank] at e; done) | exact hj | exact ⟨rfl, hj.2⟩)
    | skip
  · unfold rowDue State.changeoverDue
    cases s.zoneSec <;> cases s.tariff.pending <;> simp
  · unfold rowDue State.rolloverDue
    cases s.today <;> simp
  all_goals simp [rowDue]

theorem dueOnTimers_from {s : State} {o : Option Instr} (h : DueFrom s 20 o) : DueFrom s 11 (s.dueOnTimers.or o) := by
  simp only [State.dueOnTimers, Option.or_assoc]
  refine dueFrom_or (dueAt_dueIf ?_ ⟨rfl, rfl⟩ ?_) (dueFrom_or (dueAt_dueIf ?_ ⟨rfl, rfl⟩ ?_) (dueFrom_or (dueAt_dueIf ?_ ⟨rfl, rfl⟩ ?_)
    (dueFrom_or (dueAt_find ?_ (fun _ => rfl) ?_ ?_) (dueFrom_or (dueAt_find ?_ (fun _ => rfl) ?_ ?_)
      (dueFrom_or (dueAt_dueIf ?_ ⟨rfl, rfl⟩ ?_) (dueFrom_or (dueAt_dueIf ?_ ⟨rfl, rfl⟩ ?_) (dueFrom_or (dueAt_dueIf ?_ ⟨rfl, rfl⟩ ?_)
        (dueFrom_or (dueAt_dueIf ?_ ⟨rfl, rfl⟩ ?_) h))))))))
  all_goals first
    | (intro j hj e; cases j <;> first | (simp [dueRank] at e; done) | exact hj | exact ⟨rfl, hj.2⟩)
    | skip
  · unfold rowDue State.backoffOver State.hasRun
    cases s.link.access <;> cases s.link.tx <;> simp
  · unfold rowDue State.ageOver State.hasRun
    cases s.clock.quality <;> cases s.clock.ageStart <;> simp
  · unfold rowDue State.intakeStalled State.hasRun
    cases s.repl.intake <;> simp
  · intro p hp h
    obtain ⟨a, b, c⟩ := (silentDue_iff s p).1 h
    exact ⟨a, p, hp, rfl, b, c⟩
  · exact fun p hp => (hp ⟨_, rfl⟩).imp Nat.le_of_lt
  · intro j hj e
    cases j <;> first | (simp [dueRank] at e; done) | skip
    obtain ⟨a, p, hp, e', b, c⟩ := hj
    exact ⟨p, hp, (silentDue_iff s p).2 ⟨a, b, c⟩, e'⟩
  · intro i hi h
    obtain ⟨a, b⟩ := (staleDue_iff s i).1 h
    exact ⟨by simpa using hi, a, b⟩
  · exact fun _ _ => range_ordered 8
  · intro j hj e
    cases j <;> first | (simp [dueRank] at e; done) | skip
    obtain ⟨a, b⟩ := hj
    exact ⟨_, by simpa using a, (staleDue_iff s _).2 b, rfl⟩
  · unfold rowDue saleOver State.hasRun
    cases s.sales.sale <;> simp
  · unfold rowDue saleOver State.hasRun
    cases s.sales.sale <;> simp
  · unfold rowDue State.visitOver State.hasRun
    cases s.rounds.ctx.visitStart <;> simp [and_assoc]
  · unfold rowDue State.graceOver State.hasRun
    cases s.power.warning <;> simp

theorem dueOnSense_from {s : State} {o : Option Instr} (h : DueFrom s 23 o) : DueFrom s 20 (s.dueOnSense.or o) := by
  simp only [State.dueOnSense, Option.or_assoc]
  refine dueFrom_or (dueAt_find ?_ (fun _ => rfl) ?_ ?_) (dueFrom_or (dueAt_find ?_ (fun _ => rfl) ?_ ?_)
    (dueFrom_or (dueAt_find ?_ (fun _ => rfl) ?_ ?_) h))
  · intro g hg h
    exact ⟨by simpa using hg, (firstCondition_iff _).1 h⟩
  · exact fun _ _ => range_ordered 4
  · intro j hj e
    cases j <;> first | (simp [dueRank] at e; done) | skip
    exact ⟨_, by simpa using hj.1, (firstCondition_iff _).2 hj.2, rfl⟩
  · intro g hg h
    exact ⟨by simpa using hg, (changedCondition_iff _).1 h⟩
  · exact fun _ _ => range_ordered 4
  · intro j hj e
    cases j <;> first | (simp [dueRank] at e; done) | skip
    exact ⟨_, by simpa using hj.1, (changedCondition_iff _).2 hj.2, rfl⟩
  · intro g hg h
    simp only [State.sampleDue, isEnabled, State.hasRun, Bool.and_eq_true, bne_iff_ne, decide_eq_true_eq] at h
    exact ⟨by simpa using hg, h.1, h.2, rfl⟩
  · exact fun _ _ => range_ordered 4
  · intro j hj e
    cases j <;> first | (simp [dueRank] at e; done) | skip
    refine ⟨_, by simpa using hj.1, ?_, rfl⟩
    simp [State.sampleDue, isEnabled, State.hasRun, hj.2.1, hj.2.2.1]

theorem dueOnPower_from (s : State) : DueFrom s 23 s.dueOnPower := by
  unfold State.dueOnPower
  refine dueFrom_or (dueAt_dueIf ?_ ⟨rfl, rfl⟩ ?_) (dueFrom_or (dueAt_dueIf ?_ ⟨rfl, rfl⟩ ?_) (dueFrom_last (dueAt_dueIf ?_ ⟨rfl, rfl⟩ ?_)))
  all_goals first
    | (intro j hj e; cases j <;> first | (simp [dueRank] at e; done) | exact hj)
    | simp [rowDue, State.supplyDue, State.pressDue, and_assoc]

/-- Everything that `nextDue` can do: it answers a row that is due and that none due stands before nor one of its kind
with a smaller number, and none only where none is due. -/
theorem nextDue_from (s : State) : DueFrom s 0 s.nextDue :=
  dueOnLine_from (dueOnClock_from (dueOnTimers_from (dueOnSense_from (dueOnPower_from s))))

theorem nextDue_due {s : State} {i : Instr} (h : s.nextDue = some i) : rowDue s i := ((nextDue_from s).1 i h).1

theorem nextDue_first {s : State} {i j : Instr} (h : s.nextDue = some i) (hj : rowDue s j) : dueRank i ≤ dueRank j :=
  ((nextDue_from s).1 i h).2.2.2 j hj (Nat.zero_le _)

theorem nextDue_lowest {s : State} {i : Instr} (h : s.nextDue = some i) : LowestDue s i :=
  ((nextDue_from s).1 i h).2.2.1

theorem nextDue_none {s : State} (h : s.nextDue = none) (j : Instr) : ¬ rowDue s j := fun hj =>
  absurd ((nextDue_from s).2 h j hj) (Nat.not_lt_zero _)

end Sys2Proof.Machine
end

