-- ==== Sys2Proof/Laws/Faults.lean ====
section
/-! SUPPORT. What an own change of a fault entry does (R157), and what the table then holds. -/

namespace Sys2Proof.Machine

@[simp] theorem place_own (p : Placer) (dest : Nat) (body : FrameBody) (s : State) :
    (place p dest body s).own = s.own := by
  simp only [place]
  split <;> rfl

@[simp] theorem place_faults (p : Placer) (dest : Nat) (body : FrameBody) (s : State) :
    (place p dest body s).faults = s.faults := by
  simp only [place]
  split <;> rfl

@[simp] theorem postFault_faults (e : FaultEntry) (c : FaultCause) (a : Option FaultEntry) (s : State) :
    (postFault e c a s).faults = s.faults := by
  simp only [postFault]
  split <;> rfl

@[simp] theorem postFault_link (e : FaultEntry) (c : FaultCause) (a : Option FaultEntry) (s : State) :
    (postFault e c a s).link = s.link := by
  simp only [postFault]
  split <;> rfl

@[simp] theorem postFault_own (e : FaultEntry) (c : FaultCause) (a : Option FaultEntry) (s : State) :
    (postFault e c a s).own = s.own := by
  simp only [postFault]
  split <;> rfl

/-- An own change stamps the entry with the raised counter and writes it, and touches nothing else of the fault unit. -/
theorem changeOwn_faults (e : FaultEntry) (c : FaultCause) (s : State) :
    (changeOwn e c s).faults =
      { s.faults with
        table := insertFault { e with change := nextChange s.faults.counter } s.faults.table
        counter := nextChange s.faults.counter } := by
  simp [changeOwn]

@[simp] theorem changeOwn_own (e : FaultEntry) (c : FaultCause) (s : State) : (changeOwn e c s).own = s.own := by
  simp [changeOwn, State.own]

/-- An entry written is the entry found under its key, whatever the table held. -/
theorem findFault_insertFault (e : FaultEntry) (l : List FaultEntry) :
    findFault e.owner e.kind e.subject (insertFault e l) = some e := by
  have hs : isFaultKey e.owner e.kind e.subject e = true := by simp [isFaultKey]
  induction l with
  | nil => simp [insertFault, findFault, hs]
  | cons x xs ih =>
    simp only [insertFault, findFault] at ih ⊢
    split
    · simp [hs]
    · split
      · simp [hs]
      · rename_i h
        have h' : isFaultKey e.owner e.kind e.subject x = false := by simpa [sameFault] using h
        simp [h', ih]

/-- The entry found under a key has that key. -/
theorem findFault_key {owner : Nat} {kind : FaultKind} {subject : Nat} {l : List FaultEntry} {e : FaultEntry}
    (h : findFault owner kind subject l = some e) : e.owner = owner ∧ e.kind = kind ∧ e.subject = subject := by
  have := List.find?_some h
  simpa [isFaultKey, and_assoc] using this

/-- The own entry after an own change is the entry written. -/
theorem changeOwn_ownFault {e : FaultEntry} (c : FaultCause) {s : State} (ho : e.owner = s.own)
    (hc : e.change = nextChange s.faults.counter) : (changeOwn e c s).ownFault e.kind e.subject = some e := by
  simp only [State.ownFault, changeOwn_faults, changeOwn_own, ← ho, ← hc]
  exact findFault_insertFault e _

/-! ### The round unit is left alone -/

@[simp] theorem postFault_rounds (e : FaultEntry) (c : FaultCause) (a : Option FaultEntry) (s : State) :
    (postFault e c a s).rounds = s.rounds := by
  simp only [postFault]
  split <;> rfl

@[simp] theorem changeOwn_rounds (e : FaultEntry) (c : FaultCause) (s : State) :
    (changeOwn e c s).rounds = s.rounds := by
  simp only [changeOwn, postFault_rounds, place, noteIf]
  (repeat' split) <;> rfl

theorem makeRoom_rounds {b : Bool} {s t : State} (h : makeRoom b s = some t) : t.rounds = s.rounds := by
  unfold makeRoom at h
  split at h
  · cases h; rfl
  · obtain ⟨e, -, rfl⟩ := Option.map_eq_some_iff.1 h
    simp [evict]

@[simp] theorem raiseFault_rounds (kind : FaultKind) (subject : Nat) (s : State) :
    (raiseFault kind subject s).rounds = s.rounds := by
  unfold raiseFault
  cases h : tryRaise kind subject s with
  | none => rfl
  | some t =>
    unfold tryRaise at h
    split at h
    · obtain ⟨u, hu, rfl⟩ := Option.map_eq_some_iff.1 h
      simp [makeRoom_rounds hu]
    · split at h <;> (cases h; simp)

@[simp] theorem clearFault_rounds (kind : FaultKind) (subject : Nat) (s : State) :
    (clearFault kind subject s).rounds = s.rounds := by
  unfold clearFault
  (repeat' split) <;> simp

end Sys2Proof.Machine
end

