-- ==== Sys2Proof/Laws/Holdings.lean ====
section
/-! SUPPORT. The replication unit's own work, a holdings notice among it, leaves every other unit's state as it is. -/

namespace Sys2Proof.Machine

@[simp] theorem place_leaves (placer : Placer) (dest : Nat) (body : FrameBody) (s : State) :
    (place placer dest body s).tariff = s.tariff ∧ (place placer dest body s).permits = s.permits ∧
      (place placer dest body s).cash = s.cash ∧ (place placer dest body s).rounds = s.rounds ∧
      (place placer dest body s).faults = s.faults ∧ (place placer dest body s).sense = s.sense ∧
      (place placer dest body s).power = s.power ∧ (place placer dest body s).port = s.port := by
  unfold place
  (repeat' split) <;> simp

@[simp] theorem judgeWant_leaves (sender : Option Nat) (s : State) :
    (judgeWant sender s).tariff = s.tariff ∧ (judgeWant sender s).permits = s.permits ∧
      (judgeWant sender s).cash = s.cash ∧ (judgeWant sender s).rounds = s.rounds ∧
      (judgeWant sender s).faults = s.faults ∧ (judgeWant sender s).sense = s.sense ∧
      (judgeWant sender s).power = s.power ∧ (judgeWant sender s).port = s.port := by
  simp [judgeWant]

@[simp] theorem mapWant_leaves (obj : ImageObj) (f : WantEntry → WantEntry) (s : State) :
    (mapWant obj f s).tariff = s.tariff ∧ (mapWant obj f s).permits = s.permits ∧ (mapWant obj f s).cash = s.cash ∧
      (mapWant obj f s).rounds = s.rounds ∧ (mapWant obj f s).faults = s.faults ∧
      (mapWant obj f s).sense = s.sense ∧ (mapWant obj f s).power = s.power ∧ (mapWant obj f s).port = s.port := by
  simp [mapWant]

@[simp] theorem beginHead_leaves (s : State) :
    (beginHead s).tariff = s.tariff ∧ (beginHead s).permits = s.permits ∧ (beginHead s).cash = s.cash ∧
      (beginHead s).rounds = s.rounds ∧ (beginHead s).faults = s.faults ∧ (beginHead s).sense = s.sense ∧
      (beginHead s).power = s.power ∧ (beginHead s).port = s.port := by
  simp [beginHead]

@[simp] theorem forgetTimeouts_leaves (i : Intake) (s : State) :
    (forgetTimeouts i s).tariff = s.tariff ∧
      (forgetTimeouts i s).permits = s.permits ∧
      (forgetTimeouts i s).cash = s.cash ∧
      (forgetTimeouts i s).rounds = s.rounds ∧
      (forgetTimeouts i s).faults = s.faults ∧
      (forgetTimeouts i s).sense = s.sense ∧
      (forgetTimeouts i s).power = s.power ∧
      (forgetTimeouts i s).port = s.port := by
  unfold forgetTimeouts
  split <;> simp

@[simp] theorem followHead_leaves (i : Intake) (s : State) :
    (followHead i s).tariff = s.tariff ∧
      (followHead i s).permits = s.permits ∧
      (followHead i s).cash = s.cash ∧
      (followHead i s).rounds = s.rounds ∧
      (followHead i s).faults = s.faults ∧
      (followHead i s).sense = s.sense ∧
      (followHead i s).power = s.power ∧
      (followHead i s).port = s.port := by
  unfold followHead
  (repeat' split) <;> simp

@[simp] theorem followIntake_leaves (s : State) :
    (followIntake s).tariff = s.tariff ∧ (followIntake s).permits = s.permits ∧ (followIntake s).cash = s.cash ∧
      (followIntake s).rounds = s.rounds ∧ (followIntake s).faults = s.faults ∧ (followIntake s).sense = s.sense ∧
      (followIntake s).power = s.power ∧ (followIntake s).port = s.port := by
  unfold followIntake
  (repeat' split) <;> simp

@[simp] theorem pruneCandidates_leaves (s : State) :
    (pruneCandidates s).tariff = s.tariff ∧ (pruneCandidates s).permits = s.permits ∧
      (pruneCandidates s).cash = s.cash ∧ (pruneCandidates s).rounds = s.rounds ∧
      (pruneCandidates s).faults = s.faults ∧ (pruneCandidates s).sense = s.sense ∧
      (pruneCandidates s).power = s.power ∧ (pruneCandidates s).port = s.port := by
  simp [pruneCandidates]

@[simp] theorem sendRequest_leaves (s : State) :
    (sendRequest s).tariff = s.tariff ∧ (sendRequest s).permits = s.permits ∧ (sendRequest s).cash = s.cash ∧
      (sendRequest s).rounds = s.rounds ∧ (sendRequest s).faults = s.faults ∧ (sendRequest s).sense = s.sense ∧
      (sendRequest s).power = s.power ∧ (sendRequest s).port = s.port := by
  unfold sendRequest
  (repeat' split) <;> simp

@[simp] theorem requestIntake_leaves (s : State) :
    (requestIntake s).tariff = s.tariff ∧ (requestIntake s).permits = s.permits ∧ (requestIntake s).cash = s.cash ∧
      (requestIntake s).rounds = s.rounds ∧ (requestIntake s).faults = s.faults ∧
      (requestIntake s).sense = s.sense ∧ (requestIntake s).power = s.power ∧ (requestIntake s).port = s.port := by
  unfold requestIntake
  (repeat' split) <;> simp

@[simp] theorem updateIntake_leaves (s : State) :
    (updateIntake s).tariff = s.tariff ∧ (updateIntake s).permits = s.permits ∧ (updateIntake s).cash = s.cash ∧
      (updateIntake s).rounds = s.rounds ∧ (updateIntake s).faults = s.faults ∧ (updateIntake s).sense = s.sense ∧
      (updateIntake s).power = s.power ∧ (updateIntake s).port = s.port := by
  unfold updateIntake
  dsimp only
  (repeat' split) <;> simp

@[simp] theorem fixHead_leaves (s : State) :
    (fixHead s).tariff = s.tariff ∧ (fixHead s).permits = s.permits ∧ (fixHead s).cash = s.cash ∧
      (fixHead s).rounds = s.rounds ∧ (fixHead s).faults = s.faults ∧ (fixHead s).sense = s.sense ∧
      (fixHead s).power = s.power ∧ (fixHead s).port = s.port := by
  unfold fixHead
  (repeat' split) <;> simp

@[simp] theorem serve_leaves (s : State) :
    (serve s).tariff = s.tariff ∧ (serve s).permits = s.permits ∧ (serve s).cash = s.cash ∧
      (serve s).rounds = s.rounds ∧ (serve s).faults = s.faults ∧ (serve s).sense = s.sense ∧
      (serve s).power = s.power ∧ (serve s).port = s.port := by
  unfold serve
  dsimp only
  (repeat' split) <;> simp

@[simp] theorem replaceSupply_leaves (e : SupplyEntry) (s : State) :
    (replaceSupply e s).tariff = s.tariff ∧
      (replaceSupply e s).permits = s.permits ∧
      (replaceSupply e s).cash = s.cash ∧
      (replaceSupply e s).rounds = s.rounds ∧
      (replaceSupply e s).faults = s.faults ∧
      (replaceSupply e s).sense = s.sense ∧
      (replaceSupply e s).power = s.power ∧
      (replaceSupply e s).port = s.port := by
  unfold replaceSupply
  dsimp only
  split <;> simp

@[simp] theorem enterSupply_leaves (e : SupplyEntry) (s : State) :
    (enterSupply e s).tariff = s.tariff ∧ (enterSupply e s).permits = s.permits ∧ (enterSupply e s).cash = s.cash ∧
      (enterSupply e s).rounds = s.rounds ∧ (enterSupply e s).faults = s.faults ∧
      (enterSupply e s).sense = s.sense ∧ (enterSupply e s).power = s.power ∧ (enterSupply e s).port = s.port := by
  unfold enterSupply
  dsimp only
  (repeat' split) <;> simp

@[simp] theorem answerNotHeld_leaves (requester : Nat) (obj : ImageObj) (key : Key) (s : State) :
    (answerNotHeld requester obj key s).tariff = s.tariff ∧
      (answerNotHeld requester obj key s).permits = s.permits ∧ (answerNotHeld requester obj key s).cash = s.cash ∧
      (answerNotHeld requester obj key s).rounds = s.rounds ∧
      (answerNotHeld requester obj key s).faults = s.faults ∧ (answerNotHeld requester obj key s).sense = s.sense ∧
      (answerNotHeld requester obj key s).power = s.power ∧ (answerNotHeld requester obj key s).port = s.port := by
  unfold answerNotHeld
  (repeat' split) <;> simp

@[simp] theorem answerEntry_leaves (s : State) (e : SupplyEntry) :
    (answerEntry s e).tariff = s.tariff ∧ (answerEntry s e).permits = s.permits ∧ (answerEntry s e).cash = s.cash ∧
      (answerEntry s e).rounds = s.rounds ∧ (answerEntry s e).faults = s.faults ∧
      (answerEntry s e).sense = s.sense ∧ (answerEntry s e).power = s.power ∧ (answerEntry s e).port = s.port := by
  unfold answerEntry
  (repeat' split) <;> simp

@[simp] theorem keepSupply_leaves (keep : SupplyEntry → Bool) (s : State) :
    (keepSupply keep s).tariff = s.tariff ∧ (keepSupply keep s).permits = s.permits ∧
      (keepSupply keep s).cash = s.cash ∧ (keepSupply keep s).rounds = s.rounds ∧
      (keepSupply keep s).faults = s.faults ∧ (keepSupply keep s).sense = s.sense ∧
      (keepSupply keep s).power = s.power ∧ (keepSupply keep s).port = s.port := by
  unfold keepSupply
  dsimp only
  (repeat' split) <;> simp

@[simp] theorem judgeSupply_leaves (s : State) :
    (judgeSupply s).tariff = s.tariff ∧ (judgeSupply s).permits = s.permits ∧ (judgeSupply s).cash = s.cash ∧
      (judgeSupply s).rounds = s.rounds ∧ (judgeSupply s).faults = s.faults ∧ (judgeSupply s).sense = s.sense ∧
      (judgeSupply s).power = s.power ∧ (judgeSupply s).port = s.port := by
  unfold judgeSupply
  refine ⟨?_, ?_, ?_, ?_, ?_, ?_, ?_, ?_⟩
  · simp [foldl_keeps (fun t => t.tariff) answerEntry (by intros; simp)]
  · simp [foldl_keeps (fun t => t.permits) answerEntry (by intros; simp)]
  · simp [foldl_keeps (fun t => t.cash) answerEntry (by intros; simp)]
  · simp [foldl_keeps (fun t => t.rounds) answerEntry (by intros; simp)]
  · simp [foldl_keeps (fun t => t.faults) answerEntry (by intros; simp)]
  · simp [foldl_keeps (fun t => t.sense) answerEntry (by intros; simp)]
  · simp [foldl_keeps (fun t => t.power) answerEntry (by intros; simp)]
  · simp [foldl_keeps (fun t => t.port) answerEntry (by intros; simp)]

@[simp] theorem holdingsNotice_leaves (s : State) :
    (holdingsNotice s).tariff = s.tariff ∧ (holdingsNotice s).permits = s.permits ∧
      (holdingsNotice s).cash = s.cash ∧ (holdingsNotice s).rounds = s.rounds ∧
      (holdingsNotice s).faults = s.faults ∧ (holdingsNotice s).sense = s.sense ∧
      (holdingsNotice s).power = s.power ∧ (holdingsNotice s).port = s.port := by
  simp [holdingsNotice]

end Sys2Proof.Machine
end

