-- ==== Sys2Proof/Laws/Searches.lean ====
section
/-! SUPPORT. What the searches of the model find: over readings, permit records, keys, the lists kept in order,
the want list, the minutes of a walk, the steps of a ladder, the checks on a tariff set, and the fault entries that may be
displaced. -/

namespace Sys2Proof.Machine

/-! ### Readings of the elapsed-time counter -/

theorem sinceCycle_iff (s : State) (back : Nat) (reading : Option Nat) :
    s.sinceCycle back reading = true ↔
      ∃ t z, reading = some t ∧ s.clock.zone = some z ∧ s.clock.elapsed ≤ t + z % 32000 + back := by
  unfold State.sinceCycle cyclePos
  cases reading <;> cases s.clock.zone <;> simp

theorem seriesRecent_iff (s : State) (r : Option SeriesRx) :
    s.seriesRecent r = true ↔
      ∃ x z, r = some x ∧ s.clock.zone = some z ∧ s.clock.elapsed ≤ x.lastPart + z % 32000 := by
  rw [State.seriesRecent, sinceCycle_iff]
  cases r <;> simp

/-! ### Permit records -/

/-- A record put in is found under its number, and every other number is found as before. -/
theorem findPermit_insertPermit (r : PermitRec) (rs : List PermitRec) (n : Nat) :
    findPermit n (insertPermit r rs) = if n = r.number then some r else findPermit n rs := by
  induction rs with
  | nil =>
    by_cases h : n = r.number
    · simp [insertPermit, findPermit, h]
    · simp [insertPermit, findPermit, h, Ne.symm h]
  | cons x xs ih =>
    unfold insertPermit
    by_cases h : n = r.number
    · subst h
      (repeat' split) <;> simp_all [findPermit, List.find?_cons]
      rename_i h1 h2
      have h3 : (x.number == r.number) = false := by simpa using fun e : x.number = r.number => h2 e.symm
      simp [h3]
    · have h' : (r.number == n) = false := by simpa using fun e : r.number = n => h e.symm
      (repeat' split) <;> simp_all [findPermit, List.find?_cons]

/-! ### The highest of some keys (R35, R37) -/

theorem Key.higher_antisymm {a b : Key} (h1 : Key.higher a b = false) (h2 : Key.higher b a = false) : a = b := by
  simp only [Key.higher, Bool.or_eq_false_iff, Bool.and_eq_false_imp, decide_eq_false_iff_not, beq_iff_eq] at h1 h2
  have hg : a.gen = b.gen := by omega
  have hp : a.pub = b.pub := by
    have := h1.2 hg
    have := h2.2 hg.symm
    omega
  cases a
  cases b
  simp_all

theorem highestKey_none {l : List (Option Key)} : highestKey l = none ↔ ∀ k, some k ∉ l := by
  induction l with
  | nil => simp [highestKey]
  | cons a rest ih =>
    cases a with
    | none => simp [highestKey, ih]
    | some y =>
      unfold highestKey
      split
      · exact ⟨fun e => by simp at e, fun e => absurd (by simp) (e y)⟩
      · rename_i h
        cases hr : highestKey rest with
        | none => simp [hr, Key.higherOpt] at h
        | some z => exact ⟨fun e => by simp at e, fun e => absurd (by simp) (e y)⟩

theorem highestKey_mem {l : List (Option Key)} {k : Key} (h : highestKey l = some k) : some k ∈ l := by
  induction l with
  | nil => simp [highestKey] at h
  | cons a rest ih =>
    cases a with
    | none => exact List.mem_cons_of_mem _ (ih (by simpa [highestKey] using h))
    | some y =>
      unfold highestKey at h
      split at h
      · simp_all
      · exact List.mem_cons_of_mem _ (ih h)

/-- A key of the list that none of the list is higher than is the one found. -/
theorem highestKey_some {l : List (Option Key)} {k : Key} (hk : some k ∈ l)
    (h : ∀ x, some x ∈ l → Key.higher x k = false) : highestKey l = some k := by
  induction l with
  | nil => simp at hk
  | cons a rest ih =>
    cases a with
    | none =>
      simp only [highestKey]
      exact ih (by simpa using hk) fun x hx => h x (by simp [hx])
    | some y =>
      unfold highestKey
      by_cases hr : some k ∈ rest
      · rw [ih hr fun x hx => h x (by simp [hx])]
        simp [Key.higherOpt, h y (by simp)]
      · obtain rfl : y = k := by simpa [hr, eq_comm] using hk
        cases e : highestKey rest with
        | none => simp [Key.higherOpt]
        | some x =>
          have h1 := h x (by simp [highestKey_mem e])
          cases h2 : Key.higher y x with
          | true => simp [Key.higherOpt, h2]
          | false => simp [Key.higherOpt, Key.higher_antisymm h1 h2]

/-! ### Lists kept in order (R119, R153) -/

/-- The order of the zone due list: highest figure first, lowest station first among equals (R153). -/
def dueBefore (x y : Nat × Nat) : Prop := y.2 < x.2 ∨ (x.2 = y.2 ∧ x.1 < y.1)

theorem insertDue_ordered {x : Nat × Nat} {l : List (Nat × Nat)} (hx : ∀ y ∈ l, y.1 ≠ x.1) (h : l.Pairwise dueBefore) :
    (∀ z ∈ insertDue x l, z = x ∨ z ∈ l) ∧ (insertDue x l).Pairwise dueBefore := by
  induction l with
  | nil => simp [insertDue]
  | cons y ys ih =>
    obtain ⟨hy, hp⟩ := List.pairwise_cons.1 h
    obtain ⟨ia, ib⟩ := ih (fun z hz => hx z (by simp [hz])) hp
    have hn := hx y (by simp)
    unfold insertDue
    split
    · rename_i c
      refine ⟨by simp, List.pairwise_cons.2 ⟨fun z hz => ?_, h⟩⟩
      rcases List.mem_cons.1 hz with rfl | hz
      · unfold dueBefore
        omega
      · have := hy z hz
        unfold dueBefore at this ⊢
        omega
    · rename_i c
      refine ⟨fun z hz => ?_, List.pairwise_cons.2 ⟨fun z hz => ?_, ib⟩⟩
      · rcases List.mem_cons.1 hz with rfl | hz
        · simp
        · exact (ia z hz).imp id (List.mem_cons_of_mem _)
      · rcases ia z hz with rfl | hz
        · unfold dueBefore
          omega
        · exact hy z hz

/-- The zone due list stays in its order. -/
theorem updateDue_ordered (n due : Nat) {l : List (Nat × Nat)} (h : l.Pairwise dueBefore) :
    (updateDue n due l).Pairwise dueBefore := by
  unfold updateDue
  split
  · exact (insertDue_ordered (fun y hy => by simpa using (List.mem_filter.1 hy).2) (h.filter _)).2
  · exact h.filter _

/-- The contributions of an entry stay in station order. -/
theorem insertContrib_ordered (n m : Nat) {l : List (Nat × Nat)} (h : l.Pairwise fun x y => x.1 < y.1) :
    (∀ z ∈ insertContrib n m l, z = (n, m) ∨ z ∈ l) ∧ (insertContrib n m l).Pairwise fun x y => x.1 < y.1 := by
  induction l with
  | nil => simp [insertContrib]
  | cons x xs ih =>
    obtain ⟨hx, hp⟩ := List.pairwise_cons.1 h
    obtain ⟨ia, ib⟩ := ih hp
    unfold insertContrib
    split
    · rename_i c
      refine ⟨by simp, List.pairwise_cons.2 ⟨fun z hz => ?_, h⟩⟩
      rcases List.mem_cons.1 hz with rfl | hz
      · exact c
      · exact Nat.lt_trans c (hx z hz)
    split
    · rename_i c
      refine ⟨fun z hz => ?_, List.pairwise_cons.2 ⟨fun z hz => ?_, hp⟩⟩
      · rcases List.mem_cons.1 hz with rfl | hz
        · simp
        · exact Or.inr (List.mem_cons_of_mem _ hz)
      · have := hx z hz
        simp only
        omega
    · refine ⟨fun z hz => ?_, List.pairwise_cons.2 ⟨fun z hz => ?_, ib⟩⟩
      · rcases List.mem_cons.1 hz with rfl | hz
        · simp
        · exact (ia z hz).imp id (List.mem_cons_of_mem _)
      · rcases ia z hz with rfl | hz
        · simp only
          omega
        · exact hx z hz

/-! ### The want list -/

theorem headWant_none {s : State} (h : ∀ w ∈ s.repl.want, w.cands = []) : s.headWant = none := by
  simp only [State.headWant, List.find?_eq_none]
  intro w hw
  simp [h w hw]

/-- The head is the first entry with a candidate. -/
theorem headWant_some {s : State} {before after : List WantEntry} {e : WantEntry}
    (h : s.repl.want = before ++ e :: after) (hb : ∀ w ∈ before, w.cands = []) (he : e.cands ≠ []) :
    s.headWant = some e := by
  have hn : before.find? (fun w => !w.cands.isEmpty) = none := by
    rw [List.find?_eq_none]
    intro w hw
    simp [hb w hw]
  simp [State.headWant, h, List.find?_append, hn, he]

/-! ### The minutes of a walk (R82 to R84) -/

theorem treatsFrom_length (t : TariffSet) (minute n : Nat) : (treatsFrom t minute n).length = n := by
  induction n generalizing minute with
  | zero => rfl
  | succ n ih => simp [treatsFrom, ih]

theorem treatsFrom_get (t : TariffSet) (minute n i : Nat) (h : i < n) :
    (treatsFrom t minute n)[i]? = some (treatmentAt t (minute + i)) := by
  induction n generalizing minute i with
  | zero => omega
  | succ n ih =>
    cases i with
    | zero => simp [treatsFrom]
    | succ i =>
      simp only [treatsFrom, List.getElem?_cons_succ]
      rw [ih _ _ (by omega)]
      congr 2
      omega

theorem firstCharged_none (i : Nat) (l : List Treatment) (h : ∀ (a j : Nat), l[a]? ≠ some (.charged j)) :
    firstCharged i l = none := by
  induction l generalizing i with
  | nil => rfl
  | cons x rest ih =>
    have hr := ih (i + 1) fun a j => by simpa using h (a + 1) j
    cases x with
    | charged k => exact absurd rfl (h 0 k)
    | _ => simpa [firstCharged] using hr

theorem firstCharged_some (i first k : Nat) (l : List Treatment) (h : l[first]? = some (.charged k))
    (hb : ∀ a, a < first → ∀ j, l[a]? ≠ some (.charged j)) : firstCharged i l = some (i + first, k) := by
  induction l generalizing i first with
  | nil => simp at h
  | cons x rest ih =>
    cases first with
    | zero =>
      simp only [List.getElem?_cons_zero, Option.some.injEq] at h
      subst h
      rfl
    | succ first =>
      have hr := ih (i + 1) first (by simpa using h) fun a ha j => by simpa using hb (a + 1) (by omega) j
      cases x with
      | charged j => exact absurd rfl (hb 0 (by omega) j)
      | _ =>
        simp only [firstCharged, hr, Option.some.injEq, Prod.mk.injEq, and_true]
        omega

/-! ### The steps of a ladder (R85 to R88) -/

/-- `upTo p s fuel` is the last count reached from `s` over counts that satisfy `p`: the next one fails, unless the fuel has
run out. -/
theorem upTo_spec (p : Nat → Bool) (s fuel : Nat) :
    s ≤ upTo p s fuel ∧ upTo p s fuel ≤ s + fuel ∧ (∀ j, s < j → j ≤ upTo p s fuel → p j = true)
      ∧ (upTo p s fuel < s + fuel → p (upTo p s fuel + 1) = false) := by
  induction fuel generalizing s with
  | zero => exact ⟨le_refl _, le_refl _, fun j h1 h2 => absurd h2 (Nat.not_le.2 h1), fun h => absurd h (lt_irrefl _)⟩
  | succ fuel ih =>
    unfold upTo
    split
    · rename_i hp
      obtain ⟨a, b, c, d⟩ := ih (s + 1)
      refine ⟨by omega, by omega, fun j h1 h2 => ?_, fun h => d (by omega)⟩
      by_cases h : j = s + 1
      · exact h ▸ hp
      · exact c j (by omega) h2
    · rename_i hp
      exact ⟨le_refl _, by omega, fun j h1 h2 => absurd h2 (Nat.not_le.2 h1), fun _ => by simpa using hp⟩

/-! ### The checks on a tariff set (R66) -/

theorem firstBad_none {α : Type} (bad : α → Bool) (xs : List α) :
    firstBad bad xs = none ↔ ∀ x ∈ xs, bad x = false := by
  simp [firstBad, List.findIdx?_eq_none_iff]

theorem firstBad_some {α : Type} {bad : α → Bool} {xs : List α} {i : Nat} {x : α} (h : xs[i]? = some x)
    (hx : bad x = true) (hb : ∀ j y, j < i → xs[j]? = some y → bad y = false) : firstBad bad xs = some i := by
  unfold firstBad
  rw [List.findIdx?_eq_some_iff_getElem]
  obtain ⟨hi, e⟩ := List.getElem?_eq_some_iff.1 h
  refine ⟨hi, e ▸ hx, fun j hj => ?_⟩
  simp [hb j xs[j] hj (List.getElem?_eq_getElem _)]

theorem bandsBad_none (i : Nat) (ls : List Ladder) : bandsBad i ls = none ↔ ∀ l ∈ ls, ladderBandBad l = none := by
  induction ls generalizing i with
  | nil => simp [bandsBad]
  | cons l rest ih => cases h : ladderBandBad l <;> simp [bandsBad, h, ih]

theorem bandsBad_some (k : Nat) {ls : List Ladder} {i r : Nat} {l : Ladder} (h : ls[i]? = some l)
    (hr : ladderBandBad l = some r) (hb : ∀ j m, j < i → ls[j]? = some m → ladderBandBad m = none) :
    bandsBad k ls = some (k + i, r) := by
  induction ls generalizing i k with
  | nil => simp at h
  | cons x rest ih =>
    cases i with
    | zero =>
      simp only [List.getElem?_cons_zero, Option.some.injEq] at h
      subst h
      simp [bandsBad, hr]
    | succ i =>
      simp only [bandsBad, hb 0 x (by omega) rfl]
      rw [ih (k + 1) (by simpa using h) fun j m hj hm => hb (j + 1) m (by omega) (by simpa using hm)]
      congr 2
      omega

/-- No entry clashes: none with one already seen, and no two of the list. -/
theorem clash_none {α : Type} (bad : α → α → Bool) (seen xs : List α) :
    clash bad seen xs = none ↔
      (∀ x ∈ seen, ∀ y ∈ xs, bad x y = false) ∧ xs.Pairwise fun x y => bad x y = false := by
  induction xs generalizing seen with
  | nil => simp [clash]
  | cons x rest ih =>
    unfold clash
    split
    · rename_i h
      simp only [List.any_eq_true] at h
      obtain ⟨z, hz, hb⟩ := h
      simp only [reduceCtorEq, false_iff, not_and]
      intro hh
      simp [hh z hz x (by simp)] at hb
    · rename_i h
      simp only [List.any_eq_true, not_exists, not_and, Bool.not_eq_true] at h
      rw [ih, List.pairwise_cons]
      constructor
      · rintro ⟨a, b⟩
        refine ⟨fun w hw y hy => ?_, fun y hy => a x (by simp) y hy, b⟩
        rcases List.mem_cons.1 hy with rfl | hy
        · exact h w hw
        · exact a w (by simp [hw]) y hy
      · rintro ⟨a, b, c⟩
        refine ⟨fun w hw y hy => ?_, c⟩
        rcases List.mem_append.1 hw with hw | hw
        · exact a w hw y (by simp [hy])
        · rw [List.mem_singleton.1 hw]
          exact b y hy

/-- The first entry that clashes with one seen or with an earlier one. -/
theorem clash_some {α : Type} {bad : α → α → Bool} {seen xs : List α} {i : Nat} {p : α} (h : xs[i]? = some p)
    (hx : ∃ q ∈ seen ++ xs.take i, bad q p = true)
    (hb : clash bad seen (xs.take i) = none) : clash bad seen xs = some (seen.length + i) := by
  induction xs generalizing seen i with
  | nil => simp at h
  | cons x rest ih =>
    unfold clash
    cases i with
    | zero =>
      simp only [List.getElem?_cons_zero, Option.some.injEq] at h
      subst h
      rw [if_pos (by simpa using hx)]
      rfl
    | succ i =>
      simp only [List.take_succ_cons, clash] at hb
      split at hb
      · exact absurd hb (by simp)
      · rename_i hn
        rw [if_neg hn, ih (seen := seen ++ [x]) (by simpa using h) (by simpa using hx) hb]
        simp
        omega

/-! ### The entry that a full fault table displaces (R166) -/

theorem evictBefore_iff (a b : FaultEntry) :
    evictBefore a b = true ↔
      (a.lastRaised = none ∧ b.lastRaised.isSome = true)
        ∨ (∃ x y, a.lastRaised = some x ∧ b.lastRaised = some y ∧ x < y)
        ∨ (a.lastRaised = b.lastRaised ∧ faultBefore a b = true) := by
  cases h1 : a.lastRaised <;> cases h2 : b.lastRaised <;> simp [evictBefore, h1, h2]

theorem firstEvicted_none (l : List FaultEntry) : firstEvicted l = none ↔ l = [] := by
  cases l with
  | nil => simp [firstEvicted]
  | cons a rest => unfold firstEvicted; (repeat' split) <;> simp

/-- The entry found is of the list, and no entry of the list is evicted before it. -/
theorem firstEvicted_spec {l : List FaultEntry} {x : FaultEntry} (h : firstEvicted l = some x) :
    x ∈ l ∧ ∀ e ∈ l, evictBefore e x = false := by
  have irrefl : ∀ e, evictBefore e e = false := by
    intro e
    rw [Bool.eq_false_iff, Ne, evictBefore_iff]
    rintro (⟨a, b⟩ | ⟨p, q, a, b, c⟩ | ⟨-, a⟩)
    · simp [a] at b
    · rw [a] at b
      cases b
      omega
    · simp [faultBefore, keyBefore] at a
  have trans : ∀ a b c, evictBefore a b = true → evictBefore b c = true → evictBefore a c = true := by
    intro a b c
    simp only [evictBefore_iff, faultBefore, keyBefore, Bool.or_eq_true, Bool.and_eq_true, decide_eq_true_eq, beq_iff_eq]
    cases a.lastRaised <;> cases b.lastRaised <;> cases c.lastRaised <;> simp <;> omega
  induction l generalizing x with
  | nil => simp [firstEvicted] at h
  | cons e rest ih =>
    unfold firstEvicted at h
    cases hr : firstEvicted rest with
    | none =>
      simp only [hr, Option.some.injEq] at h
      subst h
      simp [(firstEvicted_none rest).1 hr, irrefl]
    | some f =>
      obtain ⟨hm, hf⟩ := ih hr
      simp only [hr] at h
      split at h
      · rename_i hlt
        cases h
        refine ⟨by simp, fun y hy => ?_⟩
        rcases List.mem_cons.1 hy with rfl | hy
        · exact irrefl _
        · rw [Bool.eq_false_iff]
          intro hh
          exact absurd (trans _ _ _ hh hlt) (by simp [hf y hy])
      · rename_i hlt
        cases h
        refine ⟨by simp [hm], fun y hy => ?_⟩
        rcases List.mem_cons.1 hy with rfl | hy
        · simpa using hlt
        · exact hf y hy

/-- Where a key stands in a list, the highest key of the list is held and none below it. -/
theorem highestKey_max : ∀ (l : List (Option Key)) (k : Key),
    some k ∈ l → ∃ h, highestKey l = some h ∧ Key.higher k h = false := by
  intro l
  induction l with
  | nil => simp
  | cons a rest ih =>
    intro k hk
    cases a with
    | none => exact ih k (by simpa using hk)
    | some b =>
      cases e : highestKey rest with
      | none =>
        have := (highestKey_none.1 e)
        have : k = b := by
          rcases List.mem_cons.1 hk with h | h
          · simpa using h
          · exact absurd h (this k)
        subst this
        exact ⟨k, by simp [highestKey, e, Key.higherOpt], by simp [Key.higher]⟩
      | some h =>
        have irr : Key.higher b b = false := by simp [Key.higher]
        by_cases c : Key.higher b h = true
        · refine ⟨b, by simp [highestKey, e, Key.higherOpt, c], ?_⟩
          rcases List.mem_cons.1 hk with x | x
          · obtain rfl : k = b := by simpa using x
            exact irr
          · obtain ⟨h', e', n⟩ := ih k x
            obtain rfl : h = h' := by simpa [e] using e'
            simp [Key.higher] at c n ⊢; omega
        · refine ⟨h, by simp [highestKey, e, Key.higherOpt, c], ?_⟩
          rcases List.mem_cons.1 hk with x | x
          · obtain rfl : k = b := by simpa using x
            simpa using c
          · obtain ⟨h', e', n⟩ := ih k x
            obtain rfl : h = h' := by simpa [e] using e'
            exact n

/-- The largest of a list is within a bound where every number is. -/
theorem maxOf_le (l : List Nat) (n : Nat) : maxOf l ≤ n ↔ ∀ x ∈ l, x ≤ n := by
  have h : ∀ (l : List Nat) (a : Nat), l.foldl max a ≤ n ↔ a ≤ n ∧ ∀ x ∈ l, x ≤ n := by
    intro l
    induction l with
    | nil => simp
    | cons b r ih =>
      intro a
      simp only [List.foldl_cons, ih, List.mem_cons, forall_eq_or_imp, Nat.max_le, and_assoc]
  simp [maxOf, h]

/-- No number stands twice. -/
theorem noRepeat_iff (l : List Nat) : noRepeat l = true ↔ l.Nodup := by
  induction l with
  | nil => simp [noRepeat]
  | cons a r ih => simp [noRepeat, ih]

/-! ### Insertion in a list of numbers -/

theorem mem_insertNat (n m : Nat) (l : List Nat) : m ∈ insertNat n l ↔ m = n ∨ m ∈ l := by
  induction l with
  | nil => simp [insertNat]
  | cons x xs ih =>
    simp only [insertNat]
    split
    · simp
    · split
      · simp_all
      · simp only [List.mem_cons, ih]; grind

theorem insertNat_ordered (n : Nat) {l : List Nat} (h : l.Pairwise (· < ·)) : (insertNat n l).Pairwise (· < ·) := by
  induction l with
  | nil => simp [insertNat]
  | cons x xs ih =>
    simp only [List.pairwise_cons] at h
    simp only [insertNat]
    (repeat' split) <;> simp only [List.pairwise_cons, List.mem_cons, mem_insertNat] <;> grind

end Sys2Proof.Machine
end

