-- ==== Sys2Proof/Laws/Slots.lean ====
section
/-! SUPPORT. What keeps the tariff slots as the pin has them (`SlotsInv`): one lemma for each change of the slots, the pin or
the draft. -/

namespace Sys2Proof.Machine

theorem Key.higher_irrefl (a : Key) : Key.higher a a = false := by simp [Key.higher]

theorem Key.higher_trans {a b c : Key} (h1 : Key.higher a b = true) (h2 : Key.higher b c = true) :
    Key.higher a c = true := by
  simp only [Key.higher, Bool.or_eq_true, decide_eq_true_eq, Bool.and_eq_true, beq_iff_eq] at *
  omega

/-- A set under a key. -/
theorem slotKey_keyed {p : Option TariffSet} (hk : ∀ x, p = some x → x.key.isSome = true) (hp : p.isSome = true) :
    ∃ a, slotKey p = some a := by
  obtain ⟨x, rfl⟩ := Option.isSome_iff_exists.1 hp
  simpa [slotKey, Option.isSome_iff_exists] using hk x rfl

theorem slotKey_isSome {p : Option TariffSet} {a : Key} (h : slotKey p = some a) : p.isSome = true := by
  cases p with
  | none => simp [slotKey] at h
  | some x => rfl

/-- The outgoing ACTIVE set is kept exactly where its key is the pin (R72). -/
theorem keepsOld_iff (t : Tariff) : keepsOld t = true ↔ ∃ a, slotKey t.active = some a ∧ t.pin = some a := by
  unfold keepsOld
  cases h : slotKey t.active with
  | none => simp
  | some a => simpa using (eq_comm : some a = t.pin ↔ t.pin = some a)

namespace SlotsInv

variable {su : Option SetupRecord} {t : Tariff}

/-- Without a pin nothing is retired. -/
theorem retired_none (h : SlotsInv su t) (hp : t.pin = none) : t.retired = none := by
  simpa [hp] using h.occupied

/-- The draft is no slot. -/
theorem draft (h : SlotsInv su t) (d : Option Draft) : SlotsInv su { t with draft := d } := ⟨h.1, h.2, h.3, h.4, h.5, h.6, h.7⟩

/-- The release of the pin empties RETIRED (R73), whatever the Setup record becomes. -/
theorem release (h : SlotsInv su t) (su' : Option SetupRecord) : SlotsInv su' { t with pin := none, retired := none } :=
  ⟨h.1, h.2, h.3, by simp, by simp, by simp, by simp [slotKey]⟩

/-- A reset: the pin released, the draft absent (R68, R76). -/
theorem reset (h : SlotsInv su t) (su' : Option SetupRecord) :
    SlotsInv su' { t with retired := none, pin := none, draft := none } :=
  (h.release su').draft none

/-- A Setup with no pin held. -/
theorem setUp (h : SlotsInv su t) (hp : t.pin = none) (su' : Option SetupRecord) : SlotsInv su' t :=
  ⟨h.1, h.2, h.3, by simp [hp], h.5, h.6, h.7⟩

/-- A new home discards ACTIVE and PENDING; no pin is held then (R188). -/
theorem discard (h : SlotsInv su t) (hp : t.pin = none) (su' : Option SetupRecord) :
    SlotsInv su' { t with active := none, pending := none } := by
  have hr := h.retired_none hp
  constructor <;> simp [hp, hr, slotKey]

/-- SALE_OPEN pins the ACTIVE key where none is pinned (R72, R93). -/
theorem take (h : SlotsInv su t) (hp : t.pin = none) (hs : su.isSome = true) {k : Key} (hk : slotKey t.active = some k) :
    SlotsInv su { t with pin := some k } := by
  have hr := h.retired_none hp
  refine ⟨h.1, h.2, h.3, fun _ => ⟨hs, slotKey_isSome hk⟩, ?_, ?_, h.7⟩
  · simp [hr, hk]
  · simp [hr]

/-- ACTIVE takes a set of a higher key, and what PENDING becomes is higher still or nothing (R69, R71, R81). -/
theorem takeActive (h : SlotsInv su t) {new : TariffSet} {k : Key} (hk : new.key = some k)
    (hh : Key.higherOpt k (slotKey t.active) = true) (pending : Option TariffSet)
    (hp : ∀ x, pending = some x → ∃ p, x.key = some p ∧ Key.higher p k = true) :
    SlotsInv su { Machine.takeActive new t with pending := pending } := by
  have lower : ∀ a, slotKey t.active = some a → Key.higher k a = true := by
    intro a ha; simpa [Key.higherOpt, ha] using hh
  have pinLower : ∀ p, t.pin = some p → Key.higher k p = true := by
    intro p hpin
    obtain ⟨a, ha⟩ := slotKey_keyed h.activeKey (h.pinned (by simp [hpin])).2
    by_cases e : t.pin = slotKey t.active
    · rw [hpin, ha] at e; cases e; exact lower _ ha
    · have hr := h.occupied.2 ⟨by simp [hpin], e⟩
      exact Key.higher_trans (lower a ha) (h.retiredLower p a (by rw [h.retiredKey hr, hpin]) ha)
  have pinOther : t.pin ≠ some k := by
    intro e; simpa [Key.higher_irrefl] using pinLower k e
  have retired : ∀ r, (Machine.takeActive new t).retired = r →
      (r.isSome = true ↔ t.pin.isSome = true) ∧ (r.isSome = true → slotKey r = t.pin) := by
    rintro _ rfl
    simp only [Machine.takeActive]
    by_cases hko : keepsOld t = true
    · obtain ⟨a, ha, hpin⟩ := (keepsOld_iff t).1 hko
      simp [hko, slotKey_isSome ha, ha, hpin]
    · simp only [hko, if_false, Bool.false_eq_true]
      refine ⟨⟨fun hr => (h.occupied.1 hr).1, fun hpin => h.occupied.2 ⟨hpin, fun e => hko ?_⟩⟩, h.retiredKey⟩
      obtain ⟨a, ha⟩ := slotKey_keyed h.activeKey (h.pinned hpin).2
      exact (keepsOld_iff t).2 ⟨a, ha, e.trans ha⟩
  have nk : slotKey (some new) = some k := by simp [slotKey, hk]
  constructor
  · rintro x hx; cases hx; simp [hk]
  · intro x hx; obtain ⟨p, e, -⟩ := hp x hx; simp [e]
  · intro a p ha hq
    have : a = k := Option.some.inj (ha.symm.trans nk)
    subst this
    cases hx : pending with
    | none => simp [hx, slotKey] at hq
    | some x =>
      obtain ⟨q, e, hq'⟩ := hp x hx
      simp only [hx, slotKey, Option.bind_some, e, Option.some.injEq] at hq
      exact hq ▸ hq'
  · intro hpin; exact ⟨(h.pinned hpin).1, rfl⟩
  · refine (retired _ rfl).1.trans ⟨fun hpin => ⟨hpin, ?_⟩, fun x => x.1⟩
    intro e; exact pinOther (e.trans nk)
  · exact (retired _ rfl).2
  · intro r a hr ha
    have : a = k := Option.some.inj (ha.symm.trans nk)
    subst this
    exact pinLower r (by rw [← hr]; exact ((retired _ rfl).2 (slotKey_isSome hr)).symm)

/-- PENDING takes a set of a key higher than ACTIVE's (R69, R81). -/
theorem takePending (h : SlotsInv su t) {new : TariffSet} {k : Key} (hk : new.key = some k)
    (hh : Key.higherOpt k (slotKey t.active) = true) : SlotsInv su { t with pending := some new } := by
  refine ⟨h.1, ?_, ?_, h.4, h.5, h.6, h.7⟩
  · rintro x hx; cases hx; simp [hk]
  · intro a p ha hp
    have : p = k := Option.some.inj (hp.symm.trans hk)
    subst this
    simpa [Key.higherOpt, ha] using hh

/-- What an install leaves in PENDING beside a new ACTIVE set is higher than it (R69). -/
theorem pendingAbove_higher {k : Key} {p : Option TariffSet} {x : TariffSet} (hx : pendingAbove (some k) p = some x) :
    ∃ q, x.key = some q ∧ Key.higher q k = true := by
  unfold pendingAbove at hx
  split at hx
  · rename_i a b q hk hq
    cases hk
    split at hx
    · subst hx; exact ⟨q, by simpa [slotKey] using hq, ‹_›⟩
    · cases hx
  · cases hx

/-- An install to a slot of a set whose key is higher than the ACTIVE one (R69, R81). -/
theorem install (h : SlotsInv su t) (slot : TariffSlot) {new : TariffSet} {k : Key} (hk : new.key = some k)
    (hh : Key.higherOpt k (slotKey t.active) = true) : SlotsInv su (installAt slot new t) := by
  cases slot with
  | active => exact h.takeActive hk hh _ fun x hx => pendingAbove_higher (hk ▸ hx)
  | pending => exact h.takePending hk hh
  | retired => exact h

/-- The changeover: PENDING becomes ACTIVE (R71). -/
theorem changeover (h : SlotsInv su t) {p : TariffSet} (hp : t.pending = some p) :
    SlotsInv su { Machine.takeActive p t with pending := none } := by
  obtain ⟨k, hk⟩ := Option.isSome_iff_exists.1 (h.pendingKey p hp)
  refine h.takeActive hk ?_ none (by simp)
  cases ha : slotKey t.active with
  | none => rfl
  | some a => exact h.order a k ha (by simp [hp, slotKey, hk])

end SlotsInv

end Sys2Proof.Machine
end

