-- ==== Sys2Proof/Laws/Invariants.lean ====
section
/-! SUPPORT. What keeps the zone clock's fields together (`ClockInv`) and a sale with its mark, its pin and the tariff slots
(`SaleInv`): every operation that `Laws/Frames.lean` does not already show to leave them alone. -/

namespace Sys2Proof.Machine

/-- A command keeps what its effect and the putting in order keep. -/
theorem act_inv {P : State → Prop} {f : State → State} {s t : State} (hs : ∀ t, P t → P (settle t))
    (h0 : P s) (hf : P (f s)) (h : act f s = .next t) : P t := by
  unfold act at h; split at h <;> (cases h; first | assumption | exact hs _ hf)

/-! ### The zone clock -/

theorem clock_of_eq {s t : State} (h : ClockInv s.clock) (e : t.clock = s.clock) : ClockInv t.clock := e ▸ h

theorem setQuality_clock {q} {s : State} (hq : q ≤ 3) (h : ClockInv s.clock) (hz : s.clock.zone.isSome) :
    ClockInv (setQuality q s).clock := by
  obtain ⟨a,b,c,d,e⟩ := h
  constructor <;> simp_all [setQuality]

theorem setZone_clock_eq (new) (s : State) :
    (setZone new s).clock.zone = some new ∧ (setZone new s).clock.quality = s.clock.quality ∧
      (setZone new s).clock.ageStart = s.clock.ageStart ∧ (setZone new s).clock.elapsed = s.clock.elapsed := by
  unfold setZone makeRollover
  split
  · simp [moveZone]
  · split <;> simp [moveZone]

theorem setZone_clock {new} {s : State} (hq : s.clock.quality.isSome) (ha : s.clock.ageStart.isSome)
    (h1 : s.clock.elapsed < 2 ^ 48) (hr : ∀ q, s.clock.quality = some q → q ≤ 3) (hn : new ≤ zoneMax) :
    ClockInv (setZone new s).clock := by
  obtain ⟨a,b,c,d⟩ := setZone_clock_eq new s
  constructor <;> simp_all

theorem judgeTime_clock (sender r a) (s : State) (h : ClockInv s.clock) :
    ClockInv (judgeTime sender r a s).clock := by
  have hm : senderTime a r ≤ zoneMax := by simp [senderTime]
  obtain ⟨a1,b,c,d,e⟩ := id h
  unfold judgeTime
  split
  · exact h
  · rename_i q hq
    dsimp only
    split
    · exact h
    · split
      · rename_i hz
        simp
        apply setZone_clock <;> simp [setQuality, *] <;> omega
      · rename_i old hz
        have hq' : s.clock.quality.isSome := by simp_all
        obtain ⟨q0, hq0⟩ := Option.isSome_iff_exists.1 hq'
        have := e q0 hq0
        (repeat' split) <;> first
          | exact h
          | (simp only [postAdopted_keeps]; apply setZone_clock <;> simp_all [setQuality] <;> omega)
          | (apply setZone_clock <;> simp_all [setQuality] <;> omega)

theorem tick_clock (c : Clock) (h : ClockInv c) : ClockInv (tickClock c) := by
  obtain ⟨a,b,cc,d,e⟩ := h
  have := fun n => (Config.elapsedBeyondRange n).isLt
  have hn : (nextElapsed c).1 < 2 ^ 48 := by
    unfold nextElapsed
    split
    · simp; omega
    · simpa using this _
  unfold tickClock
  dsimp only
  cases hz : c.zone with
  | none => constructor <;> simp_all
  | some z =>
    have := d z hz
    simp only []
    split <;> constructor <;> simp_all


theorem resetPart_clock (k) (s : State) : ClockInv (resetPart k s).clock := by
  constructor <;> simp [resetPart, Clock.afterReset]

theorem setTimeBody_clock (n) (s : State) (h : ClockInv s.clock) : ClockInv (setTimeBody n s).2.2.clock := by
  unfold setTimeBody
  split
  · exact h
  · simp only [okay_keeps]
    apply setZone_clock <;> (try simp [setQuality, zoneMax])
    · exact h.elapsed
    · omega

theorem giveMark_clock (m) (f : State → State) (s : State) (h : ClockInv s.clock) (hf : ∀ t, (f t).clock = t.clock) :
    ClockInv (giveMark m f s).clock := by
  unfold giveMark
  split
  · rw [hf]; obtain ⟨a,b,c,d,e⟩ := h; constructor <;> simp_all
  · exact h

theorem makeRollover_clock (s : State) (h : ClockInv s.clock) : ClockInv (makeRollover s).clock := by
  unfold makeRollover
  split
  · exact h
  · split
    · obtain ⟨a,b,c,d,e⟩ := h; constructor <;> simp_all
    · exact h

theorem takeAnnounce_clock (n r a) (s : State) (h : ClockInv s.clock) : ClockInv (takeAnnounce n r a s).clock := by
  unfold takeAnnounce
  simp
  apply judgeTime_clock; simpa using h

theorem guarded_clock (roles) (f : State → Answer) (s : State) (h : ClockInv s.clock) (hf : ∀ t, ClockInv t.clock → ClockInv (f t).2.2.clock) :
    ClockInv (guarded roles f s).2.2.clock := by
  unfold guarded; (repeat' split) <;> first | exact h | exact hf _ h

theorem onWrite_clock (f : State → State) (s : State) (h : ClockInv s.clock) (hf : ∀ t, ClockInv t.clock → ClockInv (f t).clock) :
    ClockInv (onWrite f s).clock := by
  unfold onWrite; split <;> first | exact h | exact hf _ h

theorem ageOver_clock (s : State) (h : ClockInv s.clock) (ha : s.ageOver = true) :
    ClockInv (setQuality (s.clock.quality.getD 0 - 1) s).clock := by
  unfold State.ageOver at ha
  split at ha
  · rename_i q t hq ht
    have := h.qualityRange q hq
    apply setQuality_clock
    · simp [hq]; omega
    · exact h
    · have := h.quality; simp_all
  · simp at ha

/-! ### The sale, its mark, its pin and the tariff slots -/

theorem sale_of_eq {s t : State} (h : SaleInv s) (e1 : t.sales = s.sales) (e2 : t.tariff = s.tariff)
    (e3 : t.port.setup = s.port.setup) : SaleInv t :=
  ⟨by rw [e1]; exact h.mark, by rw [e1, e2]; exact h.pin, by rw [e2, e3]; exact h.slots⟩

/-- A change of the slots or the draft that leaves the pin. -/
theorem sale_of_slots {s t : State} (h : SaleInv s) (e1 : t.sales = s.sales) (e2 : t.tariff.pin = s.tariff.pin)
    (hs : SlotsInv t.port.setup t.tariff) : SaleInv t :=
  ⟨by rw [e1]; exact h.mark, by rw [e1, e2]; exact h.pin, hs⟩

/-- No sale is open before Setup. -/
theorem SaleInv.closed {s : State} (h : SaleInv s) (hs : s.port.setup = none) : s.tariff.pin = none := by
  cases hp : s.tariff.pin with
  | none => rfl
  | some k => simpa [hs] using (h.slots.pinned (by simp [hp])).1

/-- With no sale open no key is pinned. -/
theorem SaleInv.unpinned {s : State} (h : SaleInv s) (hs : s.sales.sale = none) : s.tariff.pin = none := by
  simpa [hs] using h.pin

theorem setSale_sale (r : Sale) {s : State} (h : SaleInv s) (hs : s.sales.sale.isSome = true) :
    SaleInv (setSale r s) :=
  ⟨by simpa [hs] using h.mark, by simpa [hs] using h.pin, h.slots⟩

theorem releasePin_tariff (s : State) : (releasePin s).tariff = { s.tariff with pin := none, retired := none } := by
  unfold releasePin
  dsimp only
  split <;> simp

theorem endSale_sale {s : State} (h : SlotsInv s.port.setup s.tariff) : SaleInv (endSale s) := by
  have hr := h.release s.port.setup
  unfold endSale
  constructor <;> simp [releasePin_tariff, hr]

theorem abandonSale_sale (cause : AbandonCause) {s : State} (h : SaleInv s) : SaleInv (abandonSale cause s) := by
  unfold abandonSale
  split
  · exact h
  · exact endSale_sale (by simpa using h.slots)

theorem enterDormant_sale {s : State} (h : SaleInv s) : SaleInv (enterDormant s) := by
  unfold enterDormant
  have h1 : SaleInv { s with power := dormantPower s.clock.elapsed s.zoneSec s.power } := sale_of_eq h rfl rfl rfl
  exact sale_of_eq (abandonSale_sale .dormant h1) (by simp) (by simp) (by simp)

theorem setDormantDue_sale {s : State} (h : SaleInv s) : SaleInv (setDormantDue s) := by
  unfold setDormantDue
  dsimp only
  split
  · exact enterDormant_sale (sale_of_eq h rfl rfl rfl)
  · exact sale_of_eq h rfl rfl rfl

theorem restEffect_sale {s : State} (h : SaleInv s) : SaleInv (restEffect s) := by
  unfold restEffect
  dsimp only
  (repeat' split)
  · exact setDormantDue_sale (sale_of_eq h (by simp) (by simp) (by simp))
  · exact sale_of_eq h (by simp) (by simp) (by simp)
  · exact sale_of_eq h rfl rfl rfl

theorem resetPart_sale (kind : ResetKind) {s : State} (h : SaleInv s) : SaleInv (resetPart kind s) :=
  ⟨rfl, rfl, h.slots.reset none⟩

theorem ownSlot_sale (zone : Nat) {s : State} (h : SaleInv s) : SaleInv (ownSlot zone s) := by
  unfold ownSlot
  (repeat' split)
  · exact sale_of_eq h (by simp) (by simp) (by simp)
  · exact enterDormant_sale h
  · exact h

theorem readOut_sale (whole : Bool) {s : State} (h : SaleInv s) : SaleInv (readOut whole s) := by
  unfold readOut
  (repeat' split)
  · exact sale_of_eq h (by simp) (by simp) (by simp)
  · exact restEffect_sale (sale_of_eq h (by simp) (by simp) (by simp))
  · exact sale_of_eq h (by simp) (by simp) (by simp)

theorem supplyAsserted_sale {s : State} (h : SaleInv s) : SaleInv (supplyAsserted s) := by
  unfold supplyAsserted
  split
  · exact sale_of_eq h (by simp) (by simp) (by simp)
  · exact setDormantDue_sale h
  · exact h

/-! What the judgement of a sale command may do to the sale: it goes on with the record, or ends it. -/

theorem taken_sale (r : Sale) {s : State} (h : SaleInv s) (hs : s.sales.sale.isSome = true) :
    SaleInv (taken r s).2.2 := by
  exact setSale_sale (requoted s r) h hs

theorem takenPermit_sale (check : CheckResult) (r : Sale) {s : State} (h : SaleInv s) (hs :
    s.sales.sale.isSome = true) :
    SaleInv (takenPermit check r s).2.2 := by
  exact setSale_sale (requoted s r) h hs

theorem openSale_sale {pin : Key} {s : State} (h : SaleInv s) (hs : s.sales.sale = none)
    (hu : s.port.setup.isSome = true) (hk : slotKey s.tariff.active = some pin) : SaleInv (openSale pin s).2.2 :=
  ⟨rfl, rfl, h.slots.take (h.unpinned hs) hu hk⟩

theorem saleOpenBody_sale {s : State} (h : SaleInv s) (hu : s.port.setup.isSome = true) :
    SaleInv (saleOpenBody s).2.2 := by
  unfold saleOpenBody
  (repeat' split)
  · exact h
  · exact h
  · exact sale_of_eq h (by simp) (by simp) (by simp)
  · exact h
  · rename_i hs _ _ hk _
    exact openSale_sale h (by simpa using hs) hu hk

theorem onSale_sale (body : Sale → State → Answer) {s : State} (h : SaleInv s)
    (hf : ∀ r t, SaleInv t → t.sales.sale.isSome = true → SaleInv (body r t).2.2) : SaleInv (onSale body s).2.2 := by
  unfold onSale
  split
  · exact h
  · rename_i r hr
    exact hf _ _ (setSale_sale _ h (by simp [hr])) (by simp)

theorem saleCoinBody_sale (index : Nat) (r : Sale) {s : State} (h : SaleInv s) (hs : s.sales.sale.isSome = true) :
    SaleInv (saleCoinBody index r s).2.2 := by
  unfold saleCoinBody
  (repeat' split) <;> first
    | exact taken_sale _ h hs
    | exact sale_of_eq h (by simp) (by simp) (by simp)

theorem saleCardBody_sale (amount : Nat) (r : Sale) {s : State} (h : SaleInv s) (hs : s.sales.sale.isSome = true) :
    SaleInv (saleCardBody amount r s).2.2 := by
  unfold saleCardBody
  (repeat' split) <;> first
    | exact taken_sale _ h hs
    | exact sale_of_eq h (by simp) (by simp) (by simp)

theorem salePermitBody_sale (number : Nat) (r : Sale) {s : State} (h : SaleInv s) (hs : s.sales.sale.isSome = true) :
    SaleInv (salePermitBody number r s).2.2 := by
  unfold salePermitBody applyPermit
  (repeat' split) <;> first
    | exact takenPermit_sale _ _ h hs
    | exact sale_of_eq h (by simp) (by simp) (by simp)

theorem saleDurationBody_sale (minutes : Nat) (r : Sale) {s : State} (h : SaleInv s) (hs :
    s.sales.sale.isSome = true) :
    SaleInv (saleDurationBody minutes r s).2.2 := by
  unfold saleDurationBody
  split
  · exact sale_of_eq h (by simp) (by simp) (by simp)
  · exact taken_sale _ h hs

theorem saleCommitBody_sale (r : Sale) {s : State} (h : SaleInv s) (hs : s.sales.sale.isSome = true) :
    SaleInv (saleCommitBody r s).2.2 := by
  have h1 := setSale_sale (requoted s r) h hs
  unfold saleCommitBody judgeCommit
  dsimp only
  (repeat' split) <;> first
    | exact h1
    | exact endSale_sale (by simpa using h1.slots)
    | exact sale_of_eq h1 (by simp) (by simp) (by simp)

theorem saleCancelBody_sale (r : Sale) {s : State} (h : SaleInv s) : SaleInv (saleCancelBody r s).2.2 :=
  endSale_sale h.slots

/-! ### What changes the slots -/

theorem installTariff_sale {new : TariffSet} {k : Key} (hk : new.key = some k) (supplier : Nat) {s : State} (h : SaleInv s) :
    SaleInv (installTariff new supplier s).1 := by
  refine sale_of_slots h (by simp) (by simp) ?_
  unfold installTariff
  split
  · exact h.slots
  · rename_i slot hslot
    obtain ⟨z, -, hz⟩ := Option.bind_eq_some_iff.1 hslot
    have hh : Key.higherOpt k (slotKey s.tariff.active) = true := by
      simp only [installSlot, hk] at hz
      (repeat' split at hz) <;> simp_all
    have := h.slots.install slot hk hh
    dsimp only
    split <;> simpa using this

theorem tariffImageIn_sale (key : Key) (img : List Byte) (supplier : Nat) {s : State} (h : SaleInv s) :
    SaleInv (tariffImageIn key img supplier s).1 := by
  unfold tariffImageIn
  (repeat' split)
  · exact h
  · rename_i hk; exact installTariff_sale hk.1 supplier h
  · exact h

theorem storeImage_sale (i : Intake) {s : State} (h : SaleInv s) : SaleInv (storeImage i s).1 := by
  unfold storeImage
  split
  · exact tariffImageIn_sale _ _ _ h
  · exact sale_of_eq h (by simp) (by simp) (by simp)

theorem takeFragment_sale (i : Intake) (f : FragmentBody) {s : State} (h : SaleInv s) : SaleInv (takeFragment i f s) := by
  have h1 : ∀ w : Option Intake, SaleInv (mapWant i.obj (fun w => { w with timeouts := 0 }) (setIntake w s)) :=
    fun w => sale_of_eq h (by simp) (by simp) (by simp)
  unfold takeFragment
  dsimp only
  split
  · unfold imageComplete
    split
    · unfold storeAnswer
      split <;> rename_i u hu <;>
        refine sale_of_eq (s := u) ?_ (by simp) (by simp) (by simp) <;>
        rw [show u = _ from (congrArg Prod.fst hu).symm] <;>
        exact storeImage_sale _ (sale_of_eq h (by simp) (by simp) (by simp))
    · exact sale_of_eq h (by simp) (by simp) (by simp)
  · exact h1 _

theorem makeChangeover_sale {s : State} (h : SaleInv s) : SaleInv (makeChangeover s) := by
  refine sale_of_slots h (by simp) (by simp) ?_
  unfold makeChangeover
  split
  · exact h.slots
  · rename_i p hp
    simpa using h.slots.changeover hp

theorem changeoverIfDue_sale {s : State} (h : SaleInv s) : SaleInv (changeoverIfDue s) := by
  unfold changeoverIfDue
  split
  · exact makeChangeover_sale h
  · exact h

theorem setZone_sale (new : Nat) {s : State} (h : SaleInv s) : SaleInv (setZone new s) :=
  sale_of_eq (changeoverIfDue_sale (s := moveZone new s) (sale_of_eq h rfl rfl rfl)) (by simp [setZone]) (by simp [setZone])
    (by simp [setZone])

theorem postAdopted_sale (sender : Nat) (outcome : AdoptOutcome) (step : Option Int) {s : State} (h : SaleInv s) :
    SaleInv (postAdopted sender outcome step s) :=
  sale_of_eq h (by simp) (by simp) (by simp)

theorem judgeTime_sale (sender receptionMs : Nat) (a : AnnounceBody) {s : State} (h : SaleInv s) :
    SaleInv (judgeTime sender receptionMs a s) := by
  have hq : ∀ q, SaleInv (setQuality q s) := fun q => sale_of_eq h rfl rfl rfl
  unfold judgeTime
  dsimp only
  (repeat' split) <;> first
    | exact h
    | exact setZone_sale _ h
    | exact setZone_sale _ (hq _)
    | exact postAdopted_sale _ _ _ (setZone_sale _ (hq _))
    | exact postAdopted_sale _ _ _ (setZone_sale _ h)

theorem publish_sale (effectiveFrom zoneSec : Nat) (d : Draft) {s : State} (h : SaleInv s) :
    SaleInv (publish effectiveFrom zoneSec d s).2.2 := by
  refine sale_of_slots h (by simp) (by simp) ?_
  have hh : Key.higherOpt { gen := highestTariffGen s + 1, pub := s.own } (slotKey s.tariff.active) = true := by
    cases ha : slotKey s.tariff.active with
    | none => rfl
    | some a =>
      have : genOf (slotKey s.tariff.active) ≤ highestTariffGen s := (maxOf_le _ _).1 (le_refl _) _ (by simp)
      simp only [ha, genOf, Option.map_some, Option.getD_some] at this
      simp only [Key.higherOpt, Key.higher, Bool.or_eq_true, decide_eq_true_eq]
      omega
  unfold publish
  simpa using (h.slots.install _ rfl hh).draft _

theorem setDraft_sale (d : Option Draft) {s : State} (h : SaleInv s) : SaleInv (setDraft d s) :=
  sale_of_slots h (by simp) (by simp) (h.slots.draft d)

theorem carryOutSetup_sale (r : SetupRecord) {s : State} (h : SaleInv s) (hs : s.port.setup = none) :
    SaleInv (carryOutSetup r s) := by
  have hp := h.closed hs
  have h0 : (carryOutSetup r s).tariff = (if s.port.home = some (r.zone, r.station) then s.tariff
      else { s.tariff with active := none, pending := none }) := by
    unfold carryOutSetup
    dsimp only
    split <;> simp [changeHome]
  refine sale_of_slots h (by simp) (by simp) ?_
  rw [h0]
  split
  · exact h.slots.setUp hp _
  · exact h.slots.discard hp _

/-! ### Commands -/

theorem respond_sale (code : Nat) (a : Answer) (h : SaleInv a.2.2) : SaleInv (respond code a) :=
  sale_of_eq h (by simp) (by simp) (by simp)

theorem onWrite_sale (f : State → State) {s : State} (h : SaleInv s) (hf : ∀ u, SaleInv u → SaleInv (f u)) :
    SaleInv (onWrite f s) := by
  unfold onWrite
  split
  · exact sale_of_eq h (by simp) (by simp) (by simp)
  · exact hf _ h

theorem guarded_sale (roles : State → Bool) (body : State → Answer) {s : State} (h : SaleInv s)
    (hf : ∀ u, SaleInv u → u.port.setup.isSome = true → SaleInv (body u).2.2) : SaleInv (guarded roles body s).2.2 := by
  unfold guarded
  (repeat' split) <;> first
    | exact h
    | (rename_i hd _; exact hf _ h (by simpa [State.setupDone, Option.isSome_iff_ne_none] using hd))

theorem act_sale {f : State → State} {s t : State} (h : SaleInv s) (hf : ∀ u, SaleInv u → SaleInv (f u))
    (e : act f s = .next t) : SaleInv t :=
  act_inv (fun _ hu => sale_of_eq hu (by simp) (by simp) (by simp)) h (hf _ h) e

theorem hostAny_sale {code : Nat} {body : State → Answer} {s t : State} (h : SaleInv s)
    (hf : ∀ u, SaleInv u → SaleInv (body u).2.2) (e : hostAny code body s = .next t) : SaleInv t :=
  act_sale h (fun _ hu => onWrite_sale _ hu fun _ hv => respond_sale _ _ (hf _ hv)) e

theorem host_sale {code : Nat} {roles : State → Bool} {body : State → Answer} {s t : State} (h : SaleInv s)
    (hf : ∀ u, SaleInv u → u.port.setup.isSome = true → SaleInv (body u).2.2) (e : host code roles body s = .next t) :
    SaleInv t :=
  hostAny_sale h (fun _ hu => guarded_sale _ _ hu hf) e

theorem giveMark_sale (m : Mark) {f : State → State} {s : State} (h : SaleInv s) (hf : ∀ u, SaleInv u → SaleInv (f u)) :
    SaleInv (giveMark m f s) := by
  unfold giveMark
  split
  · exact hf _ (sale_of_eq h rfl rfl rfl)
  · exact h

theorem filterFrame_sale {hd : FrameHeader} {b : FrameBody} {f : State → State} {s : State} (h : SaleInv s)
    (hf : ∀ u, SaleInv u → SaleInv (f u)) : SaleInv (filterFrame hd b f s) := by
  unfold filterFrame
  (repeat' split) <;> first
    | exact h
    | exact hf _ h
    | exact hf _ (sale_of_eq h (by simp) (by simp) (by simp))
    | exact sale_of_eq h (by simp) (by simp) (by simp)

theorem trustFrame_sale {hd : FrameHeader} {b : FrameBody} {f : State → State} {s : State} (h : SaleInv s)
    (hf : ∀ u, SaleInv u → SaleInv (f u)) : SaleInv (trustFrame hd b f s) := by
  unfold trustFrame
  (repeat' split) <;> first
    | exact h
    | exact hf _ h
    | exact hf _ (sale_of_eq h (by simp) (by simp) (by simp))
    | exact sale_of_eq h (by simp) (by simp) (by simp)

theorem onFrame_sale {hd : FrameHeader} {b : FrameBody} {f : State → State} {s : State} (h : SaleInv s)
    (hf : ∀ u, SaleInv u → SaleInv (f u)) : SaleInv (onFrame hd b f s) :=
  filterFrame_sale h fun _ hu => trustFrame_sale hu hf

theorem okay_sale (r : Result) {s : State} (h : SaleInv s) : SaleInv (okay r s).2.2 := h

theorem setupBody_sale (p : SetupParams) {s : State} (h : SaleInv s) : SaleInv (setupBody p s).2.2 := by
  unfold setupBody
  (repeat' split)
  · exact h
  · exact h
  · rename_i hd _ r _
    exact okay_sale _ (carryOutSetup_sale r h (by simpa [State.setupDone] using hd))

theorem setTimeBody_sale (seconds : Nat) {s : State} (h : SaleInv s) : SaleInv (setTimeBody seconds s).2.2 := by
  have h3 : SaleInv (setQuality 3 s) := sale_of_eq h (by simp) (by simp) (by simp)
  unfold setTimeBody
  split
  · exact h
  · exact okay_sale _ (setZone_sale _ h3)

theorem takeAnnounce_sale (sender receptionMs : Nat) (a : AnnounceBody) {s : State} (h : SaleInv s) :
    SaleInv (takeAnnounce sender receptionMs a s) := by
  have h1 : SaleInv (takeEntry sender a s) := sale_of_eq h (by simp) (by simp) (by simp)
  unfold takeAnnounce
  exact sale_of_eq (judgeTime_sale sender receptionMs a h1) (by simp) (by simp) (by simp)

theorem judgeFragment_sale (sender : Nat) (f : FragmentBody) {s : State} (h : SaleInv s) :
    SaleInv (judgeFragment sender f s) := by
  unfold judgeFragment
  (repeat' split) <;> first
    | exact h
    | exact takeFragment_sale _ _ h

theorem draftBeginBody_sale (source : Option DraftSource) {s : State} (h : SaleInv s) :
    SaleInv (draftBeginBody source s).2.2 := by
  unfold draftBeginBody beginFrom
  (repeat' split) <;> first
    | exact h
    | exact okay_sale _ (setDraft_sale _ h)

theorem withDraft_sale {body : Draft → State → Answer} {s : State} (h : SaleInv s)
    (hf : ∀ d u, SaleInv u → SaleInv (body d u).2.2) : SaleInv (withDraft body s).2.2 := by
  unfold withDraft
  split
  · exact h
  · exact hf _ _ h

theorem draftSelectBody_sale (part : Option TariffPart) (d : Draft) {s : State} (h : SaleInv s) :
    SaleInv (draftSelectBody part d s).2.2 := by
  unfold draftSelectBody
  (repeat' split) <;> first
    | exact h
    | exact okay_sale _ (setDraft_sale _ h)

theorem draftWriteBody_sale (entry : List Byte) (d : Draft) {s : State} (h : SaleInv s) :
    SaleInv (draftWriteBody entry d s).2.2 := by
  unfold draftWriteBody
  (repeat' split) <;> first
    | exact h
    | exact okay_sale _ (setDraft_sale _ h)

theorem draftReadBody_sale (d : Draft) {s : State} (h : SaleInv s) : SaleInv (draftReadBody d s).2.2 :=
  okay_sale _ (setDraft_sale _ h)

theorem publishBody_sale (effectiveFrom : Nat) (d : Draft) {s : State} (h : SaleInv s) :
    SaleInv (publishBody effectiveFrom d s).2.2 := by
  unfold publishBody
  (repeat' split) <;> first
    | exact h
    | exact publish_sale _ _ _ h

theorem assertSupply_sale {s : State} (h : SaleInv s) : SaleInv (assertSupply s) := by
  unfold assertSupply
  (repeat' split) <;> first
    | exact supplyAsserted_sale (sale_of_eq h (by simp) (by simp) (by simp))
    | exact sale_of_eq h (by simp) (by simp) (by simp)

end Sys2Proof.Machine
end

