-- ==== Sys2Proof/Tests/Slice0.lean ====
section
/-! SUPPORT. Tests: what WellFormed refuses, what the layouts spell, and for every statement with hypotheses a state and operands
that meet them. -/

namespace Sys2Proof.Tests

open Sys2Proof.Machine

set_option Elab.async false

/-! ### States to test on -/

/-- Sense settings within Table 11.2. -/
def senseOn : SenseSettings := { enable := true, input := 0, period := 1, debounce := 2, activeHigh := true }

/-- SETUP parameters within Table 11.2. -/
def params : SetupParams :=
  { zone := 7, station := 3, role := some .fixed, denomCount := 3, denoms := [10, 20, 50], capacity := 500
    sense := [senseOn, senseOn, senseOn, senseOn] }

/-- The port after a Setup as a role. -/
def portAs (role : Role) : Port :=
  { State.reset.port with
    unique := 0x123456789ABC#48
    setup := some { zone := 7, station := 3, role := role, denoms := [10, 20, 50], capacity := 500
                    sense := [senseOn, senseOn, senseOn, senseOn] } }

/-- A zone clock at a time in milliseconds. -/
def clockAt (ms : Nat) : Clock :=
  { elapsed := 700000, zone := some ms, quality := some 3, ageStart := some 0, rolloverDay := 0, marksGiven := []
    draws := 0 }

/-- Day 20,000 of the epoch, noon. -/
def noon : Nat := 86400000 * 20000 + 43200000

/-- A station of a role at a time, Setup done. -/
def station (role : Role) (ms : Nat) : State := { State.reset with port := portAs role, clock := clockAt ms }

/-- A key. -/
def key5 : Key := { gen := 5, pub := 2 }

/-- A band of 8 steps of 15 minutes for 20 pence. -/
def band : Band := { cap := true, minutes := 15, price := 20, steps := 8 }

/-- A ladder of that band. -/
def ladder : Ladder := { blankLadder with bands := band :: List.replicate 7 blankBand }

/-- A set charged on ladder 0 until 12:30 and NO_STAY after it, every day; TRADE is exempt and CAR CLUB an allowance. -/
def tariffSet : TariffSet :=
  { emptySet with
    key := some key5, reference := 9
    ladders := ladder :: List.replicate 3 blankLadder
    dayParts :=
      { mask := 0xFF#8, start := 0, stop := 750, treat := .charged 0 }
        :: { mask := 0xFF#8, start := 750, stop := 1440, treat := .noStay }
        :: List.replicate 10 { mask := 0#8, start := 0, stop := 0, treat := .free }
    classes :=
      [⟨.plain, 0⟩, ⟨.plain, 0⟩, ⟨.plain, 0⟩, ⟨.exempt, 0⟩, ⟨.allowance, 0⟩, ⟨.plain, 0⟩] }

/-- A permit record. -/
def permit : PermitRec :=
  { number := 11, cls := .trade, status := .valid, zones := [7], vehicle := some [0x41#8, 0x39#8], validFrom := 100
    validTo := 30000, allowance := some 60 }

/-- A section that holds that record under a key. -/
def section3 : PermitSection :=
  { key := some key5, closed := false, records := [permit], behindSince := none, staleRaised := false }

/-- A peer entry of a role. -/
def peerAs (n : Nat) (role : Role) : PeerEntry :=
  { station := n, role := role, quality := some 2, lastHeard := 0, dormantHeard := some 0, status := .live
    dormant := false, hostAwake := true, reports := false, active := some key5, pending := none, pendingEff := none
    sections := List.replicate 8 (some key5), faultCtr := 0, usageCtr := 0, usageDay := 0, due := 0, round := 4
    collector := some 21, roundState := .opened }

/-- The FIXED station at noon with an ACTIVE set, permits, and four peers, one of each role. -/
def stocked : State :=
  { station .fixed noon with
    tariff := { State.reset.tariff with active := some tariffSet }
    permits := { State.reset.permits with sections := List.replicate 8 section3 }
    link := { State.reset.link with
      receiver := true
      peers := [peerAs 1 .fixed, peerAs 2 .gateway, peerAs 21 .collector, peerAs 30 .engineer] } }

/-- An open sale of one coin. -/
def sale : Sale := { newSale key5 0 with escrow := [1, 0, 0, 0, 0, 0, 0, 0], coinTotal := 1, payment := 10 }

/-- The stocked station with a sale open. -/
def selling (r : Sale) : State :=
  { stocked with tariff := { stocked.tariff with pin := some key5 }, sales := { sale := some r, openMark := true } }

/-- A frame header from a station to the own one. -/
def fromTo (sender dest : Nat) : FrameHeader := { zone := 7, sender := sender, dest := dest }

/-- A fault entry. -/
def fault (owner : Nat) (st : FaultState) : FaultEntry :=
  { owner := owner, kind := .coinMech, subject := 0, state := st, firstRaised := some 5, lastRaised := none
    occurrences := 1, change := 2 }

/-- A host response. -/
def response : Response := { status := .ok, code := 1, result := .nothing }

/-- An announce body with every optional field absent. -/
def announceLow : AnnounceBody :=
  { role := .fixed, zoneSec := 0, zoneMs := 0, quality := none, dormant := false, hostAwake := false, reports := false
    active := none, pending := none, pendingEff := 0, sections := List.replicate 8 none, faultCtr := 0, usageCtr := 0
    usageDay := 0, due := 0, round := 0, collector := none, roundState := .idle }

/-- An announce body with every field present and high. -/
def announceHigh : AnnounceBody :=
  { role := .engineer, zoneSec := 4294967295, zoneMs := 999, quality := some 3, dormant := true, hostAwake := true
    reports := true, active := some ⟨65535, 32⟩, pending := some ⟨1, 1⟩, pendingEff := 4294967295
    sections := List.replicate 8 (some ⟨65535, 32⟩), faultCtr := 4294967295, usageCtr := 65535, usageDay := 65535
    due := 100, round := 65535, collector := some 32, roundState := .reported }

/-- A collection report. -/
def report (removal : Option Nat) : CollectionData :=
  { firstSeg := 65535, lastSeg := 1, round := 306, counts := [0, 0, 40, 25, 0, 0, 0, 4294967295], coinTotal := 65
    totalValue := 281474976710655, firstSeq := 3261, lastSeq := 4294967295, removal := removal, attended := true
    mixed := true }

/-! ### What WellFormed refuses -/

/-- Host commands whose operand does not fit its field. -/
theorem test_wellFormed_host :
    ([.undefinedCommandCode 256, .setup { params with zone := 65536 }, .setup { params with station := 256 },
      .setup { params with denomCount := 256 }, .setup { params with denoms := [4294967296] },
      .setup { params with capacity := 65536 }, .setup { params with sense := [senseOn] },
      .setup { params with sense := List.replicate 4 { senseOn with input := 256 } },
      .setup { params with sense := List.replicate 4 { senseOn with period := 256 } },
      .setup { params with sense := List.replicate 4 { senseOn with debounce := 256 } },
      .setAssetTag (List.replicate 1025 0x41#8), .setTime 4294967296, .readPeer 256, .readTariff none none 256,
      .tariffDraftWrite (List.replicate 1025 0#8), .tariffPublish 4294967296, .quote none 4294967296 .absent,
      .saleCoin 256, .saleCard 4294967296, .salePermit 4294967296, .checkPermit 4294967296,
      .readUsage 4294967296, .saleDuration 4294967296] : List Instr).all (fun i => !i.wellFormed) = true := by decide +kernel

/-- More host commands, and the rows with an index. -/
theorem test_wellFormed_indices :
    ([.amendPermit (.add []), .amendPermit (.replace [0#8]), .amendPermit (.status 4294967296 none), .closeSection 256,
      .sectionLoadBegin 256, .sectionLoadRecord [], .readSection 256 0, .readSection 0 4294967296,
      .readJournal 4294967296, .roundVisitCommand 256, .readSheet 256, .raiseFault 256, .ackFault 256 0 0,
      .clearFault 0 256 0, .readFaults 0 0 256, .restartStation 256 0, .restartStation 0 4294967296,
      .pageStation 256 0, .pageStation 0 4294967296, .frameDiscarded (List.replicate 7 0#8),
      .frameDiscarded (List.replicate 121 0#8), .peerSilence 0, .peerSilence 33, .sectionBehindExpiry 8,
      .senseSample 4 true, .firstSettled 4, .senseGroupChange 4] : List Instr).all (fun i => !i.wellFormed)
      = true := by decide +kernel

/-- Headers, keys and announces that their bytes cannot carry. -/
theorem test_wellFormed_announce :
    ([.announce { zone := 65536, sender := 0, dest := 0 } 0 announceLow,
      .announce { zone := 0, sender := 256, dest := 0 } 0 announceLow,
      .announce { zone := 0, sender := 0, dest := 256 } 0 announceLow,
      .announce (fromTo 1 0) 0 { announceLow with zoneSec := 4294967296 },
      .announce (fromTo 1 0) 0 { announceLow with zoneMs := 1000 },
      .announce (fromTo 1 0) 0 { announceLow with quality := some 4 },
      .announce (fromTo 1 0) 0 { announceLow with active := some ⟨0, 1⟩ },
      .announce (fromTo 1 0) 0 { announceLow with pending := some ⟨65536, 1⟩ },
      .announce (fromTo 1 0) 0 { announceLow with pendingEff := 4294967296 },
      .announce (fromTo 1 0) 0 { announceLow with sections := [] },
      .announce (fromTo 1 0) 0 { announceLow with sections := List.replicate 8 (some ⟨1, 256⟩) },
      .announce (fromTo 1 0) 0 { announceLow with faultCtr := 4294967296 },
      .announce (fromTo 1 0) 0 { announceLow with usageCtr := 65536 },
      .announce (fromTo 1 0) 0 { announceLow with usageDay := 65536 },
      .announce (fromTo 1 0) 0 { announceLow with due := 256 },
      .announce (fromTo 1 0) 0 { announceLow with round := 65536 },
      .announce (fromTo 1 0) 0 { announceLow with collector := some 0 }] : List Instr).all (fun i => !i.wellFormed)
      = true := by decide +kernel

/-- Frames of the replication unit and the permit store that their bytes cannot carry. -/
theorem test_wellFormed_objects :
    ([.request (fromTo 1 3) (.image (.sect 8) key5 0), .request (fromTo 1 3) (.image .tariff key5 256),
      .request (fromTo 1 3) (.faults 4294967296),
      .fragment (fromTo 1 3) ⟨.tariff, key5, 256, 4, 324, 0#16, [0#8]⟩,
      .fragment (fromTo 1 3) ⟨.tariff, key5, 0, 256, 324, 0#16, [0#8]⟩,
      .fragment (fromTo 1 3) ⟨.tariff, key5, 0, 4, 65536, 0#16, [0#8]⟩,
      .fragment (fromTo 1 3) ⟨.tariff, key5, 0, 4, 324, 0#16, []⟩,
      .fragment (fromTo 1 3) ⟨.tariff, key5, 0, 4, 324, 0#16, List.replicate 97 0#8⟩,
      .notHeld (fromTo 1 3) (.sect 8) key5, .superseded (fromTo 1 3) .tariff ⟨0, 1⟩,
      .amendment (fromTo 2 0) 256 key5 key5 .close, .amendment (fromTo 2 0) 0 ⟨0, 0⟩ key5 .close,
      .amendment (fromTo 2 0) 0 key5 ⟨0, 0⟩ .close, .amendment (fromTo 2 0) 0 key5 key5 (.status 16777216 .valid),
      .amendment (fromTo 2 0) 0 key5 key5 (.add { permit with number := 16777216 }),
      .amendment (fromTo 2 0) 0 key5 key5 (.add { permit with zones := [1, 2, 3, 4] }),
      .amendment (fromTo 2 0) 0 key5 key5 (.add { permit with zones := [0] }),
      .amendment (fromTo 2 0) 0 key5 key5 (.replace { permit with vehicle := some [] }),
      .amendment (fromTo 2 0) 0 key5 key5 (.replace { permit with validFrom := 65536 }),
      .amendment (fromTo 2 0) 0 key5 key5 (.replace { permit with validTo := 65536 }),
      .amendment (fromTo 2 0) 0 key5 key5 (.replace { permit with allowance := some 65535 }),
      .usage (fromTo 1 0) (.series ⟨65536, 0, 1⟩ 0 []), .usage (fromTo 1 0) (.series ⟨0, 65536, 1⟩ 0 []),
      .usage (fromTo 1 0) (.series ⟨0, 0, 256⟩ 0 []), .usage (fromTo 1 0) (.series ⟨0, 0, 1⟩ 256 []),
      .usage (fromTo 1 0) (.series ⟨0, 0, 1⟩ 0 (List.replicate 9 (1, 1))),
      .usage (fromTo 1 0) (.series ⟨0, 0, 1⟩ 0 [(16777216, 1)]),
      .usage (fromTo 1 0) (.single 65536 0 0 0), .usage (fromTo 1 0) (.single 0 65536 0 0),
      .usage (fromTo 1 0) (.single 0 0 16777216 0), .usage (fromTo 1 0) (.single 0 0 0 65536)] : List Instr).all
      (fun i => !i.wellFormed) = true := by decide +kernel

/-- Frames of the fault unit and the round unit that their bytes cannot carry. -/
theorem test_wellFormed_faultsAndRounds :
    ([.faultReport (fromTo 1 0) (.series ⟨4294967296, 0, 1⟩ 0 []),
      .faultReport (fromTo 1 0) (.series ⟨0, 4294967296, 1⟩ 0 []), .faultReport (fromTo 1 0) (.series ⟨0, 0, 256⟩ 0 []),
      .faultReport (fromTo 1 0) (.series ⟨0, 0, 1⟩ 256 []),
      .faultReport (fromTo 1 0) (.series ⟨0, 0, 1⟩ 0 (List.replicate 5 (fault 1 .raised))),
      .faultReport (fromTo 1 0) (.single 4294967296 (fault 1 .raised)),
      .faultReport (fromTo 1 0) (.single 0 (fault 256 .raised)),
      .faultReport (fromTo 1 0) (.single 0 { fault 1 .raised with subject := 256 }),
      .faultReport (fromTo 1 0) (.single 0 { fault 1 .raised with firstRaised := some 4294967296 }),
      .faultReport (fromTo 1 0) (.single 0 { fault 1 .raised with lastRaised := some 4294967296 }),
      .faultReport (fromTo 1 0) (.single 0 { fault 1 .raised with occurrences := 256 }),
      .faultReport (fromTo 1 0) (.single 0 { fault 1 .raised with change := 4294967296 }),
      .faultAck (fromTo 2 3) .tamper 256, .faultClear (fromTo 30 3) .tamper 256, .roundOpenFrame (fromTo 21 0) 65536,
      .roundVisitFrame (fromTo 21 3) 65536, .roundCloseFrame (fromTo 21 0) 65536,
      .collectionReport (fromTo 1 3) { report none with firstSeg := 65536 },
      .collectionReport (fromTo 1 3) { report none with lastSeg := 65536 },
      .collectionReport (fromTo 1 3) { report none with round := 65536 },
      .collectionReport (fromTo 1 3) { report none with counts := [] },
      .collectionReport (fromTo 1 3) { report none with counts := List.replicate 8 4294967296 },
      .collectionReport (fromTo 1 3) { report none with coinTotal := 4294967296 },
      .collectionReport (fromTo 1 3) { report none with totalValue := 281474976710656 },
      .collectionReport (fromTo 1 3) { report none with firstSeq := 4294967296 },
      .collectionReport (fromTo 1 3) { report none with lastSeq := 4294967296 },
      .collectionReport (fromTo 1 3) (report (some 4294967296)),
      .collectionAck (fromTo 21 3) 65536 0, .collectionAck (fromTo 21 3) 0 65536, .restart (fromTo 30 3) 4294967296,
      .page (fromTo 30 3) 65536] : List Instr).all (fun i => !i.wellFormed) = true := by decide +kernel

/-- Commands that can be sent, at the ends of their fields. -/
theorem test_wellFormed_accepts :
    ([.powerOn, .setup params, .setTime 4294967295, .readPeer 255, .announce (fromTo 1 0) 0 announceLow,
      .announce (fromTo 255 255) 27 announceHigh, .amendment (fromTo 2 0) 255 key5 key5 (.add permit),
      .collectionReport (fromTo 1 3) (report (some 4294967295)), .page (fromTo 30 3) 65535, .peerSilence 32,
      .senseSample 3 false] : List Instr).all (fun i => i.wellFormed) = true := by decide +kernel

/-! ### What the layouts spell (Section 12) -/

/-- The CRC of the nine characters 1 to 9, the common check of this polynomial and preset. -/
theorem test_crc : crc [0x31#8, 0x32#8, 0x33#8, 0x34#8, 0x35#8, 0x36#8, 0x37#8, 0x38#8, 0x39#8] = 0x29B1#16 := by decide +kernel

/-- A ROUND_VISIT frame of zone 7 from station 21 to station 3: header, body, and a check over the eight bytes. -/
theorem test_frame_roundVisit :
    (frameBytes (fromTo 21 3) (.roundVisit 306)).take 8
        = [0x00#8, 0x07#8, 0x15#8, 0x03#8, 0x0C#8, 0x02#8, 0x01#8, 0x32#8]
      ∧ frameLength (.roundVisit 306) = 10 := by decide +kernel

/-- The no-response frame (R194). -/
theorem test_noResponse : noResponseBytes = [0xFF#8, 0x00#8, 0x00#8, 0x00#8, 0x01#8] := by decide +kernel

/-- Frames are read back, at the ends of their fields. -/
theorem test_frames_readBack :
    ([.request (.image (.sect 7) ⟨65535, 32⟩ 40), .request (.faults 4294967295), .request .usage,
      .notHeld .tariff key5, .superseded (.sect 0) key5, .usage (.single 65535 65535 999999 1440),
      .usage (.series ⟨20000, 65535, 255⟩ 254 [(1, 1), (999999, 1440)]),
      .faultAck .stationDormant 32, .faultClear .tamper 0, .roundOpen 65535, .roundClose 0, .collectionAck 65535 1,
      .restart 4294967295, .page 65535] : List FrameBody).all
      (fun b => bodyOf (frameCode b) (bodyBytes b) == some b) = true := by decide +kernel

theorem test_bodies_readBack :
    ([.announce announceLow, .announce announceHigh, .collectionReport (report none),
      .collectionReport (report (some 4294967295)), .fragment ⟨.sect 7, key5, 40, 41, 3848, 0xFFFF#16, [1#8, 2#8]⟩,
      .amendment 3 key5 ⟨6, 2⟩ (.add permit),
      .amendment 3 key5 ⟨6, 2⟩ (.replace { permit with vehicle := none, allowance := none, zones := [] }),
      .amendment 3 key5 ⟨6, 2⟩ (.status 999999 .revoked), .amendment 3 key5 ⟨6, 2⟩ .close,
      .faultReport (.single 4294967295 (fault 32 .cleared)),
      .faultReport (.series ⟨1, 4294967295, 255⟩ 0 [fault 1 .raised, { fault 2 .acknowledged with lastRaised := some 0 }])]
      : List FrameBody).all (fun b => bodyOf (frameCode b) (bodyBytes b) == some b) = true := by decide +kernel

/-- A whole frame through the filters: taken, and dropped for its zone, its check and its sender. -/
theorem test_filters :
    filterBytes 7 3 (frameBytes (fromTo 21 3) (.roundVisit 306)) = .inr (fromTo 21 3, .roundVisit 306)
      ∧ filterBytes 8 3 (frameBytes (fromTo 21 3) (.roundVisit 306)) = .inl .zone
      ∧ filterBytes 7 3 ((frameBytes (fromTo 21 3) (.roundVisit 306)).dropLast ++ [0#8]) = .inl .check
      ∧ filterBytes 7 3 (frameBytes (fromTo 33 3) (.roundVisit 306)) = .inl .header
      ∧ filterBytes 7 4 (frameBytes (fromTo 21 3) (.roundVisit 306)) = .inl .dest
      ∧ filterBytes 7 3 (frameBytes (fromTo 3 3) (.roundVisit 306)) = .inl .sender := by decide +kernel

/-- Images are read back. -/
theorem test_images_readBack :
    tariffOf (tariffImage tariffSet) = some tariffSet ∧ (tariffImage tariffSet).length = 324
      ∧ permitOf (permitBytes permit) = some permit
      ∧ sectionOf (sectionImage 3 section3) = some (3, some key5, false, [permit]) := by decide +kernel

/-! ### States that meet the hypotheses of the statements -/

/-- A held part. -/
def held : State := { stocked with port := { stocked.port with resetHigh := false } }

/-- A part with an unread response. -/
def busy : State := { stocked with port := { stocked.port with buffer := some response } }

/-- A part with a restart in progress. -/
def restarting : State := { stocked with faults := { stocked.faults with restartBy := some 30 } }

/-- A part before Setup, at a home. -/
def unset : State := { stocked with port := { stocked.port with setup := none, home := some (7, 3) } }

/-- A part with a complete frame waiting. -/
def waiting : State :=
  { stocked with link := { stocked.link with waiting := some { bytes := [], start := 0, finish := 1 } } }

theorem witness_StepTakesFront : ({ stocked with pending := [.identify, .rest] } : State).pending = .identify :: [.rest] := rfl

theorem witness_EmptyQueueStep :
    held.pending = [] ∧ held.port.resetHigh = false
      ∧ (restarting.port.resetHigh = true ∧ restarting.faults.restartBy.isSome = true)
      ∧ (waiting.faults.restartBy = none ∧ waiting.link.waiting = some { bytes := [], start := 0, finish := 1 })
      ∧ (stocked.link.waiting = none ∧ stocked.nextDue = some .dayRollover)
      ∧ (State.reset.pending = [] ∧ State.reset.port.resetHigh = true ∧ State.reset.faults.restartBy = none
          ∧ State.reset.link.waiting = none ∧ State.reset.nextDue = none) := by decide +kernel

theorem witness_MillisecondPasses :
    (clockAt 0).elapsed < 2 ^ 48 - 1 ∧ State.reset.clock.zone = none
      ∧ (clockAt (zoneMax - 1)).zone = some (zoneMax - 1) ∧ zoneMax - 1 < zoneMax
      ∧ (clockAt zoneMax).zone = some zoneMax ∧ zoneMax ≤ zoneMax := by decide +kernel

theorem witness_StepKeepsClock : ClockInv stocked.clock ∧ ∃ t, step stocked = .next t :=
  ⟨⟨by decide, by decide, by decide, fun z h => by cases h; decide, fun q h => by cases h; decide⟩,
    ⟨_, rfl⟩⟩

/-- A sale in the set that a changeover has replaced, with a further set pending: every slot is occupied. -/
def outsold : State :=
  { selling sale with
    tariff :=
      { (selling sale).tariff with
        active := some { tariffSet with key := some { gen := 6, pub := 2 } }
        pending := some { tariffSet with key := some { gen := 6, pub := 1 } }
        retired := some tariffSet } }

/-- Three statuses of the slots: one set active and none pinned; the pin on the active set; the pin on a retired set. -/
theorem witness_StepKeepsSale_slots :
    SlotsInv stocked.port.setup stocked.tariff ∧ SlotsInv (selling sale).port.setup (selling sale).tariff
      ∧ SlotsInv outsold.port.setup outsold.tariff := by
  refine ⟨?_, ?_, ?_⟩ <;> constructor <;> first
    | decide
    | (intro x h; cases h; done)
    | (intro x h; cases h; rfl)
    | (intro x y h k; cases h; done)
    | (intro x y h k; cases k; done)
    | (intro x y h k; cases h; cases k; rfl)

theorem witness_StepKeepsSale :
    SaleInv stocked ∧ SaleInv (selling sale) ∧ SaleInv outsold ∧ ∃ t, step outsold = .next t :=
  ⟨⟨rfl, rfl, witness_StepKeepsSale_slots.1⟩, ⟨rfl, rfl, witness_StepKeepsSale_slots.2.1⟩,
    ⟨rfl, rfl, witness_StepKeepsSale_slots.2.2⟩, ⟨_, rfl⟩⟩

/-- A full event queue with its QUEUE_OVERRUN. -/
def fullQueue : List EventEntry :=
  List.replicate 31 ⟨.visitExpired 1, none⟩ ++ [⟨.queueOverrun .visit 65535, none⟩]

theorem witness_StepKeepsBounds :
    BoundsInv { stocked with port := { stocked.port with events := fullQueue } }
      ∧ ∃ t, step { stocked with port := { stocked.port with events := fullQueue } } = .next t :=
  ⟨⟨by decide, ⟨by decide, fun _ => ⟨.visit, 65535, none, by decide⟩⟩, by decide, ⟨by decide, by decide⟩, by decide,
      by decide, ⟨by decide, by decide, by decide, by decide⟩, by decide, ⟨by decide, by decide⟩, by decide,
      fun p hp => by rw [List.eq_of_mem_replicate hp]; exact ⟨by decide, by decide⟩,
      fun _ h => (by cases h), rfl⟩,
    ⟨_, rfl⟩⟩

theorem witness_ResetsKeepNonvolatile :
    restarting.port.resetHigh = true ∧ restarting.faults.restartBy.isSome = true := by decide

theorem witness_ResetNPin :
    held.port.resetHigh = false ∧ stocked.port.resetHigh = true ∧ (Instr.identify ≠ .powerOn)
      ∧ ∀ level, Instr.identify ≠ .resetN level := by decide

theorem witness_HeldInReset :
    held.port.resetHigh = false ∧ isTransfer .overrunWrite = true ∧ isTransfer .readPower = true := by decide

theorem witness_ReadsAndOverruns :
    stocked.port.resetHigh = true ∧ stocked.port.buffer = none
      ∧ busy.port.buffer = some response ∧ busy.power.restTaken = false
      ∧ busy.portBusy = true ∧ restarting.portBusy = true ∧ hostCode .readPower = some 46
      ∧ isRead [0xA5#8] = false ∧ writeSound [0xA5#8] = false ∧ codeDefined 0 = false ∧ codeDefined 47 = false := by
  decide +kernel

theorem witness_UnsoundWritesAnswered :
    stocked.takesRequest = true ∧ isRead [0xA5#8, 1#8, 0#8, 0#8, 1#8] = false
      ∧ writeSound [0xA5#8, 1#8, 0#8, 0#8, 1#8] = false ∧ writeSound [0xA5#8, 1#8, 0#8, 0#8, 0xFF#8] = true
      ∧ (46 < 47 ∧ (0 = 0 ∨ 46 < 0)) := by decide +kernel

theorem witness_SetupAndRoleFirst :
    unset.takesRequest = true ∧ unset.setupDone = false ∧ hostCode .readPower = some 46
      ∧ beforeSetup .readPower = false ∧ stocked.takesRequest = true ∧ stocked.setupDone = true
      ∧ hostRoles .roundOpenCommand stocked = false ∧ hostRoles (.restartStation 1 0) stocked = false
      ∧ hostRoles .saleOpen (station .engineer noon) = false := by decide +kernel

theorem witness_SetupTaken :
    stocked.takesRequest = true ∧ stocked.setupDone = true ∧ unset.takesRequest = true ∧ unset.setupDone = false
      ∧ setupRecord { params with zone := 0 } = none ∧ setupRecord { params with capacity := 4001 } = none
      ∧ setupRecord { params with denomCount := 2 } = none
      ∧ ((setupRecord params).map fun r => (r.zone, r.station)) = some (7, 3) ∧ unset.port.home = some (7, 3)
      ∧ State.reset.port.home ≠ some (7, 3) ∧ State.reset.takesRequest = true := by decide +kernel

theorem witness_IdentityStatusEventsAndTag :
    State.reset.takesRequest = true ∧ stocked.openTo anyRole = true ∧ stocked.port.events = []
      ∧ assetTagOk [] = false ∧ assetTagOk (List.replicate 13 0x41#8) = false ∧ assetTagOk [0x20#8] = false
      ∧ assetTagOk (List.replicate 12 0x7E#8) = true ∧ stocked.port.assetTag = none
      ∧ ({ stocked with port := { stocked.port with assetTag := some [0x41#8], events := [⟨.visitExpired 1, none⟩] } }
          : State).openTo anyRole = true := by decide +kernel

theorem witness_EventQueueOverrun :
    (List.replicate 30 (⟨.visitExpired 1, none⟩ : EventEntry)).length < 31
      ∧ (List.replicate 31 (⟨.visitExpired 1, none⟩ : EventEntry)).length = 31 ∧ fullQueue.length = 32
      ∧ fullQueue = List.replicate 31 ⟨.visitExpired 1, none⟩ ++ [⟨.queueOverrun .visit 65535, none⟩]
      ∧ 65535 ≤ 65535 := by decide +kernel

theorem witness_SetTimeTaken :
    stocked.openTo anyRole = true ∧ 4294967295 < 4294967296 ∧ 4294967295 ≤ 4294967295 := by decide

/-- An announce of a quality. -/
def timed (q : Option Nat) (sec : Nat) : AnnounceBody := { announceLow with quality := q, zoneSec := sec }

theorem witness_AnnouncedTimeJudged :
    (timed none 0).quality = none ∧ (timed (some 4) 0).quality = some 4 ∧ State.reset.clock.zone = none
      ∧ stocked.clock.quality = some 3
      ∧ (let s : State := { stocked with clock := { stocked.clock with quality := some 1 } }
         s.clock.zone = some noon ∧ (1 < 3 ∧ 1 + 1 < 3)
          ∧ differs (senderTime (timed (some 2) (noon / 1000 + 2)) 27) noon = true
          ∧ differs (senderTime (timed (some 2) (noon / 1000)) 1000) noon = false
          ∧ differs (senderTime (timed (some 1) (noon / 1000)) 1001) noon = true
          ∧ 1 < s.own ∧ s.own ≤ 3 ∧ 0 < 1) := by decide +kernel

theorem witness_AgeRolloverAndChangeover :
    (let s : State := { stocked with clock := { stocked.clock with elapsed := 21600000 } }
     s.port.resetHigh = true ∧ s.clock.quality = some 3 ∧ s.clock.ageStart = some 0 ∧ 0 + 21600000 ≤ s.clock.elapsed)
      ∧ stocked.clock.elapsed < 0 + 21600000 ∧ stocked.today = some 20000 ∧ stocked.clock.rolloverDay < 20000
      ∧ State.reset.rolloverDue = false ∧ stocked.changeoverDue = false
      ∧ (let s : State := { stocked with tariff := { stocked.tariff with pending := some tariffSet } }
         s.tariff.pending = some tariffSet ∧ s.changeoverDue = true) := by decide +kernel

theorem witness_MarksGiven :
    (station .fixed 32000).markDue .endOfExchange = true ∧ (station .fixed 32000).markDue .cycleStart = true
      ∧ (station .fixed 32250).markDue .ownSlot = true ∧ (station .fixed 36000).markDue .exchangeStart = true
      ∧ (station .fixed 32250).mayTransmit = true ∧ (station .fixed 32250).link.line = none
      ∧ (let s : State := { station .fixed 32250 with link := { State.reset.link with line := some (.exchange 0) } }
         s.markDue .ownSlot = true ∧ s.link.line.isSome = true)
      ∧ (station .fixed 32001).markDue .endOfExchange = false ∧ (station .fixed 32001).markDue .cycleStart = false
      ∧ (station .fixed 32001).markDue .ownSlot = false ∧ (station .fixed 32001).markDue .exchangeStart = false
      ∧ (station .fixed 0).clock.zone = some 0 ∧ (station .fixed 0).setupDone = true
      ∧ Mark.cycleStart ∉ (station .fixed 0).clock.marksGiven := by decide +kernel

theorem witness_PeerAndReplicationRead :
    stocked.openTo anyRole = true ∧ 32 < 33 ∧ 31 ≤ 32
      ∧ stocked.link.peers.find? (fun p => 31 ≤ p.station) = none
      ∧ stocked.link.peers.find? (fun p => 3 ≤ p.station) = some (peerAs 21 .collector) := by decide +kernel

theorem witness_KeysAndTargets :
    key5 ≠ ⟨5, 1⟩ ∧ Key.higher ⟨6, 1⟩ key5 = true ∧ Key.higher ⟨5, 1⟩ key5 = true
      ∧ (let s : State := { stocked with tariff := { stocked.tariff with active := none } }
         s.target .tariff = some key5 ∧ s.target (.sect 3) = none) := by decide +kernel

/-- A GATEWAY with an ACTIVE set and a draft at a part and an index. -/
def drafting (part : TariffPart) (index : Nat) : State :=
  { station .gateway noon with
    tariff :=
      { State.reset.tariff with active := some tariffSet, draft := some { tset := tariffSet, part := part, index := index } } }

theorem witness_TariffReadAndDraftBegun :
    stocked.openTo anyRole = true ∧ partSize .header ≤ 5 ∧ 4 < partSize .header
      ∧ slotSet stocked.tariff .pending = none ∧ slotSet stocked.tariff .active = some tariffSet
      ∧ (drafting .header 0).openTo gatewayOnly = true ∧ (drafting .header 0).tariff.pending = none
      ∧ (drafting .header 0).tariff.active = some tariffSet ∧ (station .gateway noon).openTo gatewayOnly = true
      ∧ (station .gateway noon).tariff.active = none
      ∧ (let s : State := { drafting .header 0 with tariff := { State.reset.tariff with pending := some tariffSet } }
         s.openTo gatewayOnly = true ∧ s.tariff.pending = some tariffSet) := by decide +kernel

theorem witness_DraftPartSelected :
    (drafting .header 4).openTo gatewayOnly = true
      ∧ (drafting .header 4).tariff.draft = some { tset := tariffSet, part := .header, index := 4 } := by decide +kernel

theorem witness_DraftReadAndWritten :
    (station .gateway noon).openTo gatewayOnly = true ∧ (station .gateway noon).tariff.draft = none
      ∧ (drafting .classes 5).openTo gatewayOnly = true
      ∧ [0#8].length ≠ entryLength .classes 5 ∧ writeEntry .classes 5 [4#8, 0#8] tariffSet = none
      ∧ [3#8, 1#8].length = entryLength .classes 5 ∧ (writeEntry .classes 5 [3#8, 1#8] tariffSet).isSome = true
      ∧ tariffSet.ladders.length = 4 ∧ (∀ l ∈ tariffSet.ladders, l.bands.length = 8) ∧ tariffSet.dayParts.length = 12
      ∧ tariffSet.classes.length = 6 ∧ tariffSet.calendar.length = 16 ∧ 5 < partSize .classes
      ∧ (setHeaderBytes tariffSet).length = entryLength .header 0
      ∧ (writeEntry .header 0 (setHeaderBytes tariffSet) tariffSet).isSome = true
      ∧ writeEntry .header 0 (List.replicate 16 0#8) tariffSet = none := by decide +kernel

theorem witness_TariffPublished :
    (drafting .header 0).openTo gatewayOnly = true ∧ 4294967295 < 4294967296
      ∧ ({ drafting .header 0 with clock := State.reset.clock } : State).clock.zone = none
      ∧ (drafting .header 0).zoneSec = some 1728043200 ∧ validate tariffSet = none
      ∧ validate { tariffSet with ladders := List.replicate 4 blankLadder } = some (.ladderReference, .dayParts, 0)
      ∧ highestTariffGen (drafting .header 0) < 65535
      ∧ 65535 ≤ highestTariffGen
          { drafting .header 0 with tariff := { State.reset.tariff with active := some { tariffSet with key := some ⟨65535, 1⟩ } } }
      ∧ 1728043200 ≤ 1728043200 ∧ 1728043200 < 1728043201 := by decide +kernel

/-! ### Sales -/

/-- What 25 pence buy at noon: one step to 12:15. -/
def sold : QuoteResult :=
  { key := some key5, treatment := none, ladder := 0, start := 1728043200, paidFrom := 1728043200, steps := 1
    paidMinutes := 15, price := 20, excess := 5, nextStep := some 15, expiry := 1728044100, covers := none
    horizon := false }

theorem test_walk :
    walk tariffSet 1728043200 none (.amount 25) = .sold sold
      ∧ walk tariffSet 1728043200 none (.amount 19) = .notEnough
      ∧ walk tariffSet 1728045000 none (.amount 25) = .noStayNow
      ∧ walk tariffSet 1728044940 none (.amount 25) = .nothingToSell := by decide +kernel

theorem witness_QuoteAnswered :
    stocked.openTo anyRole = true ∧ quoteParamsOk none 0 .absent = false
      ∧ quoteParamsOk (some .byAmount) 65536 .absent = false ∧ quoteParamsOk (some .byDuration) 10081 .absent = false
      ∧ allowanceByAmount stocked.tariff.active (some .byAmount) (.named .carClub) = true
      ∧ quoteParamsOk (some .byAmount) 25 .absent = true
      ∧ allowanceByAmount stocked.tariff.active (some .byAmount) .absent = false
      ∧ ({ stocked with clock := State.reset.clock } : State).clock.zone = none
      ∧ (station .fixed noon).clock.zone.isSome = true ∧ (station .fixed noon).tariff.active = none
      ∧ stocked.zoneSec = some 1728043200 ∧ stocked.tariff.active = some tariffSet
      ∧ walk tariffSet 1728043200 (paramTreat tariffSet .absent)
          (quoteAsk (some .byAmount) 25 (paramTreat tariffSet .absent)) = .sold sold
      ∧ walk tariffSet 1728043200 (paramTreat tariffSet .absent)
          (quoteAsk (some .byAmount) 19 (paramTreat tariffSet .absent)) = .notEnough := by decide +kernel

theorem witness_SaleOpened :
    stocked.openTo machineOnly = true ∧ stocked.clock.zone.isSome = true ∧ stocked.sales.sale = none
      ∧ (selling sale).openTo machineOnly = true ∧ (selling sale).sales.sale.isSome = true
      ∧ (station .fixed noon).openTo machineOnly = true ∧ slotKey (station .fixed noon).tariff.active = none
      ∧ slotKey stocked.tariff.active = some key5 ∧ stocked.doorOpen = false
      ∧ (let s : State :=
           { stocked with sense := { stocked.sense with
             groups := { SenseGroup.afterReset with settled := .active } :: List.replicate 3 SenseGroup.afterReset } }
         s.openTo machineOnly = true ∧ s.doorOpen = true)
      ∧ (let s : State := { stocked with clock := State.reset.clock }
         s.openTo machineOnly = true ∧ s.clock.zone = none) := by decide +kernel

/-- A permit applied to a sale. -/
def applied (kind : ClassKind) : AppliedPermit :=
  { number := 11, cls := .carClub, treat := ⟨kind, 0⟩, check := .valid
    allowance := if kind = .allowance then some 60 else none }

theorem witness_SaleCoinTaken :
    (selling sale).openTo machineOnly = true ∧ (selling sale).sales.sale = some sale
      ∧ (selling sale).denoms[3]? = none ∧ (selling sale).denoms[2]? = some 50
      ∧ takesNoPayment { sale with permit := some (applied .exempt) } = true ∧ takesNoPayment sale = false
      ∧ (selling sale).cashBlocked = false
      ∧ (let s : State := { selling sale with cash := { State.reset.cash with coinTotal := 499 } }
         s.openTo machineOnly = true ∧ s.capacity < s.cash.coinTotal + sale.coinTotal + 1)
      ∧ (let s : State := { selling sale with cash := { State.reset.cash with coinTotal := 498 } }
         s.cash.coinTotal + sale.coinTotal + 1 ≤ s.capacity)
      ∧ (let s : State :=
           { selling sale with sense := { stocked.sense with
             groups := { SenseGroup.afterReset with settled := .active } :: List.replicate 3 SenseGroup.afterReset } }
         s.openTo machineOnly = true ∧ s.cashBlocked = true)
      ∧ 60 ≤ ({ sale with coinTotal := 60 } : Sale).coinTotal ∧ 59 < 60 ∧ 65535 < 65486 + 50 ∧ 65485 + 50 ≤ 65535 := by
  decide +kernel

theorem witness_SaleCardTaken :
    (selling sale).openTo machineOnly = true ∧ (selling sale).sales.sale = some sale ∧ 65535 < 65536 ∧ 1 ≤ 1
      ∧ 65535 ≤ 65535 ∧ takesNoPayment { sale with permit := some (applied .allowance) } = true
      ∧ takesNoPayment sale = false ∧ ({ sale with card := some 1 } : Sale).card.isSome = true ∧ sale.card = none
      ∧ 65535 < sale.payment + 65526 ∧ sale.payment + 65525 ≤ 65535 := by decide +kernel

theorem witness_SalePermitTaken :
    (selling sale).openTo machineOnly = true ∧ (selling sale).sales.sale = some sale
      ∧ ({ sale with permit := some (applied .plain) } : Sale).permit.isSome = true
      ∧ permitNumberOk 0 = false ∧ permitNumberOk 1000000 = false ∧ sale.permit = none ∧ permitNumberOk 11 = true
      ∧ permitCheck (selling sale) 20000 11 = (.valid, some permit) ∧ checkApplies .valid = true
      ∧ permitCheck (selling sale) 20000 19 = (.notFound, none) ∧ checkApplies .notFound = false
      ∧ (selling sale).today = some 20000 ∧ (pinnedTreat (selling sale) .trade).kind = .exempt ∧ 0 < sale.coinTotal
      ∧ (pinnedTreat (selling sale) .resident).kind = .plain := by decide +kernel

theorem witness_SaleDurationTaken :
    (let r := { sale with permit := some (applied .allowance) }
     (selling r).openTo machineOnly = true ∧ (selling r).sales.sale = some r
      ∧ isAllowance (r.permit.map (·.treat)) = true)
      ∧ isAllowance (sale.permit.map (·.treat)) = false ∧ 0 < 1 ∧ 1440 < 1441 ∧ 1 ≤ 1440 ∧ 1440 ≤ 1440 := by
  decide +kernel

/-- A sale of 25 pence by card. -/
def carded : Sale := { newSale key5 0 with card := some 25, payment := 25 }

theorem witness_SaleCommitted :
    (selling carded).openTo machineOnly = true ∧ (selling carded).sales.sale = some carded
      ∧ requote (selling carded) carded = .sold sold ∧ commitBlocked carded (selling carded) = false
      ∧ usageRefused (((selling carded).zoneSec).getD 0) carded (selling carded) = false
      ∧ journalFull (selling carded).cash = false
      ∧ requote (selling (newSale key5 0)) (newSale key5 0) = .notEnough
      ∧ requote { selling carded with clock := clockAt 1728045000000 } carded = .noStayNow
      ∧ requote { selling carded with clock := clockAt 1728044940000 } carded = .nothingToSell
      ∧ commitBlocked carded
          { selling carded with rounds := { State.reset.rounds with ctx := { RoundCtx.idle with state := .removed } } }
          = true
      ∧ journalFull { State.reset.cash with nextSeq := 4294967296 } = true := by decide +kernel

/-- The stocked station settled for the day, so that allowances can be used. -/
def settledDay (usage : List UsageEntry) : State :=
  { stocked with
    tariff := { stocked.tariff with pin := some key5 }
    permits := { stocked.permits with settled := true, ownDay := 20000, usage := usage } }

/-- An allowance sale of ten minutes. -/
def allowanceSale : Sale := { newSale key5 0 with permit := some (applied .allowance), requested := some 10 }

theorem witness_SaleCommitted_allowance :
    requote (selling allowanceSale) allowanceSale = .allowanceUnavailable
      ∧ requote (settledDay [⟨11, 20000, [(1, 60)], false⟩]) allowanceSale = .allowanceExhausted
      ∧ usageRefused 1728043200 allowanceSale
          { settledDay [] with permits := { (settledDay []).permits with lostDay := some 20000 } } = true
      ∧ usageRefused 1728043200 allowanceSale (settledDay []) = false
      ∧ commitBlocked sale
          { selling sale with sense := { stocked.sense with
            groups := List.replicate 4 { SenseGroup.afterReset with settled := .active } } } = true := by decide +kernel

theorem witness_SaleCancelled :
    (selling sale).openTo machineOnly = true ∧ (selling sale).sales.sale = some sale := by decide +kernel

theorem witness_SaleExpires :
    (selling sale).port.resetHigh = true ∧ (selling sale).sales.sale = some sale
      ∧ sale.lastEvent + 120000 ≤ (selling sale).clock.elapsed ∧ sale.openedAt + 600000 ≤ (selling sale).clock.elapsed
      ∧ ({ clockAt noon with elapsed := 119999 } : Clock).elapsed < sale.lastEvent + 120000
      ∧ ({ clockAt noon with elapsed := 599999 } : Clock).elapsed < sale.openedAt + 600000 := by decide +kernel

/-- Half an hour of charged minutes before a clearway. -/
def halfHour : View := { start := 28800720, minutes := List.replicate 30 (.charged 0), clearway := true }

theorem witness_AmountBuysMost :
    validate tariffSet = none ∧ 0 < tariffSet.ladders.length ∧ (ladderAt tariffSet 0).bands.length = 8
      ∧ ladderBlank (ladderAt tariffSet 0) = false ∧ halfHour.minutes.length ≤ horizonMinutes
      ∧ walkAmount tariffSet halfHour none 0 0 25 = .sold sold := by decide +kernel

theorem witness_StepsAndExpiry :
    ladder.bands.length = 8 ∧ 1 ≤ 1 ∧ 30 ≤ halfHour.charged ∧ halfHour.charged < 31 := by decide +kernel

/-! ### Permits, accounts, rounds and faults -/

/-- The stocked station with section 3 holding this record, and a peer that may advertise a higher key for it. -/
def permitted (r : PermitRec) (ahead : Bool) : State :=
  { stocked with
    permits := { stocked.permits with sections := List.replicate 8 { section3 with records := [r] } }
    link := { stocked.link with
      peers := [{ peerAs 1 .fixed with sections := List.replicate 8 (some ⟨if ahead then 6 else 5, 2⟩) }] } }

theorem witness_PermitChecked :
    stocked.openTo anyRole = true ∧ 0 < 1 ∧ 999999 < 1000000 ∧ 1 ≤ 11 ∧ 11 ≤ 999999
      ∧ ({ stocked with clock := State.reset.clock } : State).openTo anyRole = true
      ∧ stocked.today = some 20000
      ∧ findPermit 19 (stocked.sectionAt (19 % 8)).records = none ∧ stocked.isBehind 3 = false
      ∧ (permitted permit true).isBehind 3 = true
      ∧ findPermit 11 (stocked.sectionAt (11 % 8)).records = some permit ∧ permit.status = .valid
      ∧ 20000 < ({ permit with validFrom := 20001 } : PermitRec).validFrom
      ∧ ({ permit with validTo := 19999 } : PermitRec).validTo < 20000
      ∧ permit.validFrom ≤ 20000 ∧ 20000 ≤ permit.validTo ∧ stocked.zoneNo ∈ permit.zones
      ∧ stocked.zoneNo ∉ ({ permit with zones := [8] } : PermitRec).zones
      ∧ findPermit 11 ((permitted { permit with status := .revoked } false).sectionAt 3).records
          = some { permit with status := .revoked } := by decide +kernel

/-- A GATEWAY that holds the sections, and a section draft of index 3 where one is given. -/
def gatewayWith (key : Key) (draft : Option SectionDraft) : State :=
  { station .gateway noon with permits := { State.reset.permits with
    sections := List.replicate 8 { section3 with key := some key }, draft := draft } }

theorem witness_SectionsAmended :
    (gatewayWith key5 none).openTo gatewayOnly = true ∧ amendChange .undefinedOp = none
      ∧ amendChange (.status 0 (some .valid)) = none ∧ 7 < 8
      ∧ amendChange (.status 11 (some .revoked)) = some (.status 11 .revoked) ∧ 7 ≤ 7
      ∧ (station .gateway noon).sectionKey 3 = none ∧ (gatewayWith key5 none).sectionKey 3 = some key5
      ∧ (gatewayWith ⟨65535, 1⟩ none).sectionKey 3 = some ⟨65535, 1⟩ ∧ 65535 ≤ 65535 ∧ 65534 < 65535
      ∧ (match applyChange section3 (.add permit) with
          | .error st => st == .badParameter
          | .ok _ => false) = true
      ∧ (match applyChange section3 (.status 11 .revoked) with
          | .error _ => false
          | .ok p => p.records.length == 1) = true
      ∧ ascending section3.records = true ∧ section3.records.length ≤ 160
      ∧ findPermit 11 [{ permit with status := .revoked }] = some { permit with status := .revoked } := by decide +kernel

theorem witness_SectionLoaded :
    (gatewayWith key5 none).openTo gatewayOnly = true ∧ (gatewayWith key5 none).permits.draft = none
      ∧ (gatewayWith key5 (some ⟨3, []⟩)).openTo gatewayOnly = true
      ∧ (gatewayWith key5 (some ⟨3, []⟩)).permits.draft = some ⟨3, []⟩
      ∧ permitOf [] = none ∧ permitOf (permitBytes permit) = some permit ∧ permitWf permit = true
      ∧ permit.number % 8 = 3 ∧ permit.number % 8 ≠ 4 ∧ lastNumber [] < permit.number
      ∧ permit.number ≤ lastNumber [permit] ∧ permitWf { permit with validTo := 99 } = false
      ∧ 160 ≤ (List.replicate 160 permit).length ∧ (List.replicate 159 permit).length < 160
      ∧ 65535 ≤ highestSectionGen (gatewayWith ⟨65535, 1⟩ (some ⟨3, []⟩)) 3
      ∧ highestSectionGen (gatewayWith ⟨65534, 1⟩ (some ⟨3, []⟩)) 3 < 65535 := by decide +kernel

/-- A journal record of a sequence. -/
def record (seq : Nat) : JournalRec :=
  { seq := seq, time := 0, kind := .paid, key := key5, ladder := 0, amount := 20, coins := none, card := some 20
    start := 0, expiry := 900, granted := none, permit := none, stale := false, segment := 1 }

/-- An account of one record in the open segment. -/
def oneRecord : Cash :=
  { State.reset.cash with journal := [record 1], nextSeq := 2, openSeg := some ⟨1, 1, 1⟩, values := some [10, 20, 50] }

theorem witness_PermitAndAccountReads :
    stocked.openTo anyRole = true ∧ 7 < 8 ∧ 999999 < 1000000 ∧ 7 ≤ 7 ∧ 0 < 1 ∧ stocked.today = some 20000
      ∧ (let s : State := { stocked with clock := State.reset.clock }
         s.openTo anyRole = true ∧ s.clock.zone = none)
      ∧ 4294967295 < 4294967296
      ∧ stocked.cash.journal.find? (fun r => r.seq == (if 0 = 0 then stocked.cash.nextSeq - 1 else 0)) = none
      ∧ oneRecord.journal.find? (fun r => r.seq == (if 0 = 0 then oneRecord.nextSeq - 1 else 0)) = some (record 1)
      ∧ oneRecord.journal.find? (fun r => r.seq == (if 1 = 0 then oneRecord.nextSeq - 1 else 1)) = some (record 1) := by
  decide +kernel

/-- A COLLECTOR with a round context in a state. -/
def collecting (st : RoundState) (counter : Nat) : State :=
  { station .collector noon with rounds := { State.reset.rounds with
    ctx := { round := 306, collector := some 3, state := st, visitRecord := none, visitStart := none }
    counter := counter } }

theorem witness_RoundsCommanded :
    (collecting .opened 65535).openTo collectorOnly = true ∧ (collecting .idle 306).openTo collectorOnly = true
      ∧ (collecting .opened 65535).clock.zone.isSome = true ∧ (collecting .opened 65535).rounds.ctx.state = .opened
      ∧ (collecting .idle 306).rounds.ctx.state = .idle ∧ (collecting .opened 1).rounds.ctx.state ≠ .idle
      ∧ ({ collecting .idle 1 with clock := State.reset.clock } : State).clock.zone = none
      ∧ (collecting .idle 1).own = 3 ∧ 32 < 33 ∧ 32 ≠ 3
      ∧ (collecting .idle 1).link.tx.length < 8 ∧ (collecting .idle 1).power.state ≠ .dormant
      ∧ (let s : State :=
           { stocked with link := { stocked.link with tx := List.replicate 8 ⟨0, .roundClose 1, 0, .other⟩ } }
         8 ≤ s.link.tx.length) := by decide +kernel

theorem witness_SheetRead :
    stocked.takesRequest = true ∧ stocked.setupDone = true ∧ stocked.isRole .collector = false
      ∧ (collecting .opened 1).takesRequest = true ∧ (collecting .opened 1).setupDone = true
      ∧ (collecting .opened 1).isRole .collector = true ∧ 31 < 32 ∧ 31 ≤ 31
      ∧ (collecting .opened 1).rounds.sheet.length ≤ 0
      ∧ ((0 : Nat) < ([(8, report none)] : List (Nat × CollectionData)).length) := by decide +kernel

theorem witness_RoundAndFaultsRead :
    stocked.openTo anyRole = true ∧ 32 < 33 ∧ faultKindOf 0 = none ∧ faultKindOf 19 = none ∧ 32 ≤ 32
      ∧ (faultKindOf 18).isSome = true := by decide +kernel

/-- A log record. -/
def logRecord : LogRec := { data := report none, due := false, held := false }

theorem witness_RemovalRecorded :
    State.reset.cash.openSeg = none ∧ oneRecord.openSeg = some ⟨1, 1, 1⟩ ∧ State.reset.rounds.log.length < 4
      ∧ (let s : State :=
           { stocked with
             cash := { oneRecord with spans := List.replicate 4 ⟨1, 1, 1, 1⟩ }
             rounds := { State.reset.rounds with log := List.replicate 4 logRecord } }
         4 ≤ s.rounds.log.length ∧ s.rounds.log = List.replicate 3 logRecord ++ [logRecord]
          ∧ s.cash.spans = List.replicate 3 ⟨1, 1, 1, 1⟩ ++ [⟨1, 1, 1, 1⟩] ∧ s.cash.openSeg = some ⟨1, 1, 1⟩
          ∧ logRecord.data.coinTotal + s.cash.coinTotal < 4294967296) := by decide +kernel

/-- A station of a role with a fault table. -/
def faulty (role : Role) (table : List FaultEntry) : State :=
  { station role noon with faults := { State.reset.faults with table := table } }

theorem witness_FaultsCommanded :
    stocked.openTo anyRole = true ∧ 8 < 9 ∧ faultKindOf 1 = some .coinMech ∧ faultKindOf 8 = some .hostOther
      ∧ (faulty .fixed [fault 3 .cleared]).ownFault .coinMech 0 = some (fault 3 .cleared)
      ∧ (faulty .fixed [fault 3 .raised]).ownFault .coinMech 0 = some (fault 3 .raised)
      ∧ stocked.ownFault .coinMech 0 = none ∧ stocked.faults.table.length < 64
      ∧ (let t := List.replicate 64 { fault 3 .raised with kind := FaultKind.tamper }
         64 ≤ t.length ∧ (faulty .fixed t).ownFault .coinMech 0 = none ∧ evictee 3 true t = none)
      ∧ (let t := List.replicate 64 (fault 9 .raised)
         64 ≤ t.length ∧ (faulty .fixed t).ownFault .coinMech 0 = none ∧ evictee 3 true t = some (fault 9 .raised))
      ∧ (faulty .gateway []).openTo gatewayOnly = true ∧ (faulty .gateway []).openTo (clearRole 3) = true
      ∧ (faulty .engineer []).openTo (clearRole 9) = true ∧ (faulty .gateway []).openTo (clearRole 33) = true
      ∧ 0 < 1 ∧ 32 < 33 ∧ (16 ≤ 16 ∧ 1 ≠ 0) ∧ faultKindOf 19 = none ∧ (16 < 17 ∧ 32 ≤ 32)
      ∧ findFault 9 .coinMech 0 (faulty .gateway []).faults.table = none
      ∧ findFault 9 .coinMech 0 [fault 9 .raised] = some (fault 9 .raised) ∧ 9 ≠ (faulty .gateway []).own
      ∧ findFault 3 .coinMech 0 [fault 3 .cleared] = some (fault 3 .cleared) ∧ 3 = (faulty .gateway []).own
      ∧ (faulty .engineer []).openTo engineerOnly = true ∧ (faulty .engineer []).openTo pagerRole = true
      ∧ 4294967295 ≤ 4294967295 ∧ 4294967295 < 4294967296 ∧ 65535 < 65536 ∧ stocked.canPlace = true := by
  decide +kernel

/-! ### Power and sense -/

/-- The stocked station in a power state, due for DORMANT or not, with a supply warning or none. -/
def powered (st : PowerState) (due : Bool) (warning : Option Nat) (supply : Option Bool) : State :=
  { stocked with power := { Power.afterReset false false with state := st, dormantDue := due, warning := warning, supply := supply } }

/-- A station whose REST waits for its response to be read. -/
def resting (st : PowerState) (warning : Option Nat) (events : List EventEntry) : State :=
  { stocked with
    port := { stocked.port with buffer := some response, events := events }
    power := { Power.afterReset false false with state := st, restTaken := true, warning := warning } }

theorem witness_SenseAndRest :
    stocked.openTo anyRole = true ∧ stocked.sales.sale = none ∧ stocked.port.events = []
      ∧ stocked.power.state = .awake ∧ (selling sale).openTo anyRole = true ∧ (selling sale).sales.sale.isSome = true
      ∧ (powered .listening false none none).openTo anyRole = true
      ∧ (powered .listening false none none).power.state ≠ .awake
      ∧ (let s : State := { stocked with port := { stocked.port with events := fullQueue } }
         s.openTo anyRole = true ∧ s.port.events ≠ [])
      ∧ (resting .awake none []).port.resetHigh = true ∧ (resting .awake none []).port.buffer = some response
      ∧ (resting .awake none []).power.restTaken = true ∧ (resting .awake none fullQueue).port.events ≠ []
      ∧ (resting .listening none []).power.state ≠ .awake ∧ (resting .awake none []).power.warning = none
      ∧ (resting .awake (some 0) []).power.warning.isSome = true := by decide +kernel

theorem witness_PowerRead :
    unset.takesRequest = true ∧ unset.setupDone = false ∧ stocked.takesRequest = true ∧ stocked.setupDone = true := by
  decide +kernel

/-- A station whose group 2 (or every group) stands so. -/
def sensed (x : SenseGroup) : State :=
  { stocked with sense := { stocked.sense with groups := List.replicate 4 x } }

/-- A group with a complete run of the active level. -/
def completeRun (st : Settled) : SenseGroup :=
  { settings := some senseOn, settled := st, runLevel := true, runCount := 2, changes := 65535, lastSample := 699936 }

theorem witness_SenseGroupsSettle :
    (sensed (completeRun .unsettled)).port.resetHigh = true
      ∧ (sensed (completeRun .unsettled)).groupAt 2 = completeRun .unsettled
      ∧ stocked.groupAt 0 = SenseGroup.afterReset ∧ SenseGroup.afterReset.settled = .disabled
      ∧ (completeRun .inactive).lastSample + periodMs (completeRun .inactive) ≤ stocked.clock.elapsed
      ∧ stocked.clock.elapsed
          < ({ completeRun .inactive with lastSample := 699937 } : SenseGroup).lastSample + periodMs (completeRun .inactive)
      ∧ (completeRun .unsettled).settled ≠ .disabled ∧ (completeRun .unsettled).runCount ≠ 0
      ∧ (settingsOf (completeRun .unsettled)).debounce ≤ (completeRun .unsettled).runCount
      ∧ 1 < (settingsOf (completeRun .unsettled)).debounce
      ∧ (completeRun .unsettled).runLevel = (settingsOf (completeRun .unsettled)).activeHigh
      ∧ (completeRun .active).settled ≠ .unsettled ∧ (completeRun .active).settled = .active
      ∧ (completeRun .inactive).settled ≠ .active
      ∧ stocked.isMachine = true ∧ (sensed (completeRun .active)).groupKnown 0 = true
      ∧ (sensed (completeRun .active)).groupKnown 1 = true ∧ (sensed (completeRun .unsettled)).groupKnown 1 = false
      ∧ (station .engineer noon).isMachine = false := by decide +kernel

theorem witness_SupplyAndWake :
    (powered .listening false none none).port.resetHigh = true
      ∧ (powered .listening false none none).power.state = .listening
      ∧ (powered .listening false none none).power.dormantDue = false
      ∧ (powered .listening true none none).power.dormantDue = true ∧ stocked.power.state ≠ .listening
      ∧ (powered .awake false none (some true)).power.supply = some true ∧ stocked.power.supply ≠ some true
      ∧ (powered .dormant false none none).power.state = .dormant
      ∧ (powered .dormant false none (some true)).power.supply = some true
      ∧ (powered .awake false (some 0) (some true)).power.warning.isSome = true
      ∧ (powered .listening true none (some true)).power.dormantDue = true
      ∧ (powered .awake false (some 640000) none).power.warning = some 640000
      ∧ 640000 + 60000 ≤ stocked.clock.elapsed ∧ stocked.clock.elapsed < 640001 + 60000
      ∧ (let s : State :=
           { powered .listening true none none with link := { stocked.link with
             line := some (.announce 0 { announceLow with dormant := true }) } }
         s.power.dormantDue = true ∧ 0 + announceMs ≤ s.clock.elapsed
          ∧ s.link.line = some (.announce 0 { announceLow with dormant := true }))
      ∧ (powered .listening true none none).link.line = none ∧ unset.setupDone = false
      ∧ (powered .listening true none none).clock.zone.isSome = true ∧ State.reset.clock.zone = none
      ∧ wakeName { stocked with port := { stocked.port with events := [⟨.visit 1 21, none⟩] } } = some .visit
      ∧ wakeName stocked = none ∧ stocked.setupDone = true := by decide +kernel

/-! ### Frames, the line and the timers -/

theorem witness_FramesFiltered :
    stocked.port.resetHigh = true ∧ stocked.canReceive = true ∧ (station .fixed noon).canReceive = false
      ∧ carriedFrame (.page (fromTo 30 3) 5) = some (fromTo 30 3, .page 5)
      ∧ filterStep stocked.zoneNo stocked.own (fromTo 33 3) (.page 5) = some .header
      ∧ filterStep stocked.zoneNo stocked.own (fromTo 3 3) (.page 5) = some .sender
      ∧ filterStep stocked.zoneNo stocked.own (fromTo 30 3) (.page 5) = none ∧ isAnnounce (.page 5) = false
      ∧ stocked.peer 9 = none ∧ stocked.peer 1 = some (peerAs 1 .fixed) ∧ senderTrusted (.page 5) .fixed = false
      ∧ filterBytes stocked.zoneNo stocked.own (frameBytes (fromTo 3 3) (.page 5)) = .inl .sender
      ∧ filterBytes stocked.zoneNo stocked.own (frameBytes (fromTo 30 4) (.page 5)) ≠ .inl .sender
      ∧ (let s : State := { stocked with link := { stocked.link with lastDuplicate := some 668000 } }
         s.link.lastDuplicate = some 668000 ∧ 668000 + 32000 ≤ s.clock.elapsed)
      ∧ stocked.clock.elapsed < 668001 + 32000 ∧ stocked.link.lastDuplicate = none := by decide +kernel

/-- An intake of the tariff from station 1. -/
def fetching : Intake :=
  { obj := .tariff, key := ⟨6, 2⟩, provider := 1, next := 0, info := none, bytes := [], progress := 0, phase := .receiving
    placed := false }

/-- The first fragment of the intake's image. -/
def fragment0 : FragmentBody :=
  { obj := .tariff, key := ⟨6, 2⟩, index := 0, count := 4, length := 324, check := 0#16, data := List.replicate 96 0#8 }

/-- The stocked station with an intake. -/
def fetchingState : State := { stocked with repl := { State.reset.repl with intake := some fetching } }

/-- The stocked station with a round context. -/
def roundState (st : RoundState) : State :=
  { stocked with rounds := { State.reset.rounds with
    ctx := { round := 4, collector := some 21, state := st, visitRecord := none, visitStart := some 0 } } }

theorem witness_FramesHonoured :
    stocked.honours (fromTo 1 3) (.request .usage) = true ∧ fetchingState.honours (fromTo 1 3) (.fragment fragment0) = true
      ∧ fetchingState.repl.intake = some fetching ∧ acceptsFragment fetching 1 fragment0 = true
      ∧ acceptsFragment fetching 2 fragment0 = false
      ∧ fetchingState.honours (fromTo 1 3) (.notHeld .tariff ⟨6, 2⟩) = true
      ∧ (fetching.provider = 1 ∧ fetching.obj = .tariff ∧ fetching.key = ⟨6, 2⟩)
      ∧ fetchingState.honours (fromTo 1 3) (.superseded .tariff ⟨7, 2⟩) = true
      ∧ Key.higher ⟨7, 2⟩ fetching.key = true ∧ fetchingState.qualifies .tariff ⟨7, 2⟩ = true
      ∧ Key.higher ⟨6, 2⟩ fetching.key = false
      ∧ stocked.honours (fromTo 2 0) (.amendment 3 key5 ⟨6, 2⟩ .close) = true
      ∧ stocked.honours (fromTo 1 0) (.usage (.single 20000 1 11 10)) = true
      ∧ stocked.honours (fromTo 1 0) (.faultReport (.single 1 (fault 1 .raised))) = true
      ∧ stocked.honours (fromTo 2 3) (.faultAck .coinMech 0) = true
      ∧ stocked.honours (fromTo 30 3) (.faultClear .coinMech 0) = true
      ∧ stocked.honours (fromTo 21 0) (.roundOpen 5) = true ∧ stocked.isMachine = true
      ∧ stocked.honours (fromTo 21 3) (.roundVisit 4) = true ∧ (roundState .visited).honours (fromTo 21 3) (.roundVisit 4) = true
      ∧ (roundState .visited).rounds.ctx.round = 4 ∧ (roundState .visited).rounds.ctx.collector = some 21
      ∧ (roundState .reported).honours (fromTo 21 3) (.roundVisit 4) = true
      ∧ (roundState .removed).honours (fromTo 21 0) (.roundClose 4) = true
      ∧ stocked.honours (fromTo 1 3) (.collectionReport (report none)) = true
      ∧ stocked.isRole .collector = false ∧ stocked.honours (fromTo 21 3) (.collectionAck 1 1) = true
      ∧ stocked.honours (fromTo 30 3) (.restart 0x56789ABC) = true
      ∧ 0x56789ABC = stocked.port.unique.toNat % 4294967296 ∧ stocked.honours (fromTo 30 3) (.page 5) = true := by
  decide +kernel

/-- The same peers around stations of another role. -/
def among (role : Role) : State := { station role noon with link := stocked.link }

theorem witness_FramesHonoured_roles :
    (among .collector).honours (fromTo 1 3) (.collectionReport (report none)) = true
      ∧ (among .collector).isRole .collector = true ∧ (among .engineer).honours (fromTo 21 0) (.roundOpen 5) = true
      ∧ (among .engineer).isMachine = false := by decide +kernel

theorem witness_AnnounceTaken :
    stocked.accepts (fromTo 1 0) (.announce announceLow) = true
      ∧ stocked.accepts (fromTo 9 0) (.announce announceHigh) = true
      ∧ (timed (some 3) 0).quality = some 3 ∧ announceHigh.dormant = true ∧ announceLow.dormant = false
      ∧ stocked.peer 1 = some (peerAs 1 .fixed) ∧ 2 ≠ 1 := by decide +kernel

/-- The station in an exchange period with a frame to send. -/
def sending (access : Access) (attempt : Nat) (line : Option OnLine) : State :=
  { station .fixed (noon + 8000) with link := { State.reset.link with
    access := access, line := line, tx := [⟨1, .roundClose 4, attempt, .other⟩] } }

theorem witness_MediumAccess :
    (sending .waitIdle 0 none).port.resetHigh = true ∧ (sending .waitIdle 0 none).inExchange = true
      ∧ (sending .held 0 none).link.access ≠ .waitIdle ∧ stocked.backoffOver = false
      ∧ (sending (.backoff 0) 0 none).link.access = .backoff 0
      ∧ 0 + (((sending (.backoff 0) 0 none).own + 0) % 8 + 1) * 20 ≤ (sending (.backoff 0) 0 none).clock.elapsed
      ∧ 6 < 7 ∧ 7 ≤ 7
      ∧ (sending (.backoff 0) 0 none).headFits ⟨1, .roundClose 4, 0, .other⟩ = true
      ∧ (let s : State := { sending (.backoff 0) 0 none with clock := clockAt 31999 }
         s.inExchange = true ∧ s.headFits ⟨1, .roundClose 4, 0, .other⟩ = false)
      ∧ ({ sending (.backoff 0) 0 none with clock := clockAt 3999 } : State).inExchange = false
      ∧ stocked.frameOut = false
      ∧ (sending .off 0 (some (.exchange 0))).link.line = some (.exchange 0)
      ∧ 0 + lineMs (frameLength (.roundClose 4)) ≤ (sending .off 0 (some (.exchange 0))).clock.elapsed
      ∧ stocked.announceOut = false ∧ (sending .off 0 (some (.announce 0 announceLow))).announceOut = true
      ∧ (sending .off 0 (some (.announce 0 announceLow))).entryDue = false := by decide +kernel

/-- The stocked station with its receive path so. -/
def onPath (p : RxPath) : State := { stocked with link := { stocked.link with path := p } }

/-- The first nine bytes of a ten-byte frame. -/
def nineBytes : List Byte := (frameBytes (fromTo 21 3) (.roundVisit 306)).take 9

theorem witness_BytesReceived :
    stocked.port.resetHigh = true ∧ unset.setupDone = false ∧ stocked.setupDone = true ∧ stocked.link.receiver = true
      ∧ stocked.link.line = none ∧ stocked.link.path = .idle
      ∧ (onPath (.waitQuiet 699998)).link.path = .waitQuiet 699998 ∧ stocked.clock.elapsed < 699998 + 3
      ∧ 699997 + 3 ≤ stocked.clock.elapsed ∧ stocked.clock.elapsed < 699997 + 4 ∧ 699996 + 4 ≤ stocked.clock.elapsed
      ∧ (onPath (.collecting nineBytes 699990 699997)).link.path = .collecting nineBytes 699990 699997
      ∧ (6 ≤ (nineBytes ++ [0#8]).length ∧ fieldAt (nineBytes ++ [0#8]) 5 1 ≤ 112
          ∧ (nineBytes ++ [0#8]).length = 8 + fieldAt (nineBytes ++ [0#8]) 5 1)
      ∧ (6 ≤ ([0#8, 7#8, 1#8, 0#8, 1#8] ++ [113#8]).length ∧ 112 < fieldAt ([0#8, 7#8, 1#8, 0#8, 1#8] ++ [113#8]) 5 1)
      ∧ ([0#8] ++ [7#8]).length < 6 ∧ stocked.link.waiting = none ∧ waiting.link.waiting.isSome = true := by
  decide +kernel

/-- The stocked station with an intake at a phase, its last progress at 0. -/
def stalled (phase : IntakePhase) : State :=
  { stocked with repl := { State.reset.repl with intake := some { fetching with phase := phase } } }

theorem witness_DurationsRunOut :
    stocked.port.resetHigh = true ∧ stocked.repl.intake = none
      ∧ (stalled .requesting).repl.intake = some { fetching with phase := .requesting }
      ∧ fetchingState.repl.intake = some fetching ∧ fetching.progress + 3000 ≤ stocked.clock.elapsed
      ∧ ({ clockAt noon with elapsed := 2999 } : Clock).elapsed < fetching.progress + 3000
      ∧ ((fetchingState.wantOf .tariff).map (·.timeouts)).getD 0 + 1 < 3 ∧ 3 ≤ 2 + 1
      ∧ stocked.peer 9 = none ∧ stocked.peer 1 = some (peerAs 1 .fixed) ∧ stocked.power.state ≠ .dormant
      ∧ (peerAs 1 .fixed).lastHeard + 256000 ≤ stocked.clock.elapsed ∧ (peerAs 1 .fixed).status = .live
      ∧ (powered .dormant false none none).power.state = .dormant ∧ stocked.clock.elapsed < 0 + 86400000
      ∧ ({ clockAt noon with elapsed := 86400000 } : Clock).elapsed ≥ 0 + 86400000
      ∧ (stocked.sectionAt 3).behindSince = none
      ∧ ({ clockAt noon with elapsed := 3600000 } : Clock).elapsed ≥ 0 + 3600000 ∧ stocked.clock.elapsed < 0 + 3600000
      ∧ stocked.rounds.ctx.state ≠ .visited ∧ (roundState .visited).rounds.ctx.visitStart = some 0
      ∧ (roundState .visited).doorOpen = false ∧ 0 + 600000 ≤ (roundState .visited).clock.elapsed
      ∧ stocked.clock.elapsed < 100001 + 600000 := by decide +kernel

theorem witness_FramesReadBack :
    FrameHeader.fits (fromTo 255 255) = true ∧ FrameBody.fits (.announce announceHigh) = true
      ∧ FrameBody.fits (.announce announceLow) = true ∧ FrameBody.fits (.fragment fragment0) = true := by decide +kernel

theorem witness_ImagesReadBack :
    PermitRec.fits permit = true ∧ TariffSet.fits tariffSet = true ∧ sectionFits section3 = true ∧ 7 ≤ 7
      ∧ 3 < fragmentCount (tariffImage tariffSet).length := by decide +kernel

/-! ### What the units do: more hypotheses met -/

/-- The stocked station in an exchange period, in a power state, its receiver on or off, with a round context that stands and a log
of one record. -/
def owing (st : PowerState) (receiver : Bool) (tx : List TxFrame) (r : LogRec) : State :=
  { stocked with
    clock := clockAt (noon + 8000)
    link := { stocked.link with receiver := receiver, tx := tx }
    rounds := { (roundState .opened).rounds with log := [logRecord, r] }
    power := { Power.afterReset false false with state := st } }

/-- A log record that is due, and held back or not. -/
def dueRecord (held : Bool) : LogRec := { logRecord with due := true, held := held }

/-- Eight frames of no report. -/
def fullTx : List TxFrame := List.replicate 8 ⟨0, .roundClose 1, 0, .other⟩

theorem witness_PutInOrderFrame :
    (owing .listening false [] (dueRecord false)).inExchange = true
      ∧ (owing .listening false [] (dueRecord false)).holdsReceiver = true
      ∧ (owing .listening false [] (dueRecord false)).receiverDue = false
      ∧ (owing .listening false [] (dueRecord false)).link.path = .idle
      ∧ (owing .awake true [] (dueRecord false)).receiverDue = true
      ∧ (owing .awake false [] (dueRecord false)).receiverDue = true
      ∧ (owing .dormant true [] (dueRecord false)).receiverDue = false
      ∧ (onPath (.collecting [] 0 0)).link.path = .collecting [] 0 0
      ∧ (sending .off 0 none).mayTransmit = true ∧ (sending .off 0 none).link.tx ≠ [] ∧ stocked.inExchange = false
      ∧ (owing .awake true [] (dueRecord false)).mayReport = true
      ∧ (owing .awake true [] (dueRecord false)).rounds.log = [logRecord] ++ dueRecord false :: []
      ∧ logRecord.due = false ∧ (dueRecord true).due = true ∧ (dueRecord true).held = true
      ∧ (owing .awake true [] (dueRecord false)).rounds.ctx.collector = some 21
      ∧ (owing .awake true [] (dueRecord false)).canPlace = true
      ∧ (owing .awake true fullTx (dueRecord false)).mayReport = true
      ∧ (owing .awake true fullTx (dueRecord false)).canPlace = false := by decide +kernel

/-- The coins of an open segment that began with other denominations. -/
def otherCoins : Cash := { oneRecord with values := some [10, 20] }

theorem witness_SetupTaken_units :
    stocked.port.setup.isSome = true ∧ stocked.isMachine = true ∧ (station .fixed noon).tariff.active = none
      ∧ stocked.permits.ownDay < ({ clockAt noon with rolloverDay := 1 } : Clock).rolloverDay
      ∧ stocked.clock.rolloverDay ≤ stocked.permits.ownDay
      ∧ (otherCoins.openSeg = some ⟨1, 1, 1⟩ ∧ otherCoins.values = some [10, 20] ∧ [10, 20] ≠ stocked.denoms)
      ∧ oneRecord.values = some stocked.denoms ∧ State.reset.cash.openSeg = none
      ∧ stocked.groupKnown 0 = true ∧ stocked.groupKnown 1 = true
      ∧ (sensed (completeRun .unsettled)).groupKnown 0 = false ∧ (station .engineer noon).isMachine = false := by
  decide +kernel

theorem witness_SetTimeTaken_units :
    (let s : State := { stocked with tariff := { stocked.tariff with pending := some { tariffSet with effectiveFrom := 86400 } } }
     s.tariff.pending = some { tariffSet with effectiveFrom := 86400 } ∧ 86400 ≤ 86400000 / 1000
      ∧ 86399999 / 1000 < 86400)
      ∧ stocked.tariff.pending = none ∧ stocked.clock.rolloverDay < 86400000 / 86400000
      ∧ 86399999 / 86400000 ≤ stocked.clock.rolloverDay
      ∧ cycleSkipped (some 31999) 32000 = false ∧ cycleSkipped (some 31999) 32001 = true
      ∧ cycleSkipped none 32001 = false := by decide +kernel

theorem witness_MarksGiven_units :
    stocked.port.setup.isSome = true ∧ 75 ≤ 75 ∧ updateDue 3 74 [(3, 80), (4, 90)] = [(4, 90)]
      ∧ updateDue 3 75 [(4, 90)] = [(4, 90), (3, 75)]
      ∧ headOnLine { stocked.link with line := some (.exchange 5) } = true ∧ headOnLine stocked.link = false := by
  decide +kernel

/-- A REQUEST's supply entry of station 1. -/
def asked (item : SupplyItem) : SupplyEntry := freshSupply 1 item 0

/-- The stocked station that serves these entries. -/
def serving (q : List SupplyEntry) (tx : List TxFrame) : State :=
  { stocked with repl := { State.reset.repl with supply := q }, link := { stocked.link with tx := tx } }

theorem witness_PeerAndReplicationRead_units :
    (stocked.heldImage .tariff key5).isSome = true ∧ stocked.heldImage .tariff ⟨4, 2⟩ = none
      ∧ fragmentCount (tariffImage tariffSet).length ≤ 4 ∧ 3 < fragmentCount (tariffImage tariffSet).length
      ∧ stocked.currentKey .tariff = some key5 ∧ Key.higher key5 ⟨4, 2⟩ = true ∧ Key.higher key5 ⟨6, 2⟩ = false
      ∧ stocked.heldImage .tariff ⟨6, 2⟩ = none ∧ stocked.repl.supply = []
      ∧ (∀ x ∈ [asked .usage], sameRequest (asked (.faults 1)) x = false)
      ∧ (List.replicate 3 (asked .usage)).length < 4 ∧ 4 ≤ (List.replicate 4 (asked .usage)).length
      ∧ sameRequest (asked (.faults 9)) (asked (.faults 1)) = true
      ∧ sameRequest (asked (.faults 9)) (asked .usage) = false
      ∧ ({ asked .usage with placed := true } : SupplyEntry).placed = true ∧ (asked .usage).placed = false
      ∧ (serving [asked .usage] fullTx).canPlace = false ∧ (serving [asked .usage] []).canPlace = true
      ∧ ((serving [asked .usage] []).supplyFrame
          { asked .usage with series := (serving [asked .usage] []).fixedSeries (asked .usage) }).isSome = true
      ∧ (asked (.faults 1)).item = .faults 1 ∧ (asked .usage).item = .usage := by decide +kernel

/-- The stocked station that wants a tariff key. -/
def wanting (key : Key) (pendingOnly : Bool) (cands : List Nat) : State :=
  { stocked with repl := { State.reset.repl with want := [⟨.tariff, key, pendingOnly, cands, [], 0⟩] } }

theorem witness_KeysAndTargets_units :
    stocked.wantOf .tariff = none ∧ ((wanting ⟨6, 2⟩ false [1]).wantOf .tariff).isSome = true
      ∧ (wanting key5 false []).entryQualifies ⟨.tariff, key5, false, [], [], 0⟩ = false
      ∧ (wanting ⟨6, 2⟩ false [1]).entryQualifies ⟨.tariff, ⟨6, 2⟩, false, [1], [], 0⟩ = true
      ∧ (let s : State := { wanting ⟨6, 2⟩ false [1] with link := { stocked.link with
           peers := [{ peerAs 1 .fixed with active := some ⟨6, 2⟩ }, { peerAs 2 .gateway with active := some ⟨7, 2⟩ }] } }
         s.target .tariff = some ⟨7, 2⟩ ∧ Key.higher ⟨7, 2⟩ ⟨6, 2⟩ = true
          ∧ 1 ∈ s.candidates .tariff ⟨6, 2⟩ [] ∧ 2 ∉ s.candidates .tariff ⟨6, 2⟩ [])
      ∧ (let s : State := { wanting ⟨6, 2⟩ false [] with link := { stocked.link with
           peers := [{ peerAs 1 .fixed with active := some ⟨6, 2⟩ }] } }
         s.target .tariff = some ⟨6, 2⟩ ∧ Key.higher ⟨6, 2⟩ ⟨6, 2⟩ = false)
      ∧ (wanting ⟨6, 2⟩ false [1]).target .tariff = none := by decide +kernel

theorem witness_TariffPublished_units :
    tariffOf [] = none ∧ tariffOf (tariffImage tariffSet) = some tariffSet ∧ tariffSet.key ≠ some ⟨6, 2⟩
      ∧ tariffSet.key = some key5 ∧ validate tariffSet = none ∧ State.reset.clock.zone = none
      ∧ tariffSet.effectiveFrom ≤ 1728043200
      ∧ Key.higherOpt key5 (slotKey stocked.tariff.active) = false
      ∧ Key.higherOpt key5 (slotKey (station .fixed noon).tariff.active) = true
      ∧ 1728043200 < ({ tariffSet with effectiveFrom := 1728043201 } : TariffSet).effectiveFrom
      ∧ Key.higherOpt key5 (slotKey (station .fixed noon).tariff.pending) = true := by decide +kernel

/-- An allowance sale that can be taken: the station settled for its day. -/
def allowed : State :=
  { settledDay [] with sales := { sale := some allowanceSale, openMark := true } }

/-- A usage entry with contributions of these stations. -/
def usedBy (stations : List Nat) : UsageEntry := ⟨11, 20000, stations.map fun n => (n, 1), false⟩

theorem witness_SaleCommitted_usage :
    allowed.openTo machineOnly = true ∧ allowed.sales.sale = some allowanceSale
      ∧ (match requote allowed allowanceSale with
          | .sold q => q.paidMinutes == 10
          | _ => false) = true
      ∧ commitBlocked allowanceSale allowed = false ∧ usageRefused 1728043200 allowanceSale allowed = false
      ∧ journalFull allowed.cash = false ∧ saleKind allowanceSale = .allowanceUse
      ∧ saleKind carded ≠ .allowanceUse ∧ allowanceSale.permit = some (applied .allowance)
      ∧ 19999 < allowed.permits.ownDay ∧ allowed.permits.ownDay ≤ 20000
      ∧ contribOf 3 (usedBy [1, 3]) = some 1 ∧ contribOf 3 (usedBy [1, 2, 4, 5, 6]) = none
      ∧ (usedBy [1, 2, 4, 5, 6]).contribs.length < 6 ∧ 6 ≤ (usedBy [1, 2, 4, 5, 6, 7]).contribs.length
      ∧ contribOf 3 (usedBy [1, 2, 4, 5, 6, 7]) = none := by decide +kernel

theorem witness_SectionsAmended_units :
    sectionOf [] = none ∧ sectionOf (sectionImage 3 section3) = some (3, some key5, false, [permit])
      ∧ sectionImageOk 3 ⟨6, 2⟩ (3, some key5, false, [permit]) = false
      ∧ sectionImageOk 3 key5 (3, some key5, false, [permit]) = true
      ∧ Key.higherOpt key5 (stocked.sectionKey 3) = false
      ∧ Key.higherOpt key5 ((station .fixed noon).sectionKey 3) = true
      ∧ 3 < (station .fixed noon).permits.sections.length
      ∧ (⟨6, 2⟩ : Key).gen = key5.gen + 1 ∧ (⟨6, 2⟩ : Key).pub = 2 ∧ stocked.sectionKey 3 = some key5
      ∧ changeFits 3 (.status 11 .revoked) = true ∧ changeFits 4 (.status 11 .revoked) = false
      ∧ (permitted permit true).isBehind 3 = true ∧ ((permitted permit true).sectionAt 3).behindSince = none
      ∧ stocked.isBehind 3 = (stocked.sectionAt 3).behindSince.isSome
      ∧ (let s : State := { stocked with permits := { stocked.permits with
           sections := List.replicate 8 { section3 with behindSince := some 0 } } }
         s.isBehind 3 = false ∧ (s.sectionAt 3).behindSince.isSome = true
          ∧ (judgeSection s 3).behindMap ≠ s.behindMap ∧ (judgeSection s 3).someBehind = true) := by decide +kernel

/-- A series of one part. -/
def series1 : Series := { start := 20000, endPoint := 5, parts := 1 }

theorem witness_PermitAndAccountReads_units :
    stocked.today = some 20000 ∧ 19999 < 20000 ∧ 20000 ≤ 20000 ∧ 0 < 1 ∧ 1440 < 1441 ∧ 1 ≤ 1 ∧ 1440 ≤ 1440
      ∧ (settledDay [usedBy [1]]).usageOf 11 20000 = some (usedBy [1]) ∧ stocked.usageOf 11 20000 = none
      ∧ contribOf 1 (usedBy [1]) = some 1 ∧ contribOf 3 (usedBy [1]) = none
      ∧ 6 ≤ (usedBy [1, 2, 4, 5, 6, 7]).contribs.length
      ∧ (List.replicate 95 (usedBy [])).length < 96 ∧ 96 ≤ (List.replicate 96 (usedBy [])).length
      ∧ seriesComplete (joinSeries none series1 0 9) = true
      ∧ seriesComplete (joinSeries none { series1 with parts := 2 } 0 9) = false
      ∧ (19999 < series1.start ∨ (20000 = series1.start ∧ 4 < series1.endPoint))
      ∧ (series1.start < 20001 ∨ (series1.start = 20000 ∧ series1.endPoint ≤ 5)) := by decide +kernel

/-- A machine in a round context at an announce of its peer 21. -/
def following (st : RoundState) (round : Nat) : State :=
  { roundState st with rounds := { (roundState st).rounds with ctx := { (roundState st).rounds.ctx with round := round } } }

theorem witness_RoundsCommanded_units :
    (roundState .opened).rounds.ctx.state ≠ .idle ∧ (roundState .opened).rounds.ctx.round = 4
      ∧ (roundState .opened).rounds.ctx.collector = some 21 ∧ stocked.rounds.ctx.state = .idle
      ∧ stocked.peer 9 = none ∧ stocked.peer 21 = some (peerAs 21 .collector) ∧ stocked.isMachine = true
      ∧ (among .engineer).isMachine = false
      ∧ (following .visited 5).rounds.ctx.collector = some 21
      ∧ (peerAs 21 .collector).round ≠ (following .visited 5).rounds.ctx.round
      ∧ (peerAs 21 .collector).role = .collector ∧ (peerAs 21 .collector).roundState = .opened
      ∧ (peerAs 21 .collector).collector = some 21 ∧ (peerAs 2 .gateway).role ≠ .collector
      ∧ (following .removed 4).rounds.ctx.state ≠ .idle ∧ (following .removed 4).rounds.ctx.state ≠ .opened
      ∧ (let s : State := { following .opened 4 with link := { stocked.link with
           peers := [peerAs 21 .collector, { peerAs 22 .collector with collector := some 22, round := 9 }] } }
         (s.peer 21).map (·.roundState) = some .opened ∧ (s.peer 21).map (·.round) = some 4) := by decide +kernel

theorem witness_SheetRead_units :
    (collecting .idle 306).rounds.ctx.state = .idle ∧ (collecting .opened 306).rounds.ctx.state ≠ .idle
      ∧ (collecting .opened 306).rounds.sheet.length < 32
      ∧ 32 ≤ (List.replicate 32 ((8, report none) : Nat × CollectionData)).length
      ∧ (∀ x ∈ List.replicate 32 ((8, report none) : Nat × CollectionData), x.1 ≠ 9 ∨ x.2.firstSeg ≠ 65535)
      ∧ [((8, report none) : Nat × CollectionData)] = [] ++ (8, report none) :: []
      ∧ segmentsAbove 65535 65535 < segmentsAbove 65535 1 ∧ segmentsAbove 65535 1 ≤ segmentsAbove 65535 1 := by
  decide +kernel

theorem witness_RoundAndFaultsRead_units :
    (fault 9 .raised).owner ≠ 3 ∧ (fault 9 .raised).owner = 9
      ∧ findFault 9 .coinMech 0 [fault 9 .raised] = some (fault 9 .raised) ∧ findFault 9 .coinMech 0 [] = none
      ∧ (fault 9 .raised).change ≤ (fault 9 .raised).change
      ∧ (fault 9 .raised).change < ({ fault 9 .raised with change := 3 } : FaultEntry).change
      ∧ 64 ≤ (List.replicate 64 (fault 5 .cleared)).length ∧ (List.replicate 63 (fault 5 .cleared)).length < 64
      ∧ evictee 3 false (List.replicate 64 (fault 5 .cleared)) = some (fault 5 .cleared)
      ∧ evictee 3 false (List.replicate 64 (fault 5 .raised)) = none
      ∧ seriesComplete (joinSeries (some ⟨series1, [], 0⟩) series1 0 9) = true
      ∧ ({ series1 with parts := 2 } : Series) ≠ series1 := by decide +kernel

/-- The machine in a round state, its DOOR and BOX groups settled so, and its log of these records. -/
def atBox (st : RoundState) (door box : Settled) (log : List LogRec) : State :=
  { roundState st with
    sense := { stocked.sense with
      groups := [{ SenseGroup.afterReset with settled := door }, { SenseGroup.afterReset with settled := box },
        SenseGroup.afterReset, SenseGroup.afterReset] }
    rounds := { (roundState st).rounds with
      log := log, ctx := { (roundState st).rounds.ctx with visitRecord := some 65535 } } }

theorem witness_RemovalRecorded_units :
    (atBox .visited .active .active []).rounds.ctx.state = .visited ∧ (atBox .visited .active .active []).boxAbsent = true
      ∧ (atBox .visited .active .inactive []).boxAbsent = false ∧ (atBox .visited .active .inactive []).doorOpen = true
      ∧ (atBox .opened .inactive .active []).rounds.ctx.state ≠ .visited
      ∧ (atBox .opened .inactive .active []).rounds.ctx.state ≠ .removed
      ∧ (atBox .visited .inactive .inactive []).doorOpen = false
      ∧ (atBox .visited .inactive .inactive []).rounds.ctx.visitStart = some 0
      ∧ 0 + 600000 ≤ (atBox .visited .inactive .inactive []).clock.elapsed
      ∧ (atBox .visited .inactive .inactive []).clock.elapsed < 100001 + 600000
      ∧ (atBox .removed .inactive .inactive [logRecord]).rounds.ctx.state = .removed
      ∧ (atBox .removed .inactive .inactive [logRecord]).rounds.ctx.visitRecord = some 65535
      ∧ (∃ r ∈ (atBox .removed .inactive .inactive [logRecord]).rounds.log, r.data.firstSeg = 65535)
      ∧ (∀ r ∈ (atBox .removed .inactive .inactive []).rounds.log, r.data.firstSeg ≠ 65535)
      ∧ (roundState .removed).rounds.ctx.visitRecord = none
      ∧ (atBox .reported .inactive .inactive [logRecord]).rounds.log = [] ++ logRecord :: []
      ∧ logRecord.data.firstSeg = 65535 ∧ logRecord.data.lastSeg = 1
      ∧ (∀ r ∈ [logRecord], r.data.firstSeg ≠ 65535 ∨ r.data.lastSeg ≠ 2) := by decide +kernel

/-- The stocked station with one peer of a status. -/
def beside (n : Nat) (st : PeerStatus) : State :=
  { stocked with link := { stocked.link with peers := [{ peerAs n .fixed with status := st }] } }

theorem witness_FaultsCommanded_units :
    (beside 5 .silent).observes 5 = true ∧ stocked.observes 30 = false ∧ stocked.observes 9 = false
      ∧ (beside 5 .silent).faultStands .stationDormant 5 = false
      ∧ (let s : State := { beside 5 .dormant with faults := { State.reset.faults with
           table := [{ fault 3 .raised with kind := .stationDormant, subject := 5 }] } }
         s.faultStands .stationDormant 5 = true ∧ s.observes 5 = true)
      ∧ PeerStatus.dormant ≠ .silent ∧ (peerAs 1 .fixed).status = .live
      ∧ ({ peerAs 5 .fixed with status := .silent } : PeerEntry).status = .silent
      ∧ (beside 5 .silent).faultStands .stationSilent 5 = false := by decide +kernel

/-- The stocked station with a run of samples of the two pins. -/
def sampledPins (count : Nat) (level : Bool) (supply : Option Bool) (run : ButtonRun) (st : PowerState) : State :=
  { stocked with power := { Power.afterReset false false with
    state := st, supply := supply, supplyRunCount := count, supplyRunLevel := level, buttonRun := run } }

theorem witness_SupplyAndWake_pins :
    (sampledPins 15 true none .once .listening).supplyDue true = false
      ∧ (sampledPins 16 true none .press .listening).supplyDue true = true
      ∧ (sampledPins 16 true (some true) .press .awake).supplyDue true = false
      ∧ (sampledPins 16 false none .waiting .awake).supplyDue false = true
      ∧ (sampledPins 16 false (some true) .released .dormant).supplyDue false = true
      ∧ (sampledPins 16 true none .press .listening).power.buttonRun = .press
      ∧ (sampledPins 15 true none .once .listening).power.buttonRun ≠ .press
      ∧ (sampledPins 16 true none .press .dormant).power.state ≠ .listening
      ∧ ButtonRun.once ≠ .press := by decide +kernel

theorem witness_FramesFiltered_place :
    waiting.canReceive = true ∧ waiting.hasPlace = false ∧ stocked.hasPlace = true
      ∧ filterStep waiting.zoneNo waiting.own (fromTo 30 3) (.page 5) = none := by decide +kernel

theorem witness_FramesHonoured_rounds :
    (roundState .visited).honours (fromTo 21 3) (.roundVisit 5) = true
      ∧ (roundState .visited).rounds.ctx.round ≠ 5 ∧ (roundState .removed).rounds.ctx.state = .removed
      ∧ (among .engineer).honours (fromTo 21 3) (.roundVisit 5) = true
      ∧ stocked.honours (fromTo 30 3) (.restart 0) = true ∧ 0 ≠ stocked.port.unique.toNat % 4294967296 := by
  decide +kernel

theorem witness_AnnounceTaken_positions :
    State.reset.faults.positions = [] ∧ State.reset.permits.positions = []
      ∧ (setFaultPos ⟨4, 9, none⟩ stocked).faultPosOf 4 = ⟨4, 9, none⟩ ∧ stocked.faultPosOf 4 = ⟨4, 0, none⟩ := by
  decide +kernel

theorem witness_AnnounceTaken_units :
    (judgeTime 1 0 announceLow (takeEntry 1 announceLow (noteAddressed (fromTo 1 0) stocked))).clock.zone = some noon
      ∧ noon % 32000 = 0 ∧ 3999 < 4000 ∧ 4000 ≤ 4000 ∧ State.reset.clock.zone = none
      ∧ stocked.faultPosOf 1 = ⟨1, 0, none⟩ ∧ stocked.usagePos 1 = none
      ∧ stocked.permits.cycleMarks < 2
      ∧ (∃ p ∈ stocked.link.peers, stocked.isToday p.usageDay = false) := by decide +kernel

theorem witness_BytesReceived_filters :
    filterBytes stocked.zoneNo stocked.own (frameBytes (fromTo 3 3) (.roundVisit 306)) = .inl .sender
      ∧ filterBytes stocked.zoneNo stocked.own (frameBytes (fromTo 21 4) (.roundVisit 306)) = .inl .dest
      ∧ filterBytes stocked.zoneNo stocked.own (frameBytes (fromTo 21 3) (.roundVisit 306))
          = .inr (fromTo 21 3, .roundVisit 306)
      ∧ nineBytes ++ (frameBytes (fromTo 21 3) (.roundVisit 306)).drop 9 = frameBytes (fromTo 21 3) (.roundVisit 306)
      ∧ (sending .off 0 (some (.exchange 0))).link.line.isSome = true ∧ (station .fixed noon).link.receiver = false := by
  decide +kernel

/-- An intake that has all but the last byte of a one-byte image. -/
def lastByte : Intake := { fetching with obj := .sect 3, next := 0 }

theorem witness_ImagesReadBack_intake :
    fetching.next + 1 ≠ fragment0.count ∧ lastByte.next + 1 = 1 ∧ crc [0x31#8] ≠ 0#16
      ∧ crc (lastByte.bytes ++ [0x31#8]) = crc [0x31#8]
      ∧ (storeImage lastByte fetchingState).2 = .invalid
      ∧ (storeImage { fetching with key := key5, bytes := tariffImage tariffSet } fetchingState).2 = .declined
      ∧ (storeImage { fetching with key := key5, bytes := tariffImage tariffSet } (station .fixed noon)).2 = .installed := by
  decide +kernel


/-! ### What the units do: clauses met -/

theorem witness_PutInOrderFrame_cycles :
    (owing .listening false [] (dueRecord false)).clock.zone = some (noon + 8000)
      ∧ (owing .listening false [] (dueRecord false)).clock.elapsed = 700000
      ∧ (owing .listening false [] (dueRecord false)).sinceCycle 28000 (some 664000) = true
      ∧ (owing .listening false [] (dueRecord false)).sinceCycle 28000 (some 663999) = false
      ∧ (owing .listening false [] (dueRecord false)).sinceCycle 32000 (some 660000) = true
      ∧ (owing .listening false [] (dueRecord false)).sinceCycle 32000 (some 659999) = false
      ∧ State.reset.sinceCycle 32000 (some 0) = false := by decide +kernel

/-- A power unit in a state with a recorded event or none. -/
def recording (st : PowerState) (due : Bool) (name : Option EventName) : State :=
  { stocked with power := { Power.afterReset false false with state := st, dormantDue := due, recorded := name } }

theorem witness_EventQueueOverrun_wake :
    wakeClass (.visit 1 21) = true ∧ wakeClass (.supplyLow .warning) = false ∧ stocked.power.state = .awake
      ∧ (recording .listening true none).power.state = .listening ∧ (recording .listening true none).power.dormantDue = true
      ∧ (recording .listening false none).power.dormantDue = false
      ∧ (recording .dormant false none).power.state = .dormant
      ∧ (recording .dormant false (some .paged)).power.recorded.isSome = true
      ∧ (recording .dormant false none).power.recorded = none := by decide +kernel

theorem witness_AnnouncedTimeJudged_steps :
    senderTime (timed (some 2) 5) 27 = 5027 ∧ 5 * 1000 + 0 + 27 ≤ zoneMax ∧ (1 + 1 = 2 ∧ 6027 ≤ 5027 + 1000)
      ∧ 5027 + 1000 < 6028 ∧ 2 < stocked.own ∧ stocked.own ≤ 3 := by decide +kernel

/-- The stocked station with an intake and the want list of one tariff entry. -/
def fetchingFor (cands : List Nat) (phase : IntakePhase) (placed : Bool) (tx : List TxFrame) : State :=
  { wanting ⟨6, 2⟩ false cands with
    link := { stocked.link with tx := tx }
    repl := { (wanting ⟨6, 2⟩ false cands).repl with intake := some { fetching with phase := phase, placed := placed } } }

theorem witness_KeysAndTargets_intake :
    stocked.unheld (asked (.image .tariff key5)) = false ∧ stocked.unheld (asked (.image .tariff ⟨4, 2⟩)) = true
      ∧ stocked.unheld (asked .usage) = false ∧ stocked.currentKey .tariff = some key5
      ∧ (station .fixed noon).currentKey .tariff = none
      ∧ (serving [asked (.image .tariff ⟨4, 2⟩), asked .usage] []).repl.supply.head? ≠ some (asked .usage)
      ∧ (∀ w ∈ (wanting ⟨6, 2⟩ false []).repl.want, w.cands = [])
      ∧ (wanting ⟨6, 2⟩ false [1]).repl.want = [] ++ ⟨.tariff, ⟨6, 2⟩, false, [1], [], 0⟩ :: []
      ∧ (fetchingFor [1] .receiving false []).repl.intake.isSome = true
      ∧ (fetchingFor [2] .receiving false []).wantOf .tariff = some ⟨.tariff, ⟨6, 2⟩, false, [2], [], 0⟩
      ∧ fetching.provider ∉ [2] ∧ fetching.provider ∈ [1]
      ∧ (let s : State := { fetchingFor [1] .receiving false [] with repl := { State.reset.repl with
           want := [⟨.tariff, ⟨7, 2⟩, false, [1], [], 0⟩], intake := some fetching } }
         s.wantOf .tariff = some ⟨.tariff, ⟨7, 2⟩, false, [1], [], 0⟩ ∧ (⟨7, 2⟩ : Key) ≠ fetching.key)
      ∧ (followIntake (fetchingFor [1] .receiving false [])).repl.intake
          = (fetchingFor [1] .receiving false []).repl.intake
      ∧ (followIntake (fetchingFor [2] .receiving false [])).repl.intake
          ≠ (fetchingFor [2] .receiving false []).repl.intake
      ∧ (fetchingFor [1] .requesting false []).repl.intake = some { fetching with phase := .requesting }
      ∧ (∀ f ∈ (fetchingFor [1] .requesting false fullTx).link.tx, f.placer ≠ .intake)
      ∧ (fetchingFor [1] .requesting false fullTx).canPlace = false
      ∧ (fetchingFor [1] .requesting false []).canPlace = true := by decide +kernel

/-- A ladder whose every band is open, of uniform steps. -/
def uniformLadder (minutes : Nat) : Ladder :=
  { uniform := true, uMinutes := minutes, uPrice := 10, bands := List.replicate 8 { band with cap := false, minutes := 0 } }

theorem witness_TariffReadAndDraftBegun_figures :
    tariffSet.dayParts[0]? = some { mask := 0xFF#8, start := 0, stop := 750, treat := .charged 0 }
      ∧ tariffSet.classes[5]? = some ⟨.plain, 0⟩ ∧ emptySet.calendar[15]? = some { day := 0, kind := none }
      ∧ ladderIndex .ladder3 = some 3 ∧ (ladderAt tariffSet 0).bands[7]? = some blankBand
      ∧ ladder.bands.length = 8 ∧ ladder.bands[0]? = some band ∧ band.cap = true ∧ ladderBlank ladder = false
      ∧ ladderBlank blankLadder = true ∧ blankLadder.bands.length = 8
      ∧ (uniformLadder 5).bands.length = 8 ∧ (∀ b ∈ (uniformLadder 5).bands, b.cap = false)
      ∧ ladderBlank (uniformLadder 5) = false := by decide +kernel

/-- The set with its ladders and the first of its day-parts, classes and calendar entries so. -/
def changedSet (l : Ladder) (p : DayPart) (c : ClassEntry) (dates : List CalEntry) : TariffSet :=
  { tariffSet with
    ladders := tariffSet.ladders.set 1 l, dayParts := tariffSet.dayParts.set 2 p, classes := tariffSet.classes.set 0 c
    calendar := dates ++ List.replicate (16 - dates.length) { day := 0, kind := none } }

/-- A day-part that nothing uses. -/
def unusedPart : DayPart := { mask := 0#8, start := 0, stop := 0, treat := .free }

theorem witness_TariffPublished_checks :
    validate (changedSet (uniformLadder 241) unusedPart ⟨.plain, 0⟩ []) = some (.ladderHeader, .header, 2)
      ∧ validate (changedSet { ladder with bands := { band with minutes := 241 } :: ladder.bands.tail } unusedPart
          ⟨.plain, 0⟩ []) = some (.bandRange, .ladder1, 0)
      ∧ validate (changedSet ladder { unusedPart with mask := 1#8, stop := 1441 } ⟨.plain, 0⟩ [])
          = some (.daypartRange, .dayParts, 2)
      ∧ validate (changedSet ladder unusedPart ⟨.ladder, 4⟩ []) = some (.classLadder, .classes, 0)
      ∧ validate (changedSet ladder { mask := 1#8, start := 0, stop := 1, treat := .charged 2 } ⟨.plain, 0⟩ [])
          = some (.ladderReference, .dayParts, 2)
      ∧ validate (changedSet ladder unusedPart ⟨.allowance, 3⟩ []) = some (.ladderReference, .classes, 0)
      ∧ validate (changedSet ladder { mask := 1#8, start := 1439, stop := 1440, treat := .charged 1 } ⟨.plain, 0⟩ [])
          = some (.daypartOverlap, .dayParts, 2)
      ∧ validate (changedSet ladder unusedPart ⟨.plain, 0⟩ [⟨1, some .hol⟩, ⟨1, some .mon⟩])
          = some (.calendarDate, .calendar, 1)
      ∧ validate (changedSet (uniformLadder 240) unusedPart ⟨.ladder, 0⟩ [⟨1, some .hol⟩, ⟨2, some .hol⟩]) = none := by
  decide +kernel

/-- Thirty charged minutes at the horizon end. -/
def horizonView : View := { halfHour with clearway := false }

theorem witness_QuoteAnswered_walk :
    treatmentAt tariffSet (1728043200 / 60) = .charged 0 ∧ treatmentAt tariffSet (1728045000 / 60) = .noStay
      ∧ (match viewFrom tariffSet 1728043200 with
          | some v => v.minutes.length == 30 && v.minutes[0]? == some (.charged 0)
          | none => false) = true
      ∧ sellable halfHour ladder 1 = true ∧ sellable halfHour ladder 2 = true ∧ sellable halfHour ladder 3 = false
      ∧ sellable horizonView ladder 2 = true ∧ sellable horizonView ladder 3 = false
      ∧ sellable { halfHour with minutes := List.replicate 14 (.charged 0) } ladder 1 = false
      ∧ minutesOf ladder 1 = 15 ∧ minutesOf ladder 2 = 30 ∧ (15 ≤ 15 ∧ 15 < 16 ∧ 30 < 31)
      ∧ ladder = ladderAt tariffSet 0 ∧ halfHour.minutes[29]? = some (.charged 0) ∧ halfHour.minutes[30]? = none
      ∧ capMinutes ladder = some 120 ∧ capMinutes (uniformLadder 5) = none := by decide +kernel

theorem witness_AmountBuysMost_edges :
    priceOf ladder 1 = 20 ∧ 19 < priceOf ladder 1 ∧ priceOf ladder 1 ≤ 20 ∧ ladderLength ladder = some 8
      ∧ ladderLength (uniformLadder 5) = none ∧ halfHour.clearway = true ∧ horizonView.clearway = false := by
  decide +kernel

/-- An account whose last segment was closed, with this number. -/
def closedAt (n : Nat) : Cash := { State.reset.cash with lastSeg := n }

theorem witness_SaleCommitted_segments :
    oneRecord.openSeg = some ⟨1, 1, 1⟩ ∧ (closedAt 65535).openSeg = none
      ∧ segmentAfter (closedAt 65535) = ⟨1, 1, 1⟩ ∧ segmentAfter (closedAt 65534) = ⟨65535, 1, 1⟩ := by decide +kernel

theorem witness_SectionsAmended_changes :
    section3.closed = false ∧ ({ section3 with closed := true } : PermitSection).closed = true
      ∧ (findPermit 11 section3.records).isSome = true ∧ findPermit 19 section3.records = none
      ∧ 160 ≤ (List.replicate 160 permit).length ∧ (List.replicate 159 permit).length < 160
      ∧ ({ permit with status := .revoked } : PermitRec).status = .revoked
      ∧ ({ permit with status := .suspended, validTo := 9 } : PermitRec) ≠ permit
      ∧ { ({ permit with status := .suspended } : PermitRec) with status := permit.status } = permit := by decide +kernel

theorem witness_RemovalRecorded_sums :
    (report none).counts[7]? = some 4294967295 ∧ 4294967295 + 0 < 4294967296 ∧ 4294967296 ≤ 4294967295 + 1
      ∧ (report none).coinTotal + 1 < 4294967296 ∧ (report none).totalValue + 0 < 281474976710656
      ∧ (report none).attended = true := by decide +kernel

/-- Sixty-four entries of other stations in a state. -/
def fullTable (st : FaultState) : List FaultEntry := List.replicate 64 (fault 5 st)

theorem witness_FaultsCommanded_own :
    stocked.ownFault .tilt 0 = none ∧ stocked.faults.table.length < 64
      ∧ (faulty .fixed (fullTable .raised)).ownFault .tilt 0 = none
      ∧ 64 ≤ (faulty .fixed (fullTable .raised)).faults.table.length
      ∧ evictee 3 true (fullTable .raised) = some (fault 5 .raised) ∧ evictee 3 false (fullTable .raised) = none
      ∧ evictee 3 true (List.replicate 64 (fault 3 .raised)) = none
      ∧ evictee 3 true [fault 3 .cleared, fault 5 .acknowledged, fault 5 .raised] = some (fault 3 .cleared)
      ∧ evictee 3 true [fault 5 .raised, fault 5 .acknowledged] = some (fault 5 .acknowledged)
      ∧ (faulty .fixed [fault 3 .cleared]).ownFault .coinMech 0 = some (fault 3 .cleared)
      ∧ (faulty .fixed [fault 3 .raised]).ownFault .coinMech 0 = some (fault 3 .raised)
      ∧ (faulty .gateway []).isRole .gateway = true ∧ (faulty .engineer []).isRole .engineer = true
      ∧ stocked.isRole .gateway = false ∧ stocked.isRole .engineer = false ∧ (fault 5 .raised).owner ≠ stocked.own
      ∧ (fault 5 .raised).lastRaised = none
      ∧ ({ fault 5 .raised with lastRaised := some 4 } : FaultEntry).lastRaised = some 4 ∧ 4 < 5 := by decide +kernel

/-- A DORMANT station since a reading, with a recorded event or none. -/
def asleep (name : Option EventName) : State :=
  { recording .dormant false name with power := { (recording .dormant false name).power with dormantSince := some (0, some 9) } }

theorem witness_SupplyAndWake_dormant :
    stocked.sales.sale = none ∧ (selling sale).sales.sale = some sale ∧ (selling sale).tariff.retired = none
      ∧ (let s : State := { selling sale with tariff := { (selling sale).tariff with retired := some tariffSet } }
         s.tariff.retired.isSome = true)
      ∧ (asleep none).power.dormantSince = some (0, some 9) ∧ (asleep none).setupDone = true
      ∧ ({ asleep none with port := unset.port } : State).setupDone = false
      ∧ wakeName (asleep (some .paged)) = some .paged ∧ wakeName (asleep none) = none
      ∧ wakeClass (.visitExpired 1) = false ∧ wakeClass (.visit 1 21) = true := by decide +kernel

theorem witness_FramesHonoured_fragments :
    acceptsFragment fetching 1 fragment0 = true ∧ fragment0.index + 1 ≠ fragment0.count
      ∧ (let i : Intake := { fetching with next := 3, info := some { count := 4, length := 324, check := 0#16 } }
         acceptsFragment i 1 { fragment0 with index := 3, data := List.replicate 36 0#8 } = true
          ∧ acceptsFragment i 1 { fragment0 with index := 3, data := List.replicate 96 0#8 } = false
          ∧ acceptsFragment i 1 { fragment0 with index := 3, length := 325, data := List.replicate 37 0#8 } = false)
      ∧ (let i : Intake := { fetching with obj := .sect 3 }
         acceptsFragment i 1 { fragment0 with obj := .sect 3, count := 41, length := 3848 } = true
          ∧ acceptsFragment i 1 { fragment0 with obj := .sect 3, count := 41, length := 3872 } = false
          ∧ acceptsFragment i 1 { fragment0 with obj := .sect 3, count := 1, length := 8, data := List.replicate 8 0#8 }
              = true) := by decide +kernel

/-- The supply entry of the usage stream, its series of so many parts, placed or not. -/
def supplied (parts : Nat) (placed : Bool) : SupplyEntry :=
  { asked .usage with series := some { series1 with parts := parts }, placed := placed }

theorem witness_MediumAccess_notices :
    (fetchingFor [1] .requesting true []).repl.intake = some { fetching with phase := .requesting, placed := true }
      ∧ stocked.repl.intake = none ∧ stocked.repl.supply = []
      ∧ (serving [supplied 2 true] []).repl.supply = supplied 2 true :: [] ∧ (supplied 2 true).placed = true
      ∧ (supplied 2 false).placed = false ∧ (supplied 2 true).next + 1 < stocked.framesOf (supplied 2 true)
      ∧ stocked.framesOf (supplied 1 true) ≤ (supplied 1 true).next + 1
      ∧ (stocked.heldImage .tariff key5).isSome = true ∧ (asked (.image .tariff key5)).item = .image .tariff key5
      ∧ (let s : State := { sending (.backoff 0) 0 none with clock := clockAt (noon + 32000 - 6) }
         s.headFits ⟨1, .roundClose 4, 0, .other⟩ = true)
      ∧ (let s : State := { sending (.backoff 0) 0 none with clock := clockAt (noon + 32000 - 5) }
         s.headFits ⟨1, .roundClose 4, 0, .other⟩ = false) := by decide +kernel

theorem witness_ImagesReadBack_failures :
    ((fetchingFor [1] .receiving false []).wantOf .tariff).map (·.timeouts) = some 0 ∧ 2 = 1 + 1 ∧ 2 < 3 ∧ 3 ≤ 2 + 1 := by
  decide +kernel

theorem witness_FaultsCommanded_counter :
    let last : State := { stocked with faults := { stocked.faults with counter := 4294967295 } }
    min (last.faults.counter + 1) 4294967295 = last.faults.counter
      ∧ (changeOwn (fault 3 .raised) .raise last).link.changedAt = last.link.changedAt
      ∧ min (stocked.faults.counter + 1) 4294967295 ≠ stocked.faults.counter
      ∧ (changeOwn (fault 3 .raised) .raise stocked).link.changedAt = some stocked.clock.elapsed := by decide +kernel

theorem test_presenceBytes :
    wakeCauseBytes .button = [1#8, 0#8] ∧ wakeCauseBytes (.event .paged) = [3#8, 1#8, 1#8]
      ∧ outcomeBytes .notEnough = [10#8, 0#8] ∧ (settingsBytes none).length = 5
      ∧ tariffEntryBytes (.band [] 50121735 0 false) = be 4 50121735 ++ [0#8, 0#8, 0#8, 0#8, 0#8]
      ∧ eventBytes (.supplyLow .withdrawn) = [1#8, 0#8, 0#8] := by decide +kernel

theorem witness_EmptyQueueStep_due :
    rowDue stocked .dayRollover ∧ stocked.nextDue = some .dayRollover
      ∧ (let r : Received := { bytes := frameBytes (fromTo 1 3) (.roundVisit 4), start := 0, finish := 5 }
         filterBytes stocked.zoneNo stocked.own r.bytes = .inr (fromTo 1 3, .roundVisit 4)
          ∧ filterBytes stocked.zoneNo 3 [0#8] = .inl .zone)
      ∧ (let s : State := { State.reset with power := { State.reset.power with buttonRun := .press } }
         s.nextDue = some .wakeButtonPress ∧ State.reset.nextDue = none) :=
  ⟨⟨20000, by decide +kernel, by decide +kernel⟩, by decide +kernel, by decide +kernel, by decide +kernel⟩

/-- A part just reset at a later instant, with peers last heard at 0. -/
def unheard (elapsed : Nat) (stations : List Nat) : State :=
  { State.reset with
    clock := { State.reset.clock with elapsed := elapsed }
    link := { State.reset.link with peers := stations.map fun n => peerAs n .fixed } }

theorem witness_EmptyQueueStep_lowest :
    ((unheard 256000 [4, 9]).nextDue = some (.peerSilence 4)
        ∧ (unheard 256000 [4, 9]).link.peers.Pairwise (fun a b => a.station < b.station)
        ∧ (unheard 256000 [4, 9]).link.peers.all (silentDue (unheard 256000 [4, 9])) = true)
      ∧ (let s : State := { unheard 3600000 [] with permits := { State.reset.permits with
           sections := List.replicate 8 { section3 with behindSince := some 0 } } }
         s.nextDue = some (.sectionBehindExpiry 0) ∧ s.staleDue 7 = true) := by decide +kernel

theorem witness_MarksGiven_due :
    (markGiven .cycleStart (station .fixed 32000)).markDue .cycleStart = false
      ∧ (markGiven .cycleStart (station .fixed 32000)).markDue .endOfExchange = true
      ∧ { station .fixed 32000 with port := unset.port }.markDue .cycleStart = false
      ∧ State.reset.markDue .cycleStart = false ∧ (clockAt zoneMax).zone = some zoneMax
      ∧ (tickClock { clockAt 32000 with marksGiven := [.cycleStart] }).marksGiven = []
      ∧ (tickClock { clockAt zoneMax with marksGiven := [.ownSlot] }).marksGiven = [.ownSlot] := by decide +kernel

/-- Two cycle starts after Setup with no peer to wait for: a USAGE frame settles the store where it moves the position of its
sender, and not else (R123). -/
theorem witness_PermitAndAccountReads_move :
    (let s : State := { station .fixed noon with permits := { State.reset.permits with cycleMarks := 2 } }
     (usageAfterSingle (s.usagePosOf 4) 20000 1).pos ≠ (s.usagePosOf 4).pos
      ∧ (usageAfterSingle (s.usagePosOf 4) 20000 2).pos = (s.usagePosOf 4).pos
      ∧ (takeUsage 4 (.single 20000 1 7 30) s).permits.settled = true
      ∧ (takeUsage 4 (.single 20000 2 7 30) s).permits.settled = false) := by decide +kernel

theorem witness_SupplyAndWake_undue :
    (let s : State := { powered .listening true none none with link := { stocked.link with
       line := some (.announce (stocked.clock.elapsed - announceMs + 1) { announceLow with dormant := true }) } }
     s.clock.elapsed < stocked.clock.elapsed - announceMs + 1 + announceMs ∧ s.entryDue = false)
      ∧ (let s : State := { powered .listening true none none with link := { stocked.link with
           line := some (.announce 0 announceLow) } }
         0 + announceMs ≤ s.clock.elapsed ∧ announceLow.dormant = false ∧ s.entryDue = false)
      ∧ (let s : State := { powered .listening true none none with link := { stocked.link with
           line := some (.exchange 0) } }
         s.entryDue = false ∧ ({ s with port := unset.port } : State).entryDue = true) := by decide +kernel

theorem witness_AnnounceTaken_new :
    announceLow.quality = none ∧ announceLow.dormant = false ∧ stocked.peer 9 = none
      ∧ ((takeEntry 9 announceLow stocked).peer 9).map (fun e => (e.quality, e.dormantHeard)) = some (none, none) := by
  decide +kernel

theorem witness_SetupTaken_stale :
    stocked.someBehind = false
      ∧ { stocked with permits := { stocked.permits with
          sections := List.replicate 8 { section3 with behindSince := some 0 } } }.someBehind = true := by decide +kernel

theorem witness_SetupTaken_record :
    (setupRecord params).isSome = true ∧ setupRecord { params with zone := 0 } = none
      ∧ (setupRecord { params with zone := 4095, station := 32, capacity := 4000 }).isSome = true
      ∧ setupRecord { params with zone := 4096 } = none ∧ setupRecord { params with station := 33 } = none
      ∧ setupRecord { params with role := none } = none ∧ setupRecord { params with capacity := 99 } = none
      ∧ setupRecord { params with denoms := [10, 20, 0] } = none ∧ setupRecord { params with denomCount := 2 } = none
      ∧ setupRecord { params with denomCount := 0, denoms := [] } ≠ none
      ∧ setupRecord { params with sense := [senseOn, senseOn, senseOn, { senseOn with debounce := 16 }] } = none := by
  decide +kernel

theorem witness_KeysAndTargets_offers :
    (peerAs 1 .fixed).active = some key5 ∧ (peerAs 1 .fixed).sections[7]? = some (some key5)
      ∧ stocked.qualifies .tariff key5 = false ∧ stocked.qualifies .tariff ⟨5, 1⟩ = true
      ∧ stocked.qualifiesPending ⟨5, 1⟩ = true ∧ stocked.qualifies (.sect 3) ⟨6, 9⟩ = true
      ∧ (let s : State := { stocked with link := { stocked.link with
          peers := [{ peerAs 1 .fixed with active := none, pending := some ⟨6, 1⟩ }] } }
         some ⟨6, 1⟩ ∈ s.offersOf .tariff { peerAs 1 .fixed with active := none, pending := some ⟨6, 1⟩ }
          ∧ s.pendingOnly .tariff ⟨6, 1⟩ false = true ∧ s.pendingOnly .tariff ⟨7, 1⟩ false = false) := by decide +kernel

/-- The set with day 20,000 marked as a holiday, on which nothing is charged. -/
def holidaySet : TariffSet :=
  { tariffSet with
    calendar := { day := 20000, kind := none } :: { day := 20000, kind := some .hol } :: List.replicate 14 { day := 0, kind := none }
    dayParts :=
      { mask := 0x7F#8, start := 0, stop := 750, treat := .charged 0 }
        :: List.replicate 11 { mask := 0#8, start := 0, stop := 0, treat := .free } }

theorem witness_QuoteAnswered_days :
    holidaySet.calendar = [{ day := 20000, kind := none }] ++ { day := 20000, kind := some .hol } :: holidaySet.calendar.drop 2
      ∧ dayKind holidaySet 20000 = .hol ∧ dayKind holidaySet 20001 = weekday 20001
      ∧ maskHas 0x7F#8 .hol = false ∧ maskHas 0x80#8 .hol = true ∧ maskHas 0x01#8 .mon = true
      ∧ treatmentOf holidaySet .hol 0 = .free ∧ treatmentOf holidaySet .mon 749 = .charged 0
      ∧ treatmentOf holidaySet .mon 750 = .free
      ∧ tariffSet.dayParts = [{ mask := 0xFF#8, start := 0, stop := 750, treat := .charged 0 }] ++ tariffSet.dayParts.drop 1
      ∧ treatmentOf tariffSet .sun 750 = .noStay
      ∧ quoteParamsOk (some .byAmount) 65535 .absent = true ∧ quoteParamsOk (some .byDuration) 0 .absent = false
      ∧ quoteParamsOk (some .byDuration) 10080 (.named .carClub) = true
      ∧ allowanceByAmount (some tariffSet) (some .byAmount) (.named .carClub) = true
      ∧ tariffSet.classes.length = 6 := by decide +kernel

theorem witness_SaleOpened_requote :
    (selling sale).tariff.pin = slotKey (selling sale).tariff.active
      ∧ (let s : State :=
           { selling sale with
             tariff := { (selling sale).tariff with pin := some ⟨4, 2⟩, retired := some { tariffSet with key := some ⟨4, 2⟩ } } }
         s.tariff.pin ≠ slotKey s.tariff.active ∧ s.pinnedSet = some { tariffSet with key := some ⟨4, 2⟩ })
      ∧ { State.reset with tariff := (selling sale).tariff }.zoneSec = none ∧ (selling sale).zoneSec = some 1728043200
      ∧ (settledDay []).unavailable = none ∧ stocked.unavailable.isSome = true
      ∧ requote (settledDay []) allowanceSale
          = walk tariffSet 1728043200 (some ⟨.allowance, 0⟩) (.allowance 10 60)
      ∧ (applied .allowance).allowance.getD 0 = 60 ∧ requote stocked { allowanceSale with requested := none } = .nothingToSell
      := by decide +kernel

theorem witness_SalePermitTaken_record :
    permitNumberOk 1 = true ∧ permitNumberOk 999999 = true ∧ permitNumberOk 0 = false
      ∧ findPermit 12 (stocked.sectionAt 4).records = none ∧ findPermit 11 (stocked.sectionAt 3).records = some permit
      ∧ permitCheck stocked 30001 11 = (.expired, some permit) ∧ permitCheck stocked 30000 11 = (.valid, some permit)
      ∧ (selling sale).pinnedSet = some tariffSet ∧ pinnedTreat (selling sale) .carClub = ⟨.allowance, 0⟩
      ∧ (let s : State := { selling sale with tariff := { State.reset.tariff with pin := some key5 } }
         s.pinnedSet = none) := by decide +kernel

/-- The 2,048 records of the sequences 1 to 2,048, the open segment from a sequence on. -/
def fullJournal (first : Nat) : Cash :=
  { State.reset.cash with
    journal := (List.range' 1 2048).map record, nextSeq := 2049, openSeg := some ⟨1, first, 2049 - first⟩ }

theorem witness_SaleCommitted_protected :
    JournalInv (fullJournal 2).journal (fullJournal 2).nextSeq ∧ JournalInv oneRecord.journal oneRecord.nextSeq
      ∧ journalFull (fullJournal 2) = false ∧ isProtected (fullJournal 2) 2 = true ∧ isProtected (fullJournal 2) 1 = false
      ∧ journalFull (fullJournal 1) = true ∧ (fullJournal 2).journal.length = 2048 ∧ oneRecord.journal.length < 2048 :=
  ⟨⟨by decide, by decide +kernel⟩, ⟨by decide, by decide⟩, by decide +kernel⟩

theorem witness_SaleCancelled_retired :
    (selling sale).tariff.retired = none
      ∧ (let s : State := { selling sale with tariff := { (selling sale).tariff with retired := some tariffSet } }
         s.openTo machineOnly = true ∧ s.sales.sale = some sale ∧ s.tariff.retired.isSome = true) := by decide +kernel

/-- Eight bands of two steps, none capped, and the same with the third capped. -/
def bandsOf (capped : Bool) : Ladder :=
  { blankLadder with
    bands :=
      List.replicate 2 { band with cap := false, steps := 2 }
        ++ ({ band with cap := capped, steps := 2 } :: List.replicate 5 { band with cap := false, steps := 2 }) }

theorem witness_StepsAndExpiry_bands :
    stepBand (bandsOf false) 2 = 0 ∧ stepBand (bandsOf false) 3 = 1 ∧ stepBand (bandsOf false) 17 = 7
      ∧ lastBand (bandsOf false) = 7 ∧ ladderLength (bandsOf false) = none ∧ stepBand (bandsOf true) 7 = 2
      ∧ lastBand (bandsOf true) = 2 ∧ ladderLength (bandsOf true) = some 6 ∧ capMinutes (bandsOf true) = some 90
      ∧ (bandsOf true).bands = (bandsOf true).bands.take 2 ++ { band with cap := true, steps := 2 } :: (bandsOf true).bands.drop 3
      ∧ (∀ x ∈ (bandsOf true).bands.take 2, x.cap = false) ∧ (∀ b ∈ (bandsOf false).bands, b.cap = false)
      ∧ (bandsOf true).bands.length = 8 ∧ isCharged (.charged 0) = true ∧ 71582788 * 60 ≤ 4294967295 := by decide +kernel

theorem witness_PermitChecked_usage :
    stocked.today ≠ some stocked.permits.ownDay ∧ (settledDay []).today = some (settledDay []).permits.ownDay
      ∧ { settledDay [] with permits := { (settledDay []).permits with ownCtr := 65535 } }.unavailable = some .counterFull
      ∧ { settledDay [] with permits := { (settledDay []).permits with settled := false } }.unavailable = some .unsettled
      ∧ (settledDay []).usageOf 11 20000 = none
      ∧ (settledDay [⟨11, 20000, [(1, 40), (2, 9)], false⟩]).knownUsage 11 20000 60 = 49
      ∧ (settledDay [⟨11, 20000, [(1, 40), (2, 9)], true⟩]).knownUsage 11 20000 60 = 60 := by decide +kernel

theorem witness_PermitAndAccountReads_figures :
    oneRecord.openSeg = some ⟨1, 1, 1⟩ ∧ protectedCount oneRecord = 1 ∧ oldestSeq oneRecord = some 1
      ∧ oldestSeq State.reset.cash = none ∧ oldestSeq (fullJournal 2) = some 1 ∧ journalFill (fullJournal 1) = 100
      ∧ journalFill (fullJournal 2) = 99
      ∧ stocked.isMachine = true ∧ stocked.dueFigure = 0
      ∧ (collecting .opened 1).isMachine = false
      ∧ stocked.link.peers = [] ++ peerAs 1 .fixed :: stocked.link.peers.drop 1 ∧ peerSection 3 (peerAs 1 .fixed) = some key5
      ∧ advertisedSection stocked 3 = some (key5, 1) ∧ advertisedSection State.reset 3 = none
      ∧ heldAllowance stocked 11 = 60
      ∧ ([(1, 2), (3, 4)] : List (Nat × Nat)).Pairwise (fun x y => x.1 < y.1)
      ∧ insertContrib 2 9 [(1, 2), (3, 4)] = [(1, 2), (2, 9), (3, 4)] := by decide +kernel

theorem witness_StoresOpened :
    keepsOld (selling sale).tariff = true ∧ keepsOld stocked.tariff = false
      ∧ pendingAbove (some key5) (some { tariffSet with key := some ⟨6, 1⟩ }) ≠ none
      ∧ pendingAbove (some ⟨6, 1⟩) (some tariffSet) = none ∧ highestTariffGen stocked = 5
      ∧ highestSectionGen stocked 3 = 5 ∧ lastNumber [permit] = 11 ∧ permitWf permit = true
      ∧ permitWf { permit with cls := .visitor } = false ∧ permitWf { permit with zones := [7, 7] } = false
      ∧ sectionImageOk 3 key5 (3, some key5, false, [permit]) = true
      ∧ amendChange (.add (permitBytes permit)) = some (.add permit) ∧ changeFits 3 (.add permit) = true
      ∧ assetTagOk [0x21#8, 0x7E#8] = true ∧ assetTagOk [0x20#8] = false
      ∧ stocked.wantOf .tariff = none ∧ (fetchingFor [1] .requesting true []).wantOf .tariff ≠ none
      ∧ stocked.usagePos 1 = none ∧ stocked.currentKey .tariff = some key5
      ∧ (stocked.heldImage .tariff key5).isSome = true ∧ stocked.heldImage .tariff ⟨4, 2⟩ = none
      ∧ State.reset.sectionKey 0 = none ∧ stocked.sectionKey 3 = some key5 := by decide +kernel

theorem witness_FramesHonoured_bodies :
    destFits (.roundOpen 4) 0 = true ∧ destFits (.roundOpen 4) 3 = false ∧ destFits (.roundVisit 4) 32 = true
      ∧ senderTrusted (.roundVisit 4) .collector = true ∧ senderTrusted (.roundVisit 4) .fixed = false
      ∧ bodyOk (.notHeld .tariff ⟨1, 32⟩) = true ∧ bodyOk (.notHeld .tariff ⟨0, 32⟩) = false := by decide +kernel
/-! ### Hypotheses of the opened definitions met -/

theorem witness_SetupAndRoleFirst_codes :
    hostCode (.tariffDraftBegin none) = some 10 ∧ hostCode (.tariffPublish 0) = some 14 ∧ hostCode .saleOpen = some 16
      ∧ hostCode .saleCancel = some 22 ∧ hostCode (.amendPermit .undefinedOp) = some 24
      ∧ hostCode (.sectionLoadEnd false) = some 28 ∧ hostCode .roundOpenCommand = some 33
      ∧ hostCode (.readSheet 0) = some 36 ∧ hostCode (.ackFault 1 1 0) = some 39 ∧ hostCode (.clearFault 9 1 0) = some 40
      ∧ hostCode (.restartStation 1 0) = some 42 ∧ hostCode (.pageStation 1 0) = some 43
      ∧ hostCode (.undefinedCommandCode 47) = none
      ∧ [.fixed, .gateway, .collector, .engineer].map (fun q => hostRoles .saleOpen (station q noon))
          = [true, true, false, false]
      ∧ [.fixed, .gateway, .collector, .engineer].map (fun q => hostRoles (.clearFault 9 1 0) (station q noon))
          = [false, false, false, true] := by decide +kernel

/-- The supply entries that a rollover to a day keeps. -/
def keepsDay (day : Nat) (e : SupplyEntry) : Bool :=
  match e.item, e.series with
  | .usage, some ser => ser.start == day
  | _, _ => true

/-- A usage stream fixed for a day. -/
def askedDay (day : Nat) : SupplyEntry := { asked .usage with series := some ⟨day, 1, 1⟩ }

theorem witness_AgeRolloverAndChangeover_supply (day : Nat) (e : SupplyEntry) :
    keepsDay day e = true ↔ (e.item = .usage → ∀ ser, e.series = some ser → ser.start = day) := by
  rcases hi : e.item <;> rcases hs : e.series <;> simp [keepsDay, hi, hs]

theorem witness_AgeRolloverAndChangeover_heads :
    [askedDay 4].filter (keepsDay 5) = [] ∧ [askedDay 5].filter (keepsDay 5) = [askedDay 5]
      ∧ [askedDay 4, asked (.faults 1)].filter (keepsDay 5) = [asked (.faults 1)]
      ∧ [askedDay 4, asked (.faults 1)].head? ≠ some (asked (.faults 1))
      ∧ [asked .usage, askedDay 4].filter (keepsDay 5) = [asked .usage] := by decide +kernel

theorem witness_KeysAndTargets_lists :
    [1, 3, 5].Pairwise (· < ·) ∧ insertNat 5 [1, 3, 5] = [1, 3, 5] ∧ insertNat 4 [1, 3, 5] = [1, 3, 4, 5] := by
  decide +kernel

theorem witness_DraftReadAndWritten_codes :
    (writeEntry .dayParts 11 [0#8, 0#8, 0#8, 0#8, 0#8, 1#8] tariffSet).isSome = true
      ∧ writeEntry .dayParts 11 [0#8, 0#8, 0#8, 0#8, 0#8, 2#8] tariffSet = none
      ∧ writeEntry .dayParts 11 [0#8, 0#8, 0#8, 0#8, 0#8, 15#8] tariffSet = none
      ∧ (writeEntry .dayParts 11 [0#8, 0#8, 0#8, 0#8, 0#8, 16#8] tariffSet).isSome = true
      ∧ (writeEntry .classes 0 [3#8, 0#8] tariffSet).isSome = true ∧ writeEntry .classes 0 [4#8, 0#8] tariffSet = none
      ∧ (writeEntry .calendar 15 [0#8, 0#8, 8#8] tariffSet).isSome = true
      ∧ writeEntry .calendar 15 [0#8, 0#8, 9#8] tariffSet = none := by decide +kernel

theorem witness_DraftReadAndWritten_rest :
    (writeEntry .header 1 [0x80#8, 5#8, 0#8, 9#8] tariffSet).isSome = true
      ∧ (writeEntry .ladder3 7 [0#8, 5#8, 0#8, 9#8, 1#8] tariffSet).isSome = true
      ∧ tariffSet.ladders[0]? = some ladder ∧ (TariffPart.header = .header ∧ 1 = 0 + 1)
      ∧ [TariffPart.ladder0, .ladder1, .ladder2, .ladder3][3]? = some .ladder3 := by decide +kernel

theorem witness_QuoteAnswered_amount :
    validate tariffSet = none ∧ sellable halfHour ladder 1 = true ∧ sellable halfHour ladder 2 = true
      ∧ sellable halfHour ladder 3 = false ∧ priceOf ladder 1 ≤ 39 ∧ 39 < priceOf ladder 2 ∧ priceOf ladder 2 ≤ 40
      ∧ sold.nextStep = some (priceOf ladder 2 - 25) := by decide +kernel

theorem witness_FramesFiltered_steps :
    filterStep 7 3 { fromTo 30 3 with zone := 8 } (.page 5) = some .zone
      ∧ filterStep 7 3 (fromTo 0 3) (.page 5) = some .header ∧ filterStep 7 3 (fromTo 33 3) (.page 5) = some .header
      ∧ filterStep 7 3 (fromTo 30 0) (.page 5) = some .header ∧ filterStep 7 3 (fromTo 3 4) (.page 5) = some .dest
      ∧ filterStep 7 3 (fromTo 3 3) (.page 5) = some .sender ∧ filterStep 7 3 (fromTo 3 0) (.roundOpen 1) = some .sender
      ∧ filterStep 7 3 (fromTo 32 0) (.roundOpen 1) = none := by decide +kernel

/-- A frame with the last byte of its check changed. -/
def badCheck (bytes : List Byte) : List Byte := bytes.dropLast ++ [bytes.getLastD 0#8 + 1#8]

/-- A header and body with a check that agrees. -/
def checked (core : List Byte) : List Byte := core ++ be 2 (crc core).toNat

theorem witness_FramesReadBack_dropped :
    filterBytes 8 3 (frameBytes (fromTo 30 3) (.page 5)) = .inl .zone
      ∧ filterBytes 7 3 (badCheck (frameBytes (fromTo 30 3) (.page 5))) = .inl .check
      ∧ filterBytes 7 3 (checked [0#8, 7#8, 30#8, 3#8, 17#8, 1#8, 0#8, 5#8]) = .inl .header
      ∧ filterBytes 7 3 (checked [0#8, 7#8, 30#8, 3#8, 18#8, 2#8, 0#8, 5#8]) = .inl .header
      ∧ bodyOf 18 [0#8, 5#8] = none
      ∧ filterBytes 7 3 (checked [0#8, 7#8, 30#8, 3#8, 17#8, 2#8, 0#8, 5#8]) = .inr (fromTo 30 3, .page 5)
      ∧ checked [0#8, 7#8, 30#8, 3#8, 17#8, 2#8, 0#8, 5#8] = frameBytes (fromTo 30 3) (.page 5) := by decide +kernel

theorem witness_FramesReadBack_bodies :
    bodyOf 17 [0#8, 5#8] = some (.page 5) ∧ bodyOf 1 (announceBytes announceHigh) = some (.announce announceHigh)
      ∧ bodyOf 1 ((announceBytes announceHigh).set 0 0#8) = none
      ∧ bodyOf 1 ((announceBytes announceHigh).set 55 5#8) = none
      ∧ bodyOf 1 ((announceBytes announceLow).set 8 0x80#8) = some (.announce announceLow)
      ∧ (bodyOf 8 (bodyBytes (.faultReport (.single 2 (fault 3 .raised))))).isSome = true
      ∧ (faultEntryOf (faultEntryBytes (fault 3 .raised))).isSome = true
      ∧ bodyOf 8 ([1#8] ++ List.replicate 11 0#8) = some (.faultReport (.series ⟨0, 0, 0⟩ 0 []))
      ∧ (bodyOf 14 (bodyBytes (.collectionReport (report none)))).isSome = true
      ∧ bodyOf 14 (List.replicate 60 0#8) = none := by decide +kernel

/-! ### A few steps -/

/-- The state a step answers, if it goes on. -/
def after (s : State) : Option State :=
  match step s with
  | .next t => some t
  | _ => none

/-- A command put at the front of the queue of a station. -/
def given (i : Instr) (s : State) : State := { s with pending := [i] }

/-- QUOTE of 25 pence at noon answers the quote. -/
theorem test_quote :
    ((after (given (.quote (some .byAmount) 25 .absent) stocked)).bind (·.port.buffer)).map (·.result)
      = some (.quote sold) := by decide +kernel

/-- A visit from the collector is posted and starts the visit period. -/
theorem test_visit :
    ((after (given (.roundVisitFrame (fromTo 21 3) 4) stocked)).map fun t => (t.rounds.ctx.state, t.port.events.length))
      = some (.visited, 2) := by decide +kernel

/-- RESET_N low, and a command finds the part held. -/
theorem test_held :
    ((after (given (.resetN false) stocked)).map (·.port.resetHigh)) = some false
      ∧ (after (given .readPower held)) = some held := by decide +kernel

/-- IDENTIFY's response as a READ transfer shifts it out: its codes, the unique number, no tag, and the check (R194). -/
theorem test_identifyFrame :
    ((after (given .identify stocked)).bind (·.port.buffer)).map responseFrame
      = some [0x00#8, 0x01#8, 0x00#8, 0x0B#8, 0xD2#8, 0x40#8, 0x01#8, 0x03#8, 0x12#8, 0x34#8, 0x56#8, 0x78#8, 0x9A#8,
          0xBC#8, 0x00#8, 0x74#8] := by decide +kernel

/-- The start of reception is the first byte's start bit, 1 ms before its completion, and the frame waits once it is whole. -/
theorem test_lastByte :
    ((after (given (.byteReceived ((frameBytes (fromTo 21 3) (.roundVisit 306)).getLastD 0#8) true)
      (onPath (.collecting nineBytes 699990 699999)))).bind (·.link.waiting)).map (fun r => (r.start, r.finish))
      = some (699990, 700000)
      ∧ ((after (given (.byteReceived 0#8 true) stocked)).map (·.link.path)) = some (.collecting [0#8] 699999 700000) := by
  decide +kernel

/-- 16 samples at the asserted level make SUPPLY_LOW due, and its row then warns the AWAKE station (R179). -/
theorem test_supplyRow :
    ((after (given .supplyLowAssert (sampledPins 16 true none .waiting .awake))).map (·.power.warning)) = some (some 700000)
      ∧ ((after (given .supplyLowAssert stocked)).map fun t => (t.power.supplyPin, t.power.warning)) = some (true, none) := by
  decide +kernel

end Sys2Proof.Tests
end

/-! The judgement of an announced time, row by row of Table 1.2 (R8, R9). -/

namespace Sys2Proof.Machine

section AnnouncedTime

variable {sender ms new old p q : Nat} {a : AnnounceBody} {s : State}

theorem differs_iff (t u : Nat) : differs t u = true ↔ u + 1000 < t ∨ t + 1000 < u := by
  simp only [differs, Bool.or_eq_true, decide_eq_true_eq]
  omega

theorem senderTime_of_le (h : a.zoneSec * 1000 + a.zoneMs + ms ≤ zoneMax) :
    senderTime a ms = a.zoneSec * 1000 + a.zoneMs + ms :=
  Nat.min_eq_right h

/-- The quality assigned is the one held: only the age timer restarts. -/
theorem setQuality_held (hp : s.clock.quality = some p) :
    setQuality p s = { s with clock := { s.clock with ageStart := some s.clock.elapsed } } := by
  rw [setQuality, ← hp]

/-- The event is read off the state after the step with its changeover and rollover, which keep the quality and leave zone
time at the new value (R9, R10). -/
theorem postAdopted_setZone (hq : s.clock.quality = some q) (o : AdoptOutcome) (step : Option Int) :
    postAdopted sender o step (setZone new s) =
      postEvent (.timeAdopted sender o q (new / 1000) step) (setZone new s) := by
  obtain ⟨hzone, hquality, -, -⟩ := setZone_clock_eq new s
  simp [postAdopted, State.zoneSec, hzone, hquality, hq]

theorem judgeTime_of_noQuality (h : a.quality = none) : judgeTime sender ms a s = s := by
  simp [judgeTime, h]

theorem judgeTime_of_qualityAbove (hq : a.quality = some q) (h : 3 < q) : judgeTime sender ms a s = s := by
  simp [judgeTime, hq, h]

theorem judgeTime_of_unset (hq : a.quality = some q) (h : q ≤ 3) (hz : s.clock.zone = none) :
    judgeTime sender ms a s =
      postAdopted sender .fromUnset none (setZone (senderTime a ms) (setQuality (q - 1) s)) := by
  simp [judgeTime, hq, hz, Nat.not_lt.mpr h]

/-- The rows of Table 1.2 for a set zone time, in their order, with "differs" written out. -/
theorem judgeTime_of_set (hq : a.quality = some q) (h : q ≤ 3) (hz : s.clock.zone = some old)
    (hp : s.clock.quality = some p) (hnew : new = senderTime a ms) :
    judgeTime sender ms a s =
      if p < q ∧ (p < q - 1 ∨ old + 1000 < new ∨ new + 1000 < old) then
        postAdopted sender .fromHigher (some (stepSeconds old new)) (setZone new (setQuality (q - 1) s))
      else if p < q then setZone new (setQuality p s)
      else if q = p ∧ sender < s.own ∧ (old + 1000 < new ∨ new + 1000 < old) then
        postAdopted sender .equalStep (some (stepSeconds old new)) (setZone new s)
      else s := by
  simp only [judgeTime, hq, hz, hp, Nat.not_lt.mpr h, if_false, Option.getD_some, differs_iff, ← hnew]

section Set

variable (hq : a.quality = some q) (h : q ≤ 3) (hz : s.clock.zone = some old) (hp : s.clock.quality = some p)
  (hnew : new = senderTime a ms)
include hq h hz hp hnew

theorem judgeTime_fromHigher (hlt : p < q) (hd : p + 1 < q ∨ old + 1000 < new ∨ new + 1000 < old) :
    judgeTime sender ms a s =
      postAdopted sender .fromHigher (some (stepSeconds old new)) (setZone new (setQuality (q - 1) s)) := by
  rw [judgeTime_of_set hq h hz hp hnew, if_pos (by omega)]

theorem judgeTime_refresh (hone : q = p + 1) (hhi : new ≤ old + 1000) (hlo : old ≤ new + 1000) :
    judgeTime sender ms a s = setZone new (setQuality p s) := by
  rw [judgeTime_of_set hq h hz hp hnew, if_neg (by omega), if_pos (by omega)]

theorem judgeTime_equalStep (heq : q = p) (hlow : sender < s.own) (hd : old + 1000 < new ∨ new + 1000 < old) :
    judgeTime sender ms a s = postAdopted sender .equalStep (some (stepSeconds old new)) (setZone new s) := by
  rw [judgeTime_of_set hq h hz hp hnew, if_neg (by omega), if_neg (by omega), if_pos ⟨heq, hlow, hd⟩]

/-- The last row of Table 1.2: a lower quality, or an equal one that gives no equal-quality step. -/
theorem judgeTime_ignored
    (hi : q < p ∨ (q = p ∧ (s.own ≤ sender ∨ (new ≤ old + 1000 ∧ old ≤ new + 1000)))) :
    judgeTime sender ms a s = s := by
  rw [judgeTime_of_set hq h hz hp hnew, if_neg (by omega), if_neg (by omega), if_neg (by omega)]

end Set

end AnnouncedTime

/-- Settles O20: each outcome is one row of Table 1.2, and an adoption's event is read off the state after its step. -/
theorem announcedTimeJudged : Obligations.AnnouncedTimeJudged := by
  refine ⟨fun sender ms new a s hnew => ⟨?ignored, ?time, fun q hq hle => ⟨fun hz => ?unset, fun old p hz hp => ?set⟩⟩,
    fun _ _ _ _ _ => rfl, fun new s m hm => ?steps⟩
  case ignored =>
    rintro (hnone | ⟨q, hq, hgt⟩)
    · exact judgeTime_of_noQuality hnone
    · exact judgeTime_of_qualityAbove hq hgt
  case time => exact fun hle => hnew.trans (senderTime_of_le hle)
  case unset =>
    subst hnew
    exact (judgeTime_of_unset hq hle hz).trans (postAdopted_setZone rfl _ _)
  case set =>
    refine ⟨fun hlt hd => ?fromHigher, fun hone hhi hlo => ?refresh, fun heq hlow hd => ?equalStep,
      fun hlt => ?lower, fun heq hi => ?equal⟩
    case fromHigher => exact (judgeTime_fromHigher hq hle hz hp hnew hlt hd).trans (postAdopted_setZone rfl _ _)
    case refresh => rw [judgeTime_refresh hq hle hz hp hnew hone hhi hlo, setQuality_held hp]
    case equalStep => exact (judgeTime_equalStep hq hle hz hp hnew heq hlow hd).trans (postAdopted_setZone hp _ _)
    case lower => exact judgeTime_ignored hq hle hz hp hnew (.inl hlt)
    case equal => exact judgeTime_ignored hq hle hz hp hnew (.inr ⟨heq, hi⟩)
  case steps => rw [hm, setZone, changeoverIfDue]

end Sys2Proof.Machine

/-! The steps of a ladder, and the most of them that an amount buys (R60 to R62, R85, R87). -/

namespace Sys2Proof.Machine

/-! ### Step sums: what the first steps of a ladder add up to -/

section StepSums

variable {f : Band → Nat} {l : Ladder} {j n r r₁ r₂ : Nat}

/-- What the bands before band `r` add up to, where a step of band `b` adds `f b`. -/
def bandSum (f : Band → Nat) (l : Ladder) (r : Nat) : Nat := ((l.bands.take r).map fun b => b.steps * f b).sum

/-- What `n` steps add up to, the last of them read as a step of band `r`. -/
def sumInBand (f : Band → Nat) (l : Ladder) (r n : Nat) : Nat :=
  bandSum f l r + f (bandAt l r) * (n - baseSteps l r)

/-- Band `r` may be read as the band of the last of `n` steps: they go past no later band, and not past `r` unless it is the
last. -/
structure EndsIn (l : Ladder) (r n : Nat) : Prop where
  le_last : r ≤ lastBand l
  base_le : baseSteps l r ≤ n
  le_next : r < lastBand l → n ≤ baseSteps l (r + 1)

theorem sum_take_succ (g : Band → Nat) (hg : g blankBand = 0) (l : Ladder) (r : Nat) :
    ((l.bands.take (r + 1)).map g).sum = ((l.bands.take r).map g).sum + g (bandAt l r) := by
  rw [List.take_add_one, bandAt]
  cases l.bands[r]? <;> simp [hg]

theorem baseSteps_succ (l : Ladder) (r : Nat) : baseSteps l (r + 1) = baseSteps l r + (bandAt l r).steps :=
  sum_take_succ _ rfl l r

theorem bandSum_succ (f : Band → Nat) (l : Ladder) (r : Nat) :
    bandSum f l (r + 1) = bandSum f l r + (bandAt l r).steps * f (bandAt l r) :=
  sum_take_succ (fun b => b.steps * f b) (Nat.zero_mul _) l r

theorem baseSteps_mono (l : Ladder) : Monotone (baseSteps l) :=
  monotone_nat_of_le_succ fun r => by rw [baseSteps_succ]; exact Nat.le_add_right _ _

/-- Bands without a step between two bands add nothing. -/
theorem bandSum_eq_of_baseSteps_eq (hr : r₁ ≤ r₂) (h : baseSteps l r₂ = baseSteps l r₁) :
    bandSum f l r₂ = bandSum f l r₁ := by
  induction r₂, hr using Nat.le_induction with
  | base => rfl
  | succ r hr ih =>
    have hlow := baseSteps_mono l hr
    rw [baseSteps_succ] at h
    have hno : (bandAt l r).steps = 0 := by omega
    rw [bandSum_succ, hno, ih (by omega), Nat.zero_mul, Nat.add_zero]

/-- A sum that ends with a band's last step ends before the first step of a later one. -/
theorem sumInBand_eq_of_lt (h₁ : EndsIn l r₁ n) (h₂ : EndsIn l r₂ n) (h : r₁ < r₂) :
    sumInBand f l r₁ n = sumInBand f l r₂ n := by
  have hnext : n ≤ baseSteps l (r₁ + 1) := h₁.le_next (h.trans_le h₂.le_last)
  have hmono : baseSteps l (r₁ + 1) ≤ baseSteps l r₂ := baseSteps_mono l h
  have hbase := h₂.base_le
  have hsteps := baseSteps_succ l r₁
  have hfull : n - baseSteps l r₁ = (bandAt l r₁).steps := by omega
  have hnone : n - baseSteps l r₂ = 0 := by omega
  calc sumInBand f l r₁ n
      = bandSum f l (r₁ + 1) := by rw [sumInBand, hfull, bandSum_succ, Nat.mul_comm]
    _ = bandSum f l r₂ := (bandSum_eq_of_baseSteps_eq (r₁ := r₁ + 1) h (by omega)).symm
    _ = sumInBand f l r₂ n := by rw [sumInBand, hnone, Nat.mul_zero, Nat.add_zero]

theorem sumInBand_eq (h₁ : EndsIn l r₁ n) (h₂ : EndsIn l r₂ n) : sumInBand f l r₁ n = sumInBand f l r₂ n := by
  rcases lt_trichotomy r₁ r₂ with h | rfl | h
  · exact sumInBand_eq_of_lt h₁ h₂ h
  · rfl
  · exact (sumInBand_eq_of_lt h₂ h₁ h).symm

/-- The band of a step: no earlier one reaches it, and it reaches the step itself unless it is the last (R60). -/
theorem stepBand_spec (l : Ladder) (j : Nat) :
    stepBand l j ≤ lastBand l ∧ (stepBand l j < lastBand l → j ≤ baseSteps l (stepBand l j + 1))
      ∧ ∀ i, i < stepBand l j → baseSteps l (i + 1) < j := by
  unfold stepBand
  cases h : (List.range (lastBand l)).find? fun r => decide (j ≤ baseSteps l (r + 1)) with
  | none => simpa using h
  | some r =>
    obtain ⟨hreach, hlt, hbefore⟩ := List.find?_range_eq_some.1 h
    exact ⟨(List.mem_range.1 hlt).le, fun _ => by simpa using hreach, fun i hi => by simpa using hbefore i hi⟩

theorem baseSteps_stepBand_lt (hj : 1 ≤ j) : baseSteps l (stepBand l j) < j := by
  obtain ⟨-, -, hbefore⟩ := stepBand_spec l j
  cases h : stepBand l j with
  | zero => exact hj
  | succ i => exact hbefore i (h ▸ Nat.lt_succ_self i)

theorem endsIn_stepBand (hj : 1 ≤ j) : EndsIn l (stepBand l j) j where
  le_last := (stepBand_spec l j).1
  base_le := (baseSteps_stepBand_lt hj).le
  le_next := (stepBand_spec l j).2.1

/-- The steps before a step may be read as ending in its band. -/
theorem endsIn_stepBand_succ : EndsIn l (stepBand l (n + 1)) n where
  le_last := (stepBand_spec l _).1
  base_le := Nat.le_of_lt_succ (baseSteps_stepBand_lt (Nat.succ_pos n))
  le_next h := Nat.le_of_succ_le ((stepBand_spec l _).2.1 h)

theorem sumInBand_zero (h : EndsIn l r 0) : sumInBand f l r 0 = 0 := by
  have hfirst : EndsIn l 0 0 := ⟨Nat.zero_le _, Nat.le_refl _, fun _ => Nat.zero_le _⟩
  rw [sumInBand_eq h hfirst, sumInBand, Nat.zero_sub, Nat.mul_zero]
  rfl

theorem sumInBand_stepBand_succ :
    sumInBand f l (stepBand l (n + 1)) (n + 1)
      = sumInBand f l (stepBand l (n + 1)) n + f (bandAt l (stepBand l (n + 1))) := by
  have hbase : baseSteps l (stepBand l (n + 1)) ≤ n := endsIn_stepBand_succ.base_le
  rw [sumInBand, sumInBand, Nat.succ_sub hbase, Nat.mul_succ, Nat.add_assoc]

theorem priceOf_eq_sumInBand (h : EndsIn l r n) : priceOf l n = sumInBand (stepPrice l) l r n := by
  rcases n with - | n
  · exact (sumInBand_zero h).symm
  · exact sumInBand_eq (endsIn_stepBand (Nat.succ_pos n)) h

theorem minutesOf_eq_sumInBand (h : EndsIn l r n) : minutesOf l n = sumInBand (stepMinutes l) l r n := by
  rcases n with - | n
  · exact (sumInBand_zero h).symm
  · exact sumInBand_eq (endsIn_stepBand (Nat.succ_pos n)) h

/-- A step adds the price of its band (R61). -/
theorem priceOf_succ (l : Ladder) (n : Nat) :
    priceOf l (n + 1) = priceOf l n + stepPrice l (bandAt l (stepBand l (n + 1))) := by
  rw [priceOf_eq_sumInBand (endsIn_stepBand_succ (n := n)), priceOf_eq_sumInBand (endsIn_stepBand (Nat.le_add_left 1 n)),
    sumInBand_stepBand_succ]

/-- A step adds the minutes of its band (R61). -/
theorem minutesOf_succ (l : Ladder) (n : Nat) :
    minutesOf l (n + 1) = minutesOf l n + stepMinutes l (bandAt l (stepBand l (n + 1))) := by
  rw [minutesOf_eq_sumInBand (endsIn_stepBand_succ (n := n)), minutesOf_eq_sumInBand (endsIn_stepBand (Nat.le_add_left 1 n)),
    sumInBand_stepBand_succ]

theorem priceOf_mono (l : Ladder) : Monotone (priceOf l) :=
  monotone_nat_of_le_succ fun n => by rw [priceOf_succ]; exact Nat.le_add_right _ _

theorem minutesOf_mono (l : Ladder) : Monotone (minutesOf l) :=
  monotone_nat_of_le_succ fun n => by rw [minutesOf_succ]; exact Nat.le_add_right _ _

end StepSums

/-! ### The ladders of a valid set: each step buys at least one minute (R66) -/

section ValidLadders

variable {t : TariffSet} {l : Ladder} {k r : Nat}

theorem lastBand_lt_eight (l : Ladder) : lastBand l < 8 := by
  unfold lastBand
  cases h : capBand l with
  | none => decide
  | some r =>
    obtain ⟨hr, -⟩ := List.findIdx?_eq_some_iff_getElem.1 h
    exact hr.trans_le (List.length_take_le 8 l.bands)

theorem ladderAt_mem (hk : k < t.ladders.length) : ladderAt t k ∈ t.ladders := by
  simp [ladderAt, List.getElem?_eq_getElem hk]

/-- Checks 1 and 2 of Table 4.4 pass on each ladder of a valid set. -/
theorem ladder_checked (hv : validate t = none) (hl : l ∈ t.ladders) :
    headerBad l = false ∧ ladderBandBad l = none := by
  simp only [validate, Option.or_eq_none_iff, Option.map_eq_none_iff] at hv
  obtain ⟨hheader, hbands, -⟩ := hv
  exact ⟨(firstBad_none _ _).1 hheader l hl, (bandsBad_none _ _).1 hbands l hl⟩

theorem bandBad_bandAt (hbands : ladderBandBad l = none) (hlen : l.bands.length = 8) (hblank : ladderBlank l = false)
    (hr : r ≤ lastBand l) : bandBad l.uniform (bandAt l r) = false := by
  simp only [ladderBandBad, hblank, Bool.false_eq_true, if_false, firstBad_none] at hbands
  have hlt : r < l.bands.length := by
    have := lastBand_lt_eight l
    omega
  refine hbands _ (List.mem_take_iff_getElem.2 ⟨r, by omega, ?_⟩)
  simp [bandAt, List.getElem?_eq_getElem hlt]

theorem pos_of_minutesOk {m : Nat} (h : minutesOk m = true) : 1 ≤ m :=
  of_decide_eq_true (Bool.and_eq_true_iff.1 h).1

/-- Of a valid ladder, a step of a band up to the last buys at least one minute: check 1 keeps it where the ladder is uniform,
check 2 where it is not. -/
theorem stepMinutes_pos (hheader : headerBad l = false) (hbands : ladderBandBad l = none) (hlen : l.bands.length = 8)
    (hblank : ladderBlank l = false) (hr : r ≤ lastBand l) : 1 ≤ stepMinutes l (bandAt l r) := by
  have hband := bandBad_bandAt hbands hlen hblank hr
  cases hu : l.uniform with
  | true =>
    have hok : minutesOk l.uMinutes = true := by simpa [headerBad, hblank, hu] using hheader
    simpa [stepMinutes, hu] using pos_of_minutesOk hok
  | false =>
    obtain ⟨-, hok⟩ : (1 ≤ (bandAt l r).steps ∧ (bandAt l r).steps ≤ 255) ∧ minutesOk (bandAt l r).minutes = true := by
      simpa [bandBad, hu] using hband
    simpa [stepMinutes, hu] using pos_of_minutesOk hok

theorem le_minutesOf (hv : validate t = none) (hl : l ∈ t.ladders) (hlen : l.bands.length = 8)
    (hblank : ladderBlank l = false) (n : Nat) : n ≤ minutesOf l n := by
  obtain ⟨hheader, hbands⟩ := ladder_checked hv hl
  induction n with
  | zero => exact Nat.zero_le _
  | succ n ih =>
    rw [minutesOf_succ]
    exact Nat.add_le_add ih (stepMinutes_pos hheader hbands hlen hblank (stepBand_spec l _).1)

end ValidLadders

/-! ### The sellable counts run from 1 up to smax (R85) -/

section SellableCounts

variable {v : View} {l : Ladder} {a m n fuel : Nat} {p : Nat → Bool}

theorem withinLength_iff (l : Ladder) (n : Nat) : withinLength l n = true ↔ ∀ c, ladderLength l = some c → n ≤ c := by
  unfold withinLength
  cases ladderLength l <;> simp

theorem sellable_iff (v : View) (l : Ladder) (n : Nat) :
    sellable v l n = true ↔
      (∀ c, ladderLength l = some c → n ≤ c) ∧ priceOf l n ≤ 65535
        ∧ (v.clearway = true → minutesOf l n ≤ v.charged)
        ∧ (v.clearway = false → minutesOf l (n - 1) < v.charged) := by
  rw [sellable, Bool.and_eq_true, Bool.and_eq_true, withinLength_iff, and_assoc]
  cases v.clearway <;> simp

theorem sellable_of_le (hmn : m ≤ n) (h : sellable v l n = true) : sellable v l m = true := by
  rw [sellable_iff] at h ⊢
  obtain ⟨hlength, hprice, hclear, hhorizon⟩ := h
  exact ⟨fun c hc => hmn.trans (hlength c hc), (priceOf_mono l hmn).trans hprice,
    fun hw => (minutesOf_mono l hmn).trans (hclear hw),
    fun hw => (minutesOf_mono l (Nat.sub_le_sub_right hmn 1)).trans_lt (hhorizon hw)⟩

/-- Where each step buys a minute, no count above the minutes of the horizon is sellable. -/
theorem sellable_le_horizon (hbuys : ∀ i, i ≤ minutesOf l i) (hlen : v.minutes.length ≤ horizonMinutes)
    (h : sellable v l n = true) : n ≤ horizonMinutes := by
  obtain ⟨-, -, hclear, hhorizon⟩ := (sellable_iff v l n).1 h
  have hcharged : v.charged ≤ v.minutes.length := List.countP_le_length
  cases hw : v.clearway with
  | true => exact (hbuys n).trans ((hclear hw).trans (hcharged.trans hlen))
  | false =>
    have := hbuys (n - 1)
    have := hhorizon hw
    omega

/-- For a property that passes to smaller counts, `upTo` from 0 finds the largest count that has it, within the fuel. -/
theorem le_upTo_iff (hp : ∀ i j, i ≤ j → p j = true → p i = true) (hn : 1 ≤ n) :
    n ≤ upTo p 0 fuel ↔ n ≤ fuel ∧ p n = true := by
  obtain ⟨-, hfuel, hall, hstop⟩ := upTo_spec p 0 fuel
  constructor
  · exact fun h => ⟨by omega, hall n hn h⟩
  · rintro ⟨hle, hpn⟩
    by_contra hlt
    have hfails := hstop (by omega)
    rw [hp _ n (by omega) hpn] at hfails
    exact Bool.noConfusion hfails

theorem le_smax_iff (hbuys : ∀ i, i ≤ minutesOf l i) (hlen : v.minutes.length ≤ horizonMinutes) (hn : 1 ≤ n) :
    n ≤ smax v l ↔ sellable v l n = true := by
  rw [smax, le_upTo_iff (fun _ _ => sellable_of_le) hn]
  exact ⟨fun h => h.2, fun h => ⟨sellable_le_horizon hbuys hlen h, h⟩⟩

theorem le_stepsForAmount_iff (hn : 1 ≤ n) : n ≤ stepsForAmount v l a ↔ n ≤ smax v l ∧ priceOf l n ≤ a := by
  rw [stepsForAmount, le_upTo_iff _ hn, decide_eq_true_iff]
  exact fun i j hij h => decide_eq_true ((priceOf_mono l hij).trans (of_decide_eq_true h))

end SellableCounts

/-! ### The walk BY_AMOUNT (R87) -/

section WalkAmount

variable {t : TariffSet} {v : View} {treat : Option ClassEntry} {first k a : Nat}

theorem walkAmount_nothingToSell (h : smax v (ladderAt t k) = 0) :
    walkAmount t v treat first k a = .nothingToSell := if_pos h

theorem walkAmount_notEnough (h : smax v (ladderAt t k) ≠ 0) (ha : a < priceOf (ladderAt t k) 1) :
    walkAmount t v treat first k a = .notEnough := (if_neg h).trans (if_pos ha)

theorem walkAmount_sold (h : smax v (ladderAt t k) ≠ 0) (ha : priceOf (ladderAt t k) 1 ≤ a) :
    ∃ r, walkAmount t v treat first k a = .sold r ∧ r.steps = stepsForAmount v (ladderAt t k) a
      ∧ r.price = priceOf (ladderAt t k) r.steps ∧ r.excess = a - r.price
      ∧ r.paidMinutes = minutesOf (ladderAt t k) r.steps
      ∧ r.nextStep =
          if r.steps + 1 ≤ smax v (ladderAt t k) then some (priceOf (ladderAt t k) (r.steps + 1) - a) else none :=
  ⟨_, (if_neg h).trans (if_neg (Nat.not_lt.2 ha)), rfl, rfl, rfl, rfl, rfl⟩

end WalkAmount

/-- Settles O38: the sellable counts, and of these the ones the amount pays for, are the counts from 1 up to the one each of
the two searches of the walk answers. -/
theorem amountBuysMost : Obligations.AmountBuysMost := by
  rintro t v treat first k a l hv hk rfl hlen hblank hhorizon
  have hbuys := le_minutesOf hv (ladderAt_mem hk) hlen hblank
  have hmax : ∀ {n}, 1 ≤ n → (n ≤ smax v (ladderAt t k) ↔ sellable v (ladderAt t k) n = true) :=
    le_smax_iff hbuys hhorizon
  have hsome (h : sellable v (ladderAt t k) 1 = true) : smax v (ladderAt t k) ≠ 0 :=
    Nat.one_le_iff_ne_zero.1 ((hmax le_rfl).2 h)
  refine ⟨fun hnone => ?nothing, fun hone ha => walkAmount_notEnough (hsome hone) ha, fun hone ha => ?sold,
    fun n _ => sellable_iff v _ n⟩
  case nothing =>
    refine walkAmount_nothingToSell (Nat.eq_zero_of_not_pos fun hpos => ?_)
    exact Bool.noConfusion (hnone.symm.trans ((hmax le_rfl).1 hpos))
  case sold =>
    obtain ⟨r, hr, hsteps, hprice, hexcess, hpaid, hnext⟩ :=
      walkAmount_sold (treat := treat) (first := first) (hsome hone) ha
    have hbought : ∀ {n}, 1 ≤ n →
        (n ≤ r.steps ↔ sellable v (ladderAt t k) n = true ∧ priceOf (ladderAt t k) n ≤ a) := fun hn => by
      rw [hsteps, le_stepsForAmount_iff hn, hmax hn]
    have hpos : 1 ≤ r.steps := (hbought le_rfl).2 ⟨hone, ha⟩
    obtain ⟨hsell, hcost⟩ := (hbought hpos).1 le_rfl
    simp only [hmax (Nat.le_add_left 1 _)] at hnext
    exact ⟨r, hr, hpos, hsell, hprice, hprice ▸ hcost, hexcess, hpaid, fun n hn hs hc => (hbought hn).2 ⟨hs, hc⟩,
      fun hmore => hnext.trans (if_pos hmore), fun hno => hnext.trans (if_neg (by simp [hno]))⟩

end Sys2Proof.Machine

/-! A part held in reset: no command but a reset from outside acts, and the pins out are read off the level of RESET_N (R191). -/

namespace Sys2Proof.Machine

section HeldPart

variable {i : Instr} {s : State}

/-- Of all commands only POWER_ON and RESET_N reach a part that is held; every other one goes through `act`. -/
theorem exec_eq_act (hpower : i ≠ .powerOn) (hreset : ∀ level, i ≠ .resetN level) :
    ∃ f : State → State, ∀ s, exec i s = act f s := by
  cases i with
  | powerOn => exact absurd rfl hpower
  | resetN level => exact absurd rfl (hreset level)
  | _ => exact ⟨_, fun _ => rfl⟩

theorem ne_powerOn_of_isTransfer (h : isTransfer i = true) : i ≠ .powerOn := by
  rintro rfl
  cases h

theorem ne_resetN_of_isTransfer (h : isTransfer i = true) (level : Bool) : i ≠ .resetN level := by
  rintro rfl
  cases h

section Low

variable (hlow : s.port.resetHigh = false)
include hlow

theorem exec_transfer_of_low (h : isTransfer i = true) : exec i s = .next s := by
  obtain ⟨f, hf⟩ := exec_eq_act (ne_powerOn_of_isTransfer h) (ne_resetN_of_isTransfer h)
  exact (hf s).trans (act_low f hlow)

theorem hostpwr_of_low : s.hostpwr = true := by simp [State.hostpwr, hlow]

theorem ready_of_low : s.ready = false := by simp [State.ready, hlow]

theorem attn_of_low : s.attn = false := by simp [State.attn, hlow]

theorem ltxIdle_of_low : s.ltxIdle = true := by simp [State.ltxIdle, hlow]

end Low

end HeldPart

/-- Settles O12: a transfer is no reset from outside, so it acts on no held part; each pin follows from the level alone. -/
theorem heldInReset : Obligations.HeldInReset := fun _ hlow =>
  ⟨fun _ => exec_transfer_of_low hlow, hostpwr_of_low hlow, ready_of_low hlow, attn_of_low hlow, ltxIdle_of_low hlow⟩

end Sys2Proof.Machine

/-! What each command that is not a host command and carries no frame means, and what every command keeps: the layer that the
statements about steps rest on. -/

namespace Sys2Proof.Machine

/-! ### The meaning of the commands that come by themselves -/

section Rows

variable (s : State) (lcd : Bool)

theorem exec_remoteRestart :
    exec .remoteRestart s = act (fun t => if t.faults.restartBy.isSome then resetPart .remoteRestart t else t) s := rfl

theorem exec_badFrameWrite (bytes : List Byte) :
    exec (.badFrameWrite bytes) s =
      act (fun t => if isRead bytes || writeSound bytes then t else onWrite answerBadFrame t) s := rfl

theorem exec_overrunWrite : exec .overrunWrite s = act (fun t => if t.portBusy then overrun t else t) s := rfl

theorem exec_undefinedCommandCode (code : Nat) :
    exec (.undefinedCommandCode code) s =
      act (fun t => if codeDefined code then t else onWrite (fun u => respond code (refuse .badParameter u)) t) s := rfl

theorem exec_receiveGapTimeout :
    exec .receiveGapTimeout s =
      act (fun t =>
        match t.link.path with
        | .collecting _ _ last => if t.gapOver then setPath (.waitQuiet last) t else t
        | _ => t) s := rfl

theorem exec_backoffWaitExpiry :
    exec (.backoffWaitExpiry lcd) s = act (fun t => if t.backoffOver then expireBackoff (setLcd lcd t) else t) s := rfl

theorem exec_frameSent :
    exec (.frameSent lcd) s = act (fun t => if t.frameOut then endFrame (setLcd lcd t) else t) s := rfl

theorem exec_announceEnded :
    exec (.announceEnded lcd) s =
      act (fun t => if t.announceOut && !t.entryDue then endAnnounce (setLcd lcd t) else t) s := rfl

theorem exec_qualityAgeExpiry :
    exec .qualityAgeExpiry s =
      act (fun t => if t.ageOver then setQuality (t.clock.quality.getD 0 - 1) t else t) s := rfl

theorem exec_intakeProgressTimeout :
    exec .intakeProgressTimeout s =
      act (fun t =>
        match t.repl.intake with
        | some i => if t.intakeStalled then countFailure i t else t
        | none => t) s := rfl

theorem exec_peerSilence (station : Nat) :
    exec (.peerSilence station) s =
      act (fun t =>
        match t.peer station with
        | none => t
        | some p =>
          if silentDue t p then faultStatusNotice station .silent (dropCandidate station (makeSilent station t)) else t) s :=
  rfl

theorem exec_sectionBehindExpiry (i : Nat) :
    exec (.sectionBehindExpiry i) s = act (fun t => if t.staleDue i then passStale i t else t) s := rfl

theorem exec_saleInactivityExpiry :
    exec .saleInactivityExpiry s =
      act (fun t => if saleOver (·.lastEvent) 120000 t then abandonSale .inactivity t else t) s := rfl

theorem exec_saleLifetimeExpiry :
    exec .saleLifetimeExpiry s =
      act (fun t => if saleOver (·.openedAt) 600000 t then abandonSale .lifetime t else t) s := rfl

theorem exec_senseSample (group : Nat) (level : Bool) :
    exec (.senseSample group level) s = act (fun t => if t.sampleDue group then takeSample group level t else t) s := rfl

theorem exec_firstSettled (group : Nat) :
    exec (.firstSettled group) s =
      act (fun t =>
        match firstCondition (t.groupAt group) with
        | some c => firstSettle group c t
        | none => t) s := rfl

theorem exec_senseGroupChange (group : Nat) :
    exec (.senseGroupChange group) s =
      act (fun t =>
        match changedCondition (t.groupAt group) with
        | some c => changeGroup group c t
        | none => t) s := rfl

theorem exec_wakeButtonPress :
    exec .wakeButtonPress s = act (fun t => if t.pressDue then takePress t else setButtonPin (!t.power.buttonPin) t) s :=
  rfl

theorem exec_awakeGraceExpiry : exec .awakeGraceExpiry s = act (fun t => if t.graceOver then setDormantDue t else t) s := rfl

theorem exec_dormantEntry :
    exec .dormantEntry s =
      act (fun t => if t.entryDue then enterDormant (if t.announceOut then endAnnounce t else t) else t) s := rfl

theorem exec_lineQuiet : exec .lineQuiet s = act (fun t => if t.quietOver then setPath .idle t else t) s := rfl

theorem exec_collectionReport (h : FrameHeader) (d : CollectionData) :
    exec (.collectionReport h d) s =
      act (onFrame h (.collectionReport d) fun t => if t.isRole .collector then takeReport h.sender d t else t) s := rfl

end Rows

/-! ### What every command keeps -/

/-- A property of states that what stands around a command's effect keeps: the putting in order, an overrun noted, a response
placed. -/
structure KeptAround (P : State → Prop) : Prop where
  settle : ∀ u, P u → P (settle u)
  overrun : ∀ u, P u → P (overrun u)
  respond : ∀ code a, P a.2.2 → P (respond code a)

namespace KeptAround

variable {P : State → Prop} (k : KeptAround P) {s t : State}
include k

theorem act {f : State → State} (h : P s) (hf : ∀ u, P u → P (f u)) (e : act f s = .next t) : P t :=
  act_inv k.settle h (hf s h) e

theorem branch {c : State → Bool} {f g : State → State} (h : P s) (hf : ∀ u, c u = true → P u → P (f u))
    (hg : ∀ u, P u → P (g u)) (e : Machine.act (fun u => if c u then f u else g u) s = .next t) : P t := by
  refine k.act h (fun u hu => ?_) e
  split
  next hc => exact hf u hc hu
  · exact hg u hu

theorem onWrite {f : State → State} (hf : ∀ u, P u → P (f u)) (u : State) (hu : P u) : P (onWrite f u) := by
  unfold Machine.onWrite
  split
  · exact k.overrun u hu
  · exact hf u hu

theorem hostAny {code : Nat} {body : State → Answer} (h : P s) (hf : ∀ u, P u → P (body u).2.2)
    (e : hostAny code body s = .next t) : P t :=
  k.act h (k.onWrite fun u hu => k.respond code _ (hf u hu)) e

theorem host {code : Nat} {roles : State → Bool} {body : State → Answer} (h : P s)
    (hf : ∀ u, u.setupDone = true → P u → P (body u).2.2) (e : host code roles body s = .next t) : P t := by
  refine k.hostAny h (fun u hu => ?_) e
  unfold guarded
  split
  · exact hu
  next hd =>
    split
    · exact hu
    · exact hf u (by simpa using hd) hu

end KeptAround

/-! ### The queue of commands -/

section Queue

variable {q : List Instr} {i : Instr} {s t u : State}

theorem queue_keptAround (q : List Instr) : KeptAround fun u => u.pending = q where
  settle u hu := by simpa using hu
  overrun u hu := by simpa using hu
  respond code a ha := by simpa using ha

@[simp] theorem exchangeEnd_pending (s : State) : (exchangeEnd s).pending = s.pending := by rw [exchangeEnd]

@[simp] theorem byteIn_pending (b : Byte) (stopOk : Bool) (s : State) : (byteIn b stopOk s).pending = s.pending := by
  unfold byteIn
  (repeat' split) <;> simp

@[simp] theorem takePress_pending (s : State) : (takePress s).pending = s.pending := by simp [takePress]

@[simp] theorem assertSupply_pending (s : State) : (assertSupply s).pending = s.pending := by
  unfold assertSupply
  split <;> simp

@[simp] theorem deassertSupply_pending (s : State) : (deassertSupply s).pending = s.pending := by
  unfold deassertSupply
  (repeat' split) <;> simp

theorem exec_queue (h : s.pending = q) (e : exec i s = .next t) : t.pending = q := by
  have k := queue_keptAround q
  cases i with
  | powerOn =>
    cases e
    simpa using h
  | resetN high =>
    cases e
    (repeat' split) <;> simpa using h
  | identify | readStatus | setup => exact k.hostAny h (fun u hu => by simpa using hu) e
  | readEvent | setAssetTag | setTime | readPeer | readReplication | readTariff | tariffDraftBegin | tariffDraftSelect
  | tariffDraftWrite | tariffDraftRead | tariffPublish | quote | saleOpen | saleCoin | saleCard | salePermit | saleDuration
  | saleCommit | saleCancel | checkPermit | amendPermit | closeSection | sectionLoadBegin | sectionLoadRecord
  | sectionLoadEnd | readSection | readUsage | readTally | readJournal | roundOpenCommand | roundVisitCommand
  | roundCloseCommand | readSheet | readRound | raiseFault | ackFault | clearFault | readFaults | restartStation
  | pageStation | readSense | rest | readPower =>
    exact k.host h (fun u _ hu => by simpa using hu) e
  | readTransfer | frameDiscarded | announce | request | fragment | notHeld | superseded | amendment | usage | faultReport
  | faultAck | faultClear | roundOpenFrame | roundVisitFrame | roundCloseFrame | collectionAck | restart | page
  | cycleStartMark | ownSlotMark | exchangePeriodMark | endOfExchangeMark | mediumIdle | visitPeriodExpiry | dayRollover
  | changeover | byteReceived | supplyLowAssert | supplyLowDeassert =>
    exact k.act h (fun u hu => by simpa using hu) e
  | remoteRestart | overrunWrite | backoffWaitExpiry | frameSent | announceEnded | qualityAgeExpiry | sectionBehindExpiry
  | saleInactivityExpiry | saleLifetimeExpiry | senseSample | awakeGraceExpiry | lineQuiet | wakeButtonPress =>
    simp only [exec_remoteRestart, exec_overrunWrite, exec_backoffWaitExpiry, exec_frameSent, exec_announceEnded,
      exec_qualityAgeExpiry, exec_sectionBehindExpiry, exec_saleInactivityExpiry, exec_saleLifetimeExpiry,
      exec_senseSample, exec_awakeGraceExpiry, exec_lineQuiet, exec_wakeButtonPress] at e
    exact k.branch h (fun u _ hu => by simpa using hu) (fun u hu => by simpa using hu) e
  | badFrameWrite | undefinedCommandCode =>
    simp only [exec_badFrameWrite, exec_undefinedCommandCode] at e
    exact k.branch h (fun _ _ hu => hu) (k.onWrite fun u hu => by simpa using hu) e
  | dormantEntry =>
    rw [exec_dormantEntry] at e
    refine k.branch h (fun u _ hu => ?_) (fun _ hu => hu) e
    split <;> simpa using hu
  | collectionReport hd d =>
    rw [exec_collectionReport] at e
    refine k.act h (fun u hu => ?_) e
    rw [onFrame_keeps_pending]
    · exact hu
    · intro v
      split <;> simp
  | receiveGapTimeout | intakeProgressTimeout | peerSilence | firstSettled | senseGroupChange =>
    simp only [exec_receiveGapTimeout, exec_intakeProgressTimeout, exec_peerSilence, exec_firstSettled,
      exec_senseGroupChange] at e
    refine k.act h (fun u hu => ?_) e
    (repeat' split) <;> simpa using hu

theorem exec_next (i : Instr) (s : State) : ∃ t, exec i s = .next t := by
  cases i <;> exact ⟨_, rfl⟩

end Queue
/-! ### The zone clock -/

section Clock

variable {i : Instr} {s t : State}

theorem clock_keptAround : KeptAround fun u => ClockInv u.clock where
  settle u hu := by simpa using hu
  overrun u hu := by simpa using hu
  respond code a ha := by simpa using ha

@[simp] theorem exchangeEnd_clock (s : State) : (exchangeEnd s).clock = s.clock := by rw [exchangeEnd]

@[simp] theorem byteIn_clock (b : Byte) (stopOk : Bool) (s : State) : (byteIn b stopOk s).clock = s.clock := by
  unfold byteIn
  (repeat' split) <;> simp

@[simp] theorem takePress_clock (s : State) : (takePress s).clock = s.clock := by simp [takePress]

@[simp] theorem assertSupply_clock (s : State) : (assertSupply s).clock = s.clock := by
  unfold assertSupply
  split <;> simp

@[simp] theorem deassertSupply_clock (s : State) : (deassertSupply s).clock = s.clock := by
  unfold deassertSupply
  (repeat' split) <;> simp

theorem filterFrame_clock {hd : FrameHeader} {body : FrameBody} {accept : State → State}
    (hf : ∀ u, ClockInv u.clock → ClockInv (accept u).clock) (u : State) (hu : ClockInv u.clock) :
    ClockInv (filterFrame hd body accept u).clock := by
  have hnoted : ClockInv (noteAddressed hd u).clock := by simpa using hu
  unfold filterFrame
  (repeat' split)
  · simpa using hu
  · exact hu
  · exact hf _ hnoted
  · exact hnoted
  · exact hu

theorem exec_clock (h : ClockInv s.clock) (e : exec i s = .next t) : ClockInv t.clock := by
  have k := clock_keptAround
  cases i with
  | powerOn =>
    cases e
    exact resetPart_clock _ s
  | resetN high =>
    cases e
    (repeat' split)
    · exact h
    · exact resetPart_clock .resetN s
    · exact h
  | remoteRestart =>
    rw [exec_remoteRestart] at e
    exact k.branch h (fun u _ _ => resetPart_clock _ u) (fun _ hu => hu) e
  | identify | readStatus | setup => exact k.hostAny h (fun u hu => by simpa using hu) e
  | setTime seconds => exact k.host h (fun _ _ => setTimeBody_clock seconds _) e
  | readEvent | setAssetTag | readPeer | readReplication | readTariff | tariffDraftBegin | tariffDraftSelect
  | tariffDraftWrite | tariffDraftRead | tariffPublish | quote | saleOpen | saleCoin | saleCard | salePermit | saleDuration
  | saleCommit | saleCancel | checkPermit | amendPermit | closeSection | sectionLoadBegin | sectionLoadRecord
  | sectionLoadEnd | readSection | readUsage | readTally | readJournal | roundOpenCommand | roundVisitCommand
  | roundCloseCommand | readSheet | readRound | raiseFault | ackFault | clearFault | readFaults | restartStation
  | pageStation | readSense | rest | readPower =>
    exact k.host h (fun u _ hu => by simpa using hu) e
  | announce hd ms a =>
    exact k.act h (filterFrame_clock fun u hu => takeAnnounce_clock _ _ _ u hu) e
  | cycleStartMark | ownSlotMark | exchangePeriodMark | endOfExchangeMark =>
    refine k.act h ?_ e
    exact fun u hu => giveMark_clock _ _ u hu fun v => by simp
  | dayRollover => exact k.act h makeRollover_clock e
  | qualityAgeExpiry =>
    rw [exec_qualityAgeExpiry] at e
    exact k.branch h (fun u hc hu => ageOver_clock u hu hc) (fun _ hu => hu) e
  | request | fragment | notHeld | superseded | amendment | usage | faultReport | faultAck | faultClear | roundOpenFrame
  | roundVisitFrame | roundCloseFrame | collectionAck | restart | page | readTransfer | frameDiscarded | mediumIdle
  | visitPeriodExpiry | changeover | byteReceived | supplyLowAssert | supplyLowDeassert =>
    exact k.act h (fun u hu => by simpa using hu) e
  | overrunWrite | backoffWaitExpiry | frameSent | announceEnded | sectionBehindExpiry
  | saleInactivityExpiry | saleLifetimeExpiry | senseSample | awakeGraceExpiry | lineQuiet | wakeButtonPress =>
    simp only [exec_overrunWrite, exec_backoffWaitExpiry, exec_frameSent, exec_announceEnded,
      exec_sectionBehindExpiry, exec_saleInactivityExpiry, exec_saleLifetimeExpiry,
      exec_senseSample, exec_awakeGraceExpiry, exec_lineQuiet, exec_wakeButtonPress] at e
    exact k.branch h (fun u _ hu => by simpa using hu) (fun u hu => by simpa using hu) e
  | badFrameWrite | undefinedCommandCode =>
    simp only [exec_badFrameWrite, exec_undefinedCommandCode] at e
    exact k.branch h (fun _ _ hu => hu) (k.onWrite fun u hu => by simpa using hu) e
  | dormantEntry =>
    rw [exec_dormantEntry] at e
    refine k.branch h (fun u _ hu => ?_) (fun _ hu => hu) e
    split <;> simpa using hu
  | collectionReport hd d =>
    rw [exec_collectionReport] at e
    refine k.act h (fun u hu => ?_) e
    rw [onFrame_keeps_clock]
    · exact hu
    · intro v
      split <;> simp
  | receiveGapTimeout | intakeProgressTimeout | peerSilence | firstSettled | senseGroupChange =>
    simp only [exec_receiveGapTimeout, exec_intakeProgressTimeout, exec_peerSilence, exec_firstSettled,
      exec_senseGroupChange] at e
    refine k.act h (fun u hu => ?_) e
    (repeat' split) <;> simpa using hu

end Clock
/-! ### The open sale and the tariff slots -/

section SaleAndSlots

variable {i : Instr} {s t : State}

theorem sale_keptAround : KeptAround SaleInv where
  settle _ hu := sale_of_eq hu (by simp) (by simp) (by simp)
  overrun _ hu := sale_of_eq hu (by simp) (by simp) (by simp)
  respond := respond_sale

theorem setupDone_isSome (h : s.setupDone = true) : s.port.setup.isSome = true := h

theorem exec_sale (h : SaleInv s) (e : exec i s = .next t) : SaleInv t := by
  have k := sale_keptAround
  cases i with
  | powerOn =>
    cases e
    exact resetPart_sale .powerOn h
  | resetN high =>
    cases e
    (repeat' split)
    · exact h
    · exact sale_of_eq (resetPart_sale .resetN h) rfl rfl rfl
    · exact sale_of_eq h rfl rfl rfl
  | remoteRestart =>
    rw [exec_remoteRestart] at e
    exact k.branch h (fun _ _ hu => resetPart_sale .remoteRestart hu) (fun _ hu => hu) e
  | identify | readStatus => exact k.hostAny h (fun u hu => sale_of_eq hu (by simp) (by simp) (by simp)) e
  | setup p => exact k.hostAny h (fun _ hu => setupBody_sale p hu) e
  | setTime seconds => exact k.host h (fun _ _ hu => setTimeBody_sale seconds hu) e
  | tariffDraftBegin source => exact k.host h (fun _ _ hu => draftBeginBody_sale source hu) e
  | tariffDraftSelect part => exact k.host h (fun _ _ hu => withDraft_sale hu fun d _ => draftSelectBody_sale part d) e
  | tariffDraftWrite entry => exact k.host h (fun _ _ hu => withDraft_sale hu fun d _ => draftWriteBody_sale entry d) e
  | tariffDraftRead => exact k.host h (fun _ _ hu => withDraft_sale hu fun d _ => draftReadBody_sale d) e
  | tariffPublish n => exact k.host h (fun _ _ hu => withDraft_sale hu fun d _ => publishBody_sale n d) e
  | saleOpen => exact k.host h (fun _ hd hu => saleOpenBody_sale hu (setupDone_isSome hd)) e
  | saleCoin index => exact k.host h (fun _ _ hu => onSale_sale _ hu fun r _ => saleCoinBody_sale index r) e
  | saleCard amount => exact k.host h (fun _ _ hu => onSale_sale _ hu fun r _ => saleCardBody_sale amount r) e
  | salePermit number => exact k.host h (fun _ _ hu => onSale_sale _ hu fun r _ => salePermitBody_sale number r) e
  | saleDuration minutes => exact k.host h (fun _ _ hu => onSale_sale _ hu fun r _ => saleDurationBody_sale minutes r) e
  | saleCommit => exact k.host h (fun _ _ hu => onSale_sale _ hu fun r _ => saleCommitBody_sale r) e
  | saleCancel => exact k.host h (fun _ _ hu => onSale_sale _ hu fun r _ hv _ => saleCancelBody_sale r hv) e
  | readEvent | setAssetTag | readPeer | readReplication | readTariff | quote | checkPermit | amendPermit
  | closeSection | sectionLoadBegin | sectionLoadRecord | sectionLoadEnd | readSection | readUsage | readTally
  | readJournal | roundOpenCommand | roundVisitCommand | roundCloseCommand | readSheet | readRound | raiseFault
  | ackFault | clearFault | readFaults | restartStation | pageStation | readSense | readPower =>
    exact k.host h (fun u _ hu => sale_of_eq hu (by simp) (by simp) (by simp)) e
  | rest => exact k.host h (fun u _ hu => sale_of_eq hu (by simp) (by simp) (by simp)) e
  | announce hd ms a => exact k.act h (fun _ hu => filterFrame_sale hu fun _ => takeAnnounce_sale _ ms a) e
  | fragment hd f => exact k.act h (fun _ hu => onFrame_sale hu fun _ => judgeFragment_sale _ f) e
  | collectionReport hd d =>
    rw [exec_collectionReport] at e
    refine k.act h (fun _ hu => onFrame_sale hu fun v hv => ?_) e
    split
    · exact sale_of_eq hv (by simp) (by simp) (by simp)
    · exact hv
  | request | notHeld | superseded | amendment | usage | faultReport | faultAck | faultClear | roundOpenFrame
  | roundVisitFrame | roundCloseFrame | collectionAck | restart | page | frameDiscarded | mediumIdle
  | visitPeriodExpiry | dayRollover | byteReceived | supplyLowDeassert =>
    exact k.act h (fun u hu => sale_of_eq hu (by simp) (by simp) (by simp)) e
  | readTransfer whole => exact k.act h (fun _ => readOut_sale whole) e
  | changeover => exact k.act h (fun _ => changeoverIfDue_sale) e
  | supplyLowAssert => exact k.act h (fun _ => assertSupply_sale) e
  | cycleStartMark | exchangePeriodMark | endOfExchangeMark =>
    refine k.act h ?_ e
    exact fun _ hu => giveMark_sale _ hu fun _ hv => sale_of_eq hv (by simp) (by simp) (by simp)
  | ownSlotMark =>
    refine k.act h ?_ e
    exact fun _ hu => giveMark_sale _ hu fun _ hv => ownSlot_sale _ hv
  | saleInactivityExpiry =>
    rw [exec_saleInactivityExpiry] at e
    exact k.branch h (fun _ _ => abandonSale_sale .inactivity) (fun _ hu => hu) e
  | saleLifetimeExpiry =>
    rw [exec_saleLifetimeExpiry] at e
    exact k.branch h (fun _ _ => abandonSale_sale .lifetime) (fun _ hu => hu) e
  | awakeGraceExpiry =>
    rw [exec_awakeGraceExpiry] at e
    exact k.branch h (fun _ _ => setDormantDue_sale) (fun _ hu => hu) e
  | dormantEntry =>
    rw [exec_dormantEntry] at e
    refine k.branch h (fun u _ hu => enterDormant_sale ?_) (fun _ hu => hu) e
    split
    · exact sale_of_eq hu (by simp) (by simp) (by simp)
    · exact hu
  | overrunWrite | backoffWaitExpiry | frameSent | announceEnded | qualityAgeExpiry | sectionBehindExpiry | senseSample
  | lineQuiet | wakeButtonPress =>
    simp only [exec_overrunWrite, exec_backoffWaitExpiry, exec_frameSent, exec_announceEnded, exec_qualityAgeExpiry,
      exec_sectionBehindExpiry, exec_senseSample, exec_lineQuiet, exec_wakeButtonPress] at e
    exact k.branch h (fun u _ hu => sale_of_eq hu (by simp) (by simp) (by simp))
      (fun u hu => sale_of_eq hu (by simp) (by simp) (by simp)) e
  | badFrameWrite | undefinedCommandCode =>
    simp only [exec_badFrameWrite, exec_undefinedCommandCode] at e
    exact k.branch h (fun _ _ hu => hu) (k.onWrite fun u hu => sale_of_eq hu (by simp) (by simp) (by simp)) e
  | receiveGapTimeout | intakeProgressTimeout | peerSilence | firstSettled | senseGroupChange =>
    simp only [exec_receiveGapTimeout, exec_intakeProgressTimeout, exec_peerSilence, exec_firstSettled,
      exec_senseGroupChange] at e
    refine k.act h (fun u hu => ?_) e
    (repeat' split) <;> exact sale_of_eq hu (by simp) (by simp) (by simp)

end SaleAndSlots

/-! ### The bounds of the queues, tables and stores -/

section Bounds

variable {i : Instr} {s t : State}

theorem bounds_keptAround : KeptAround BoundsInv where
  settle := settle_bounds
  overrun _ hu := overrun_bounds hu
  respond := respond_bounds

theorem giveMark_bounded {m : Mark} {f : State → State} (hf : ∀ u, BoundsInv u → BoundsInv (f u)) (u : State)
    (hu : BoundsInv u) : BoundsInv (giveMark m f u) := giveMark_bounds m f u hu hf

theorem onFrame_bounded {hd : FrameHeader} {body : FrameBody} {f : State → State}
    (hf : ∀ u, BoundsInv u → BoundsInv (f u)) (u : State) (hu : BoundsInv u) : BoundsInv (onFrame hd body f u) :=
  onFrame_bounds hd body f u hu hf

theorem exec_bounds (h : BoundsInv s) (e : exec i s = .next t) : BoundsInv t := by
  have k := bounds_keptAround
  cases i with
  | powerOn =>
    cases e
    exact resetPart_bounds _ s h
  | resetN high =>
    cases e
    (repeat' split)
    · exact h
    · have hreset := resetPart_bounds .resetN s h
      exact setPort_bounds _ hreset hreset.events hreset.peers
    · exact setPort_bounds _ h h.events h.peers
  | identify | readStatus | setup => exact k.hostAny h (fun u hu => by simp [hu]) e
  | readEvent | setAssetTag | readPeer | readReplication | readTariff | tariffDraftBegin | quote | saleOpen
  | checkPermit | amendPermit | closeSection | sectionLoadBegin | sectionLoadRecord | sectionLoadEnd | readSection
  | readUsage | readTally | readJournal | roundOpenCommand | roundVisitCommand | roundCloseCommand | readSheet
  | readRound | raiseFault | ackFault | clearFault | readFaults | restartStation | pageStation | readSense | rest
  | readPower =>
    exact k.host h (fun u _ hu => by simp [hu]) e
  | setTime => exact k.host h (fun u _ hu => by simp [hu]) e
  | tariffDraftSelect | tariffDraftWrite | tariffDraftRead | tariffPublish =>
    exact k.host h (fun u _ hu => withDraft_bounds _ u hu fun d v hv => by simp [hv]) e
  | saleCoin | saleCard | salePermit | saleDuration | saleCommit | saleCancel =>
    exact k.host h (fun u _ hu => onSale_bounds _ u hu fun r v hv => by simp [hv]) e
  | announce hd ms a =>
    exact k.act h (fun u hu => filterFrame_bounds _ _ _ u hu fun v hv hfit => takeAnnounce_bounds _ ms a v hv hfit) e
  | request | fragment | notHeld | superseded | amendment | usage | faultReport | faultAck | faultClear | restart | page =>
    refine k.act h ?_ e
    exact onFrame_bounded fun v hv => by simp [hv]
  | roundOpenFrame | roundVisitFrame | roundCloseFrame | collectionAck =>
    refine k.act h ?_ e
    exact onFrame_bounded fun v hv => atMachine_bounds _ v hv fun w hw => by simp [hw]
  | collectionReport hd d =>
    rw [exec_collectionReport] at e
    refine k.act h (onFrame_bounded fun v hv => ?_) e
    split
    · exact takeReport_bounds _ d v hv
    · exact hv
  | readTransfer | frameDiscarded | mediumIdle | visitPeriodExpiry | dayRollover | changeover | byteReceived
  | supplyLowAssert | supplyLowDeassert =>
    exact k.act h (fun u hu => by simp [hu]) e
  | cycleStartMark | ownSlotMark | exchangePeriodMark | endOfExchangeMark =>
    refine k.act h ?_ e
    exact giveMark_bounded fun v hv => by simp [hv]
  | remoteRestart | overrunWrite | backoffWaitExpiry | frameSent | announceEnded | qualityAgeExpiry | sectionBehindExpiry
  | saleInactivityExpiry | saleLifetimeExpiry | senseSample | awakeGraceExpiry | lineQuiet | wakeButtonPress =>
    simp only [exec_remoteRestart, exec_overrunWrite, exec_backoffWaitExpiry, exec_frameSent, exec_announceEnded,
      exec_qualityAgeExpiry, exec_sectionBehindExpiry, exec_saleInactivityExpiry, exec_saleLifetimeExpiry,
      exec_senseSample, exec_awakeGraceExpiry, exec_lineQuiet, exec_wakeButtonPress] at e
    exact k.branch h (fun u _ hu => by simp [hu]) (fun u hu => by simp [hu]) e
  | badFrameWrite | undefinedCommandCode =>
    simp only [exec_badFrameWrite, exec_undefinedCommandCode] at e
    exact k.branch h (fun _ _ hu => hu) (k.onWrite fun u hu => by simp [hu]) e
  | dormantEntry =>
    rw [exec_dormantEntry] at e
    refine k.branch h (fun u _ hu => enterDormant_bounds _ ?_) (fun _ hu => hu) e
    split
    · exact endAnnounce_bounds u hu
    · exact hu
  | peerSilence station =>
    rw [exec_peerSilence] at e
    refine k.act h (fun u hu => ?_) e
    (repeat' split)
    · exact hu
    · exact faultStatusNotice_bounds station .silent _ (dropCandidate_bounds station _ (makeSilent_bounds station u hu))
    · exact hu
  | receiveGapTimeout | intakeProgressTimeout | firstSettled | senseGroupChange =>
    simp only [exec_receiveGapTimeout, exec_intakeProgressTimeout, exec_firstSettled, exec_senseGroupChange] at e
    refine k.act h (fun u hu => ?_) e
    (repeat' split) <;> simp [hu]

end Bounds

/-! ### What every step keeps -/

section Steps

variable {s t : State}

/-- A step runs a command, on the queue without it or where the queue is empty, hands over the waiting frame, lets a
millisecond pass, or stands still. -/
theorem step_cases (e : step s = .next t) :
    (∃ i q, exec i { s with pending := q } = .next t) ∨ (∃ i, exec i s = .next t)
      ∨ (∃ i u, exec i (beginHanding s) = .next u ∧ t = endHanding u) ∨ t = tick s ∨ t = s := by
  unfold step at e
  split at e
  next i q _ => exact .inl ⟨i, q, e⟩
  · unfold idleStep at e
    split at e
    · split at e
      · exact .inr (.inl ⟨_, e⟩)
      · split at e
        next r _ =>
          obtain ⟨u, hu⟩ := exec_next (receivedCommand s r) (beginHanding s)
          simp only [handOver, hu, Host.Outcome.next.injEq] at e
          exact .inr (.inr (.inl ⟨_, u, hu, e.symm⟩))
        · split at e
          · exact .inr (.inl ⟨_, e⟩)
          · cases e
            exact .inr (.inr (.inr (.inl rfl)))
    · cases e
      exact .inr (.inr (.inr (.inr rfl)))

/-- A property that every command keeps, and that none of the other things a step does touches, is kept by every step. -/
theorem step_keeps {P : State → Prop} (hexec : ∀ {i u v}, P u → exec i u = .next v → P v)
    (hqueue : ∀ u q, P u → P { u with pending := q }) (hbegin : ∀ u, P u → P (beginHanding u))
    (hend : ∀ u, P u → P (endHanding u)) (htick : ∀ u, P u → P (tick u)) (h : P s) (e : step s = .next t) : P t := by
  obtain ⟨i, q, hi⟩ | ⟨i, hi⟩ | ⟨i, u, hi, rfl⟩ | rfl | rfl := step_cases e
  · exact hexec (hqueue s q h) hi
  · exact hexec h hi
  · exact hend u (hexec (hbegin s h) hi)
  · exact htick s h
  · exact h

end Steps

/-- Settles O7: every command keeps the fields of the clock in their ranges, and so does one millisecond more. -/
theorem stepKeepsClock : Obligations.StepKeepsClock := fun _ _ h e =>
  step_keeps (P := fun u => ClockInv u.clock) exec_clock (fun _ _ hu => hu) (fun _ hu => hu) (fun _ hu => hu)
    (fun u hu => tick_clock u.clock hu) h e

/-- Settles O8: every command keeps the sale, its mark, its pin and the slots together; nothing else that a step does touches
them. -/
theorem stepKeepsSale : Obligations.StepKeepsSale := fun _ _ h e =>
  step_keeps exec_sale (fun _ _ hu => sale_of_eq hu rfl rfl rfl) (fun _ hu => sale_of_eq hu rfl rfl rfl)
    (fun _ hu => sale_of_eq hu rfl rfl rfl) (fun _ hu => sale_of_eq hu rfl rfl rfl) h e

theorem setQueue_bounds (q : List Instr) {s : State} (h : BoundsInv s) : BoundsInv { s with pending := q } :=
  ⟨h.tx, h.events, h.supply, h.journal, h.log, h.sheet, h.peers, h.want, h.faults, h.usage, h.sections, h.draft, h.spans⟩

/-- Settles O9: every command keeps the queues, tables and stores within their places, and so does what a step does beside. -/
theorem stepKeepsBounds : Obligations.StepKeepsBounds := fun _ _ h e =>
  step_keeps exec_bounds (fun _ q hu => setQueue_bounds q hu) (fun _ hu => beginHanding_bounds hu)
    (fun _ hu => endHanding_bounds hu) (fun _ hu => tick_bounds hu) h e

/-- Settles O1. -/
theorem stepTakesFront : Obligations.StepTakesFront := by
  intro c rest s h
  rw [step, h]

/-- Settles O5: every arm of `exec` answers a next state, and no command's effect touches the queue. -/
theorem everyCommandCompletes : Obligations.EveryCommandCompletes := fun i s =>
  let ⟨t, e⟩ := exec_next i s
  ⟨t, e, exec_queue rfl e⟩


end Sys2Proof.Machine

/-! The rules that the statements of the commands go by: how a request, an honoured frame and a row are taken. Then the steps on
an empty queue, the resets and the host port (Sections 1 and 11). -/

namespace Sys2Proof.Machine

/-! ### How a command is taken -/

section Taken

variable {i : Instr} {s u : State} {c : Nat} {roles : State → Bool} {body : State → Answer} {f : State → State}
  {st : Status} {r : Result}

/-- A command that acts on a part that is not held: the state it leaves is its effect, put in order. -/
theorem acts_of_act (he : exec i s = act f s) (hh : s.port.resetHigh = true) (hu : f s = u) : acts i s u :=
  he.trans (hu ▸ act_high f hh)

theorem answers_of_hostAny (he : exec i s = hostAny c body s) (h : s.takesRequest = true) (hb : body s = (st, r, u)) :
    answers i s c st r u := he.trans (hb ▸ hostAny_taken c body h)

theorem answers_of_host (he : exec i s = host c roles body s) (h : s.openTo roles = true) (hb : body s = (st, r, u)) :
    answers i s c st r u := he.trans (hb ▸ host_open c body h)

theorem acts_of_honoured {h : FrameHeader} {b : FrameBody} (he : exec i s = act (onFrame h b f) s)
    (hh : s.honours h b = true) (hu : f (heard h s) = u) : acts i s u := he.trans (hu ▸ act_honoured f hh)

/-- Every host command goes through the port, under its code. -/
theorem exec_hostCode (h : hostCode i = some c) : ∃ body, ∀ s, exec i s = hostAny c body s := by
  cases i <;> cases h <;> exact ⟨_, fun _ => rfl⟩

/-- Every host command but the three taken before Setup is judged for Setup and role first. -/
theorem exec_hostRoles (h : hostCode i = some c) (hb : beforeSetup i = false) :
    ∃ body, ∀ s, exec i s = host c (hostRoles i) body s := by
  cases i <;> cases h <;> cases hb <;> exact ⟨_, fun _ => rfl⟩

end Taken

/-! ### A step on an empty queue -/

section EmptyQueue

variable {s : State}

theorem tickClock_frame (c : Clock) :
    (tickClock c).quality = c.quality ∧ (tickClock c).ageStart = c.ageStart ∧ (tickClock c).rolloverDay = c.rolloverDay
      ∧ (tickClock c).elapsed = (nextElapsed c).1 := by
  unfold tickClock
  dsimp only
  (repeat' split) <;> exact ⟨rfl, rfl, rfl, rfl⟩

theorem nextElapsed_of_lt {c : Clock} (h : c.elapsed < 2 ^ 48 - 1) : (nextElapsed c).1 = c.elapsed + 1 := by
  rw [nextElapsed, if_pos h]

theorem tickClock_zone (c : Clock) :
    (tickClock c).zone = c.zone.map fun z => if z < zoneMax then z + 1 else z := by
  unfold tickClock
  cases hz : c.zone with
  | none => simp
  | some z =>
    dsimp only
    split <;> simp [*]

theorem tick_eq (s : State) :
    tick s =
      { s with
        clock := tickClock s.clock
        power := if (tickClock s.clock).elapsed % 64 = 0 then samplePins s.power else s.power } := rfl

theorem step_idle (h : s.pending = []) : step s = idleStep s := by rw [step, h]

theorem idleStep_high (h : s.port.resetHigh = true) (hr : s.faults.restartBy = none) :
    idleStep s =
      match s.link.waiting with
      | some r => handOver r s
      | none =>
        match s.nextDue with
        | some i => exec i s
        | none => .next (tick s) :=
  (if_pos h).trans (if_neg (by simp [hr]))

theorem carriedFrame_frameCommand (h : FrameHeader) (ms : Nat) (body : FrameBody) :
    carriedFrame (frameCommand h ms body) = some (h, body) := by
  cases body <;> rfl

theorem handOver_eq (r : Received) (s : State) :
    ∃ t, exec (receivedCommand s r) (beginHanding s) = .next t ∧ handOver r s = .next (endHanding t) := by
  obtain ⟨t, ht⟩ := exec_next (receivedCommand s r) (beginHanding s)
  exact ⟨t, ht, by rw [handOver, ht]⟩

end EmptyQueue

/-- Settles O2: the order of the rows is that of `nextDue`, of which the laws say that it is due, first and lowest. -/
theorem emptyQueueStep : Obligations.EmptyQueueStep := by
  refine ⟨fun s hq => ⟨fun hlow => ?low, fun hhigh => ⟨fun hr => ?restart, fun hr => ⟨fun r hw => ?waiting, fun hw =>
    ⟨fun i hi => ?row, fun hn => ?tick⟩⟩⟩⟩, fun c => ?clock, fun r s => ?handing, fun s i hi => ?due, fun s hn => nextDue_none hn⟩
  case low => rw [step_idle hq, idleStep, if_neg (by simp [hlow])]
  case restart => rw [step_idle hq, idleStep, if_pos hhigh, if_pos hr]
  case waiting => rw [step_idle hq, idleStep_high hhigh hr, hw]
  case row => rw [step_idle hq, idleStep_high hhigh hr, hw, hi]
  case tick => rw [step_idle hq, idleStep_high hhigh hr, hw, hn, tick_eq]
  case clock =>
    obtain ⟨hquality, hage, hday, helapsed⟩ := tickClock_frame c
    refine ⟨hquality, hage, hday, fun hlt => helapsed.trans (nextElapsed_of_lt hlt), fun hz => ?_, fun z hz hlt => ?_,
      fun z hz hge => ?_⟩
    · rw [tickClock_zone, hz, Option.map_none]
    · rw [tickClock_zone, hz, Option.map_some, if_pos hlt]
    · rw [tickClock_zone, hz, Option.map_some, if_neg (Nat.not_lt.2 hge)]
  case handing =>
    obtain ⟨t, hexec, hover⟩ := handOver_eq r s
    refine ⟨_, t, fun st hst => ?_, fun h body hb => ?_, hexec, hover⟩
    · rw [receivedCommand, hst]
    · rw [receivedCommand, hb]
      exact ⟨carriedFrame_frameCommand h _ body, fun a ha => by rw [ha]; rfl⟩
  case due => exact ⟨nextDue_due hi, fun j => nextDue_first hi, nextDue_lowest hi⟩

/-! ### The values after reset, and the resets -/

/-- Settles O3. -/
theorem resetValues : Obligations.ResetValues := by
  refine ⟨⟨rfl, rfl, rfl, rfl⟩, ⟨rfl, rfl, rfl, rfl, rfl⟩, ⟨rfl, rfl, rfl, rfl⟩, ⟨rfl, rfl, rfl, rfl, rfl⟩, ⟨rfl, rfl⟩,
    ⟨rfl, rfl, rfl, rfl, rfl⟩, ⟨rfl, rfl, rfl, rfl, rfl, rfl, rfl, rfl⟩, ⟨rfl, rfl, rfl, rfl⟩, ⟨rfl, rfl, rfl⟩,
    ⟨rfl, fun g hg => ?_⟩, ⟨rfl, rfl, rfl, rfl, rfl, rfl, rfl, rfl, rfl, rfl⟩, ⟨rfl, rfl, rfl, rfl, rfl, rfl, rfl, rfl⟩, rfl⟩
  rw [List.eq_of_mem_replicate hg]
  exact ⟨rfl, rfl⟩

theorem reset_clockInv : ClockInv State.reset.clock := ⟨by decide, rfl, rfl, nofun, nofun⟩

theorem reset_saleInv : SaleInv State.reset := ⟨rfl, rfl, nofun, nofun, nofun, nofun, by decide, nofun, nofun⟩

theorem reset_sectionsInv : SectionsInv State.reset.permits.sections := by
  intro p hp
  rw [List.eq_of_mem_replicate hp]
  exact recordsInv_nil

theorem reset_boundsInv : BoundsInv State.reset where
  tx := by decide
  events := ⟨by decide, nofun⟩
  supply := by decide
  journal := ⟨by decide, rfl⟩
  log := by decide
  sheet := by decide
  peers := rfl
  want := by decide
  faults := ⟨by decide, .nil⟩
  usage := by decide
  sections := reset_sectionsInv
  draft := nofun
  spans := rfl

/-- Settles O4. -/
theorem resetMeetsInvariants : Obligations.ResetMeetsInvariants := ⟨reset_clockInv, reset_saleInv, reset_boundsInv⟩

section Resets

variable {s : State}

theorem visited_eq (c : RoundCtx) :
    RoundCtx.afterReset c = { c with state := if c.state = .visited then .opened else c.state, visitStart := none } := by
  simp [RoundCtx.afterReset]

theorem resetPart_afterReset (kind : ResetKind) (s : State) : afterReset (resetCause kind s) s (resetPart kind s) where
  clock := rfl
  link := rfl
  repl := rfl
  tariff := rfl
  sales := rfl
  permits := rfl
  cash := rfl
  rounds := by simp [resetPart, Rounds.afterReset, visited_eq]
  faults := rfl
  sense := rfl
  power := rfl
  port := rfl
  queue := rfl

/-- The level of RESET_N is the one thing that a reset leaves to the pin. -/
theorem afterReset_setResetHigh {cause : ResetCause} {t : State} (h : afterReset cause s t) (level : Bool) :
    afterReset cause s { t with port := { t.port with resetHigh := level } } :=
  { h with port := by dsimp only; rw [h.port] }

/-- After a reset the station is not set up and has no peers, so that nothing is left to put in order. -/
theorem settle_resetPart (kind : ResetKind) (s : State) : settle (resetPart kind s) = resetPart kind s := by
  have hreports : placeReports (resetPart kind s) = resetPart kind s := by
    unfold placeReports
    split
    · simp [State.mayReport, State.inExchange, resetPart, Clock.afterReset]
    · rfl
  rw [settle, hreports]
  rfl

end Resets

/-- Settles O10. -/
theorem resetsKeepNonvolatile : Obligations.ResetsKeepNonvolatile := by
  refine fun s => ⟨⟨_, rfl, resetPart_afterReset .powerOn s, rfl⟩, fun hhigh hr =>
    ⟨resetPart .remoteRestart s, ?_, resetPart_afterReset .remoteRestart s, hhigh⟩⟩
  rw [exec_remoteRestart, act_high _ hhigh, if_pos hr, settle_resetPart]

/-- Settles O11: a held part answers to no command but a reset from outside, and its reset is made at the rise. -/
theorem resetNPin : Obligations.ResetNPin := by
  refine fun s => ⟨rfl, fun hlow =>
    ⟨{ resetPart .resetN s with port := { (resetPart .resetN s).port with resetHigh := true } }, ?rise, ?reset, rfl⟩, fun hhigh => ?high, fun hlow i hpower hreset => ?held⟩
  case rise => simp only [exec, execResetN, hlow, if_true, Bool.false_eq_true, if_false, setPort]
  case reset => exact afterReset_setResetHigh (resetPart_afterReset .resetN s) true
  case high => simp only [exec, execResetN, hhigh, if_true]
  case held =>
    obtain ⟨f, hf⟩ := exec_eq_act hpower hreset
    exact (hf s).trans (act_low f hlow)

end Sys2Proof.Machine

/-! The host port: transfers, the order of Setup and role, Setup itself, and the commands of Section 11. -/

namespace Sys2Proof.Machine

section Transfers

variable {s : State}

/-- Without a REST whose response is unread, the read of a response has no effect beside (R177). -/
theorem restEffect_of_none (h : s.power.restTaken = false) : restEffect s = s := by
  obtain ⟨clock, link, repl, tariff, sales, permits, cash, rounds, faults, sense, power, port, pending⟩ := s
  obtain ⟨⟩ := power
  cases h
  rfl

theorem readOut_none (whole : Bool) (h : s.port.buffer = none) :
    readOut whole s = { s with port := { s.port with sdo := some (.whole noResponseBytes) } } := by
  rw [readOut, h, setPort]

theorem readOut_part {r : Response} (h : s.port.buffer = some r) :
    readOut false s = { s with port := { s.port with sdo := some (.part (responseFrame r)) } } := by
  simp [readOut, h, setPort]

theorem readOut_whole {r : Response} (h : s.port.buffer = some r) :
    readOut true s =
      restEffect { s with port := { s.port with buffer := none, sdo := some (.whole (responseFrame r)) } } := by
  simp [readOut, h, setPort]

theorem onWrite_busy (f : State → State) (h : s.portBusy = true) :
    onWrite f s = { s with port := { s.port with overrunSeen := true } } := if_pos h

theorem onWrite_free (f : State → State) (h : s.portBusy = false) : onWrite f s = f s :=
  if_neg (by simp [h])

end Transfers

/-! ### The bytes of a transfer (R194) -/

section Bytes

theorem byteSum_cons (b : Byte) (bs : List Byte) : byteSum (b :: bs) = b + byteSum bs := by
  have hstart : ∀ (l : List Byte) (x : Byte), l.foldl (· + ·) x = x + l.foldl (· + ·) 0#8 := by
    intro l
    induction l with
    | nil => simp
    | cons y ys ih =>
      intro x
      rw [List.foldl_cons, ih, List.foldl_cons, ih (0#8 + y), BitVec.zero_add, BitVec.add_assoc]
  rw [byteSum, List.foldl_cons, hstart, BitVec.zero_add, byteSum]

/-- The sum of bytes as a byte is their sum modulo 256. -/
theorem byteSum_toNat (bs : List Byte) : (byteSum bs).toNat = (bs.map (·.toNat)).sum % 256 := by
  induction bs with
  | nil => rfl
  | cons b bs ih =>
    rw [byteSum_cons, BitVec.toNat_add, ih, List.map_cons, List.sum_cons]
    omega

theorem checkByte_sum (bs : List Byte) : ((bs ++ [checkByte bs]).map (·.toNat)).sum % 256 = 0 := by
  have hsum := byteSum_toNat bs
  have hcheck : (checkByte bs).toNat = (256 - (byteSum bs).toNat) % 256 := by
    rw [checkByte, BitVec.toNat_sub]
    simp
  rw [List.map_append, List.sum_append, List.map_singleton, List.sum_singleton, hcheck, hsum]
  omega

theorem statusCode_iff (n : Nat) (x : Status) : statusCode x = n ↔
    [Status.ok, .notSetUp, .alreadySetUp, .badFrame, .badParameter, .roleRefused, .clockUnset, .noTariff, .noStayNow,
      .nothingToSell, .notEnough, .noSale, .saleOpen, .cashBlocked, .boxFull, .coinsNotAllowed, .paymentPresent,
      .journalFull, .allowanceExhausted, .allowanceUnavailable, .invalidTariff, .sectionClosed, .sectionFull,
      .revokedFinal, .notFound, .tableFull, .roundNone, .eventsPending, .assetTagSet][n]? = some x := by
  constructor
  · rintro rfl
    cases x <;> rfl
  · intro h
    obtain ⟨hn, hx⟩ := List.getElem?_eq_some_iff.1 h
    simp only [List.length_cons, List.length_nil] at hn
    interval_cases n <;> cases hx <;> rfl

end Bytes

/-- Settles O13: each transfer by what it finds in the buffer; a frame's bytes by the check byte that closes it. -/
theorem readsAndOverruns : Obligations.ReadsAndOverruns := by
  refine ⟨fun s hh => ⟨fun whole hb => acts_of_act rfl hh (readOut_none whole hb), fun r hb hrest => ?whole,
    fun r hb => acts_of_act rfl hh (readOut_part hb)⟩,
    fun s hh hbusy => ⟨fun i c hc => ?host, fun bytes hread hsound => ?bad, fun code hcode => ?undef, ?overrun⟩,
    fun r body hbody => ⟨by rw [hbody]; rfl, ?sum⟩, by decide, statusCode_iff, fun p v u => ⟨?untagged, fun tag => ?tagged⟩⟩
  case whole =>
    refine acts_of_act rfl hh ((readOut_whole hb).trans (restEffect_of_none ?_))
    exact hrest
  case host =>
    obtain ⟨body, hbody⟩ := exec_hostCode hc
    exact (hbody s).trans (hostAny_busy c body hh hbusy)
  case bad =>
    refine acts_of_act (exec_badFrameWrite s bytes) hh ?_
    rw [if_neg (by simp [hread, hsound]), onWrite_busy _ hbusy]
  case undef =>
    refine acts_of_act (exec_undefinedCommandCode s code) hh ?_
    rw [if_neg (by simp [hcode]), onWrite_busy _ hbusy]
  case overrun => exact acts_of_act (exec_overrunWrite s) hh (if_pos hbusy)
  case sum => exact checkByte_sum _
  case untagged => rfl
  case tagged => rfl

section Sound

theorem isRead_iff (bytes : List Byte) : isRead bytes = true ↔ ∃ rest, bytes = 0x5A#8 :: rest := by
  cases bytes <;> simp [isRead]

theorem byteSum_zero_iff (bs : List Byte) : byteSum bs = 0#8 ↔ (bs.map (·.toNat)).sum % 256 = 0 := by
  rw [← byteSum_toNat, BitVec.toNat_eq]
  rfl

theorem writeSound_cons (b : Byte) (rest : List Byte) :
    writeSound (b :: rest) = true ↔
      b = 0xA5#8 ∧ fieldAt rest 1 2 ≤ 1024 ∧ rest.length = 4 + fieldAt rest 1 2 ∧ (rest.map (·.toNat)).sum % 256 = 0 := by
  have hlen : rest.length + 1 = 5 + fieldAt rest 1 2 ↔ rest.length = 4 + fieldAt rest 1 2 := by omega
  simp [writeSound, fieldAt_skip, ← byteSum_zero_iff, hlen, and_assoc]

theorem writeSound_iff (bytes : List Byte) : writeSound bytes = true ↔
    ∃ rest, bytes = 0xA5#8 :: rest ∧ fieldAt rest 1 2 ≤ 1024 ∧ rest.length = 4 + fieldAt rest 1 2
      ∧ (rest.map (·.toNat)).sum % 256 = 0 := by
  cases bytes with
  | nil => simp [writeSound]
  | cons b rest => simp [writeSound_cons]

end Sound

/-- Settles O14. -/
theorem unsoundWritesAnswered : Obligations.UnsoundWritesAnswered := by
  refine ⟨fun s h => ⟨fun bytes hread hsound => ?bad, fun code hcode => ?undef⟩,
    fun bytes => ⟨isRead_iff bytes, writeSound_iff bytes⟩⟩
  case bad =>
    refine acts_of_act (exec_badFrameWrite s bytes) (takesRequest_high h) ?_
    rw [if_neg (by simp [hread, hsound]), onWrite_free _ (takesRequest_free h)]
    rfl
  case undef =>
    have hdefined : codeDefined code = false := by
      simp [codeDefined]
      omega
    refine acts_of_act (exec_undefinedCommandCode s code) (takesRequest_high h) ?_
    rw [if_neg (by simp [hdefined]), onWrite_free _ (takesRequest_free h)]
    rfl

/-! ### Setup first, role second (R187, Table 12.8) -/

section Roles

variable {i : Instr} {c : Nat} {s : State}

theorem isRole_iff (s : State) (q : Role) : s.isRole q = true ↔ ∃ r, s.port.setup = some r ∧ r.role = q := by
  simp [State.isRole]

theorem clearRole_iff (owner : Nat) (s : State) :
    clearRole owner s = true ↔ owner = s.own ∨ owner < 1 ∨ 32 < owner ∨ s.isRole .engineer = true := by
  simp only [clearRole, stationOk, Bool.or_eq_true, Bool.not_eq_true', Bool.and_eq_false_iff, beq_iff_eq,
    decide_eq_false_iff_not, Nat.not_le, or_assoc]

theorem machineOnly_iff (s : State) :
    machineOnly s = true ↔ s.isRole .fixed = true ∨ s.isRole .gateway = true := by
  simp [machineOnly, State.isMachine]

theorem pagerRole_iff (s : State) :
    pagerRole s = true ↔ s.isRole .engineer = true ∨ s.isRole .collector = true := by simp [pagerRole]

theorem beforeSetup_iff (i : Instr) :
    beforeSetup i = true ↔ hostCode i = some 1 ∨ hostCode i = some 2 ∨ hostCode i = some 3 := by
  cases i <;> simp [beforeSetup, hostCode]

/-- Table 12.8's role column. -/
theorem hostRoles_iff (hc : hostCode i = some c) :
    hostRoles i s = true ↔
      (c ∈ [10, 11, 12, 13, 14, 24, 25, 26, 27, 28, 39] → s.isRole .gateway = true)
        ∧ (16 ≤ c → c ≤ 22 → s.isRole .fixed = true ∨ s.isRole .gateway = true)
        ∧ (33 ≤ c → c ≤ 36 → s.isRole .collector = true)
        ∧ (c = 42 → s.isRole .engineer = true)
        ∧ (c = 43 → s.isRole .engineer = true ∨ s.isRole .collector = true)
        ∧ ∀ owner kind subject, i = .clearFault owner kind subject →
            owner = s.own ∨ owner < 1 ∨ 32 < owner ∨ s.isRole .engineer = true := by
  cases i with
  | clearFault owner kind subject =>
    cases hc
    simp [hostRoles, clearRole_iff]
  | _ =>
    cases hc <;> simp [hostRoles, anyRole, gatewayOnly, collectorOnly, engineerOnly, machineOnly_iff, pagerRole_iff]

end Roles

/-- Settles O15: every host command but the first three goes through `host`, which judges Setup, then the role. -/
theorem setupAndRoleFirst : Obligations.SetupAndRoleFirst := by
  refine ⟨fun i c s hc hb h => ⟨fun hs => ?notSetUp, fun hs hr => ?role⟩, fun i => by cases i <;> rfl, beforeSetup_iff,
    fun i c s hc => hostRoles_iff hc, isRole_iff⟩
  case notSetUp =>
    obtain ⟨body, hbody⟩ := exec_hostRoles hc hb
    exact (hbody s).trans (host_notSetUp c _ body h hs)
  case role =>
    obtain ⟨body, hbody⟩ := exec_hostRoles hc hb
    exact (hbody s).trans (host_roleRefused c body h hs hr)

/-- Settles O17. -/
theorem identityStatusEventsAndTag : Obligations.IdentityStatusEventsAndTag := by
  refine ⟨fun s h => ⟨answers_of_hostAny rfl h rfl, answers_of_hostAny rfl h rfl⟩,
    fun s h => ⟨fun he => answers_of_host rfl h ?none, fun e rest he => answers_of_host rfl h ?event,
      fun tag ht => answers_of_host rfl h ?badTag,
      fun tag ht => ⟨fun hset => answers_of_host rfl h ?tagSet, fun hset => answers_of_host rfl h ?tag⟩⟩,
    fun tag => ?tagOk⟩
  case none => rw [readEventBody, he, refuse]
  case event => simp [readEventBody, he, okay, setPort]
  case badTag => simp [setAssetTagBody, ht, refuse]
  case tagSet => simp [setAssetTagBody, ht, hset, refuse]
  case tag => simp [setAssetTagBody, ht, hset, okay, setPort]
  case tagOk => simp [assetTagOk, and_assoc]

end Sys2Proof.Machine

/-! SETUP: the record it gives, the discards of a changed home, and how the units take its completion (R187, R188). -/

namespace Sys2Proof.Machine

section SetupDone

variable {s u : State} {r : SetupRecord} {p : SetupParams}

theorem own_of_setup (h : s.port.setup = some r) : s.own = r.station := by simp [State.own, h]

theorem isRole_of_setup (h : s.port.setup = some r) (q : Role) : s.isRole q = (r.role == q) := by
  simp [State.isRole, h]

theorem isMachine_of_setup (h : s.port.setup = some r) :
    s.isMachine = (r.role == .fixed || r.role == .gateway) := by
  simp [State.isMachine, isRole_of_setup h]

theorem setupRecord_iff : setupRecord p = some r ↔
    (1 ≤ p.zone ∧ p.zone ≤ 4095 ∧ 1 ≤ p.station ∧ p.station ≤ 32 ∧ p.denomCount ≤ 8
        ∧ p.denoms.length = p.denomCount ∧ (∀ v ∈ p.denoms, 1 ≤ v ∧ v ≤ 65535)
        ∧ 100 ≤ p.capacity ∧ p.capacity ≤ 4000 ∧ p.sense.length = 4
        ∧ ∀ g ∈ p.sense, g.input ≤ 2 ∧ 1 ≤ g.period ∧ g.period ≤ 255 ∧ 1 ≤ g.debounce ∧ g.debounce ≤ 15)
      ∧ ∃ role, p.role = some role
          ∧ r =
              { zone := p.zone, station := p.station, role := role, denoms := p.denoms, capacity := p.capacity
                sense := p.sense } := by
  unfold setupRecord
  cases p.role with
  | none => simp
  | some role => simp [stationOk, senseSettingsOk, and_assoc, @eq_comm _ r]

theorem completeSetup_of_setup (h : s.port.setup = some r) :
    completeSetup s =
      roundSetup (cashSetup (permitSetup (raiseMissing (updateIntake (judgeWant none
        { s with sense := { s.sense with
          groups := r.sense.map fun g =>
            { settings := some g, settled := if g.enable then .unsettled else .disabled, runLevel := false
              runCount := 0, changes := 0, lastSample := s.clock.elapsed } } }))))) := by
  rw [completeSetup, senseSetup, h]
  rfl

/-- The discards of a changed home and the new Setup record are one state, whichever is written first. -/
theorem changeHome_setup (r : SetupRecord) (s : State) :
    setPort { (changeHome (r.zone, r.station) s).port with setup := some r } (changeHome (r.zone, r.station) s) =
      noteIf (s.permits.ownCtr ≠ 0)
        { s with
          tariff := { s.tariff with active := none, pending := none }
          permits := { s.permits with
            sections := List.replicate 8 PermitSection.never
            usage := removeContribs s.own (fun _ => true) s.permits.usage
            ownCtr := 0, ownDay := s.clock.rolloverDay }
          faults := { s.faults with table := s.faults.table.filter (·.owner != s.own) }
          port := { s.port with home := some (r.zone, r.station), setup := some r } } := by
  by_cases hctr : s.permits.ownCtr ≠ 0
  · simp only [changeHome, noteIf, if_pos hctr]
    rfl
  · simp only [changeHome, noteIf, if_neg hctr]
    rfl

theorem carryOutSetup_sameHome (h : s.port.home = some (r.zone, r.station)) :
    carryOutSetup r s = completeSetup { s with port := { s.port with setup := some r } } := by
  simp only [carryOutSetup, if_pos h]
  rfl

theorem carryOutSetup_otherHome (h : s.port.home ≠ some (r.zone, r.station)) :
    carryOutSetup r s =
      completeSetup
        (noteIf (s.permits.ownCtr ≠ 0)
          { s with
            tariff := { s.tariff with active := none, pending := none }
            permits := { s.permits with
              sections := List.replicate 8 PermitSection.never
              usage := removeContribs s.own (fun _ => true) s.permits.usage
              ownCtr := 0, ownDay := s.clock.rolloverDay }
            faults := { s.faults with table := s.faults.table.filter (·.owner != s.own) }
            port := { s.port with home := some (r.zone, r.station), setup := some r } }) := by
  rw [← changeHome_setup]
  simp only [carryOutSetup, if_neg h]

theorem setupBody_taken (hs : s.setupDone = false) (hr : setupRecord p = some r) :
    setupBody p s = (.ok, .setup (s.port.home != some (r.zone, r.station)) s.port.home, carryOutSetup r s) := by
  simp [setupBody, hs, hr, okay]

theorem permitSetup_interrupted (h : s.permits.ownDay < s.clock.rolloverDay) :
    permitSetup s =
      clearStale (judgeSections
        (noteIf (s.permits.ownCtr ≠ 0)
          { s with permits := { s.permits with
            usage := s.permits.usage.filter (fun e => s.clock.rolloverDay ≤ e.day)
            ownCtr := 0, ownDay := s.clock.rolloverDay
            lostDay := s.permits.lostDay.filter (fun x => s.clock.rolloverDay ≤ x) } })) := by
  rw [permitSetup, if_pos h, rolloverUsage]

theorem cashSetup_mixed {o : OpenSeg} {vs : List Nat} (ho : s.cash.openSeg = some o) (hv : s.cash.values = some vs)
    (hne : vs ≠ s.denoms) :
    cashSetup s =
      raiseBoxFull (decide (s.capacity ≤ s.cash.coinTotal)) { s with cash := { s.cash with mixed := true } } := by
  simp only [cashSetup, ho, hv, beq_iff_eq, if_neg hne]
  rfl

theorem cashSetup_unmixed (h : s.cash.openSeg = none ∨ s.cash.values = none ∨ s.cash.values = some s.denoms) :
    cashSetup s = raiseBoxFull (decide (s.capacity ≤ s.cash.coinTotal)) s := by
  unfold cashSetup
  obtain ho | hv | hv := h
  · simp only [ho]
  · cases ho : s.cash.openSeg <;> simp only [hv]
  · cases ho : s.cash.openSeg <;> simp only [hv, beq_self_eq_true, if_true]

theorem contextUnfit_iff (h : s.port.setup = some r) : contextUnfit s = true ↔
    (s.isMachine = true
        ∧ (s.rounds.ctx.collector = some r.station
            ∨ (s.rounds.ctx.state = .idle ∧ (s.rounds.ctx.round ≠ 0 ∨ s.rounds.ctx.collector ≠ none))))
      ∨ (r.role = .collector ∧ s.rounds.ctx.collector ≠ some r.station) ∨ r.role = .engineer := by
  rw [isMachine_of_setup h]
  cases hr : r.role <;> simp [contextUnfit, h, hr, own_of_setup h, Option.isSome_iff_ne_none]

theorem roundSetup_eq (hu : u =
    { s with rounds := { s.rounds with
      ctx := if contextUnfit s then RoundCtx.idle else s.rounds.ctx
      log := s.rounds.log.map fun x => { x with due := true } } }) :
    roundSetup s = if u.isMachine && u.groupKnown 0 && u.groupKnown 1 then judgeRemoved u else u := by
  have hmarked : markAllDue (if contextUnfit s then setCtx RoundCtx.idle s else s) = u := by
    rw [hu]
    split <;> rfl
  rw [roundSetup, hmarked]

end SetupDone

/-- Settles O16. -/
theorem setupTaken : Obligations.SetupTaken := by
  refine ⟨fun p s h => ⟨fun hs => answers_of_hostAny rfl h ?done, fun hs => ⟨fun hr => answers_of_hostAny rfl h ?range,
      fun r hr => ⟨fun hh => answers_of_hostAny rfl h ?same, fun hh => answers_of_hostAny rfl h ?other⟩⟩⟩,
    fun s => by simp, fun r s hs => completeSetup_of_setup hs,
    fun s => ⟨fun hm ha => ?missing, fun hm => ?present, fun hlt => permitSetup_interrupted hlt, fun hle => ?whole,
      fun hb => if_pos hb, fun hb => if_neg (by simp [hb])⟩,
    fun s u hmixed hsame => ?cash, fun p r => setupRecord_iff,
    fun r s u hs => ⟨contextUnfit_iff hs, fun hu => ⟨fun hm h0 h1 => ?judged, fun hn => ?unjudged⟩⟩⟩
  case done => rw [setupBody, if_pos hs, refuse]
  case range => simp [setupBody, hs, hr, refuse]
  case same => rw [setupBody_taken hs hr, carryOutSetup_sameHome hh, hh, bne_self_eq_false]
  case other => rw [setupBody_taken hs hr, carryOutSetup_otherHome hh, bne_iff_ne.2 hh]
  case missing => simp [raiseMissing, hm, ha]
  case present =>
    obtain hm | ha := hm
    · simp [raiseMissing, hm]
    · exact if_neg (by simp [Option.isNone_eq_false_iff.2 ha])
  case whole => rw [permitSetup, if_neg (Nat.not_lt.2 hle)]
  case cash =>
    by_cases hsame' : s.cash.openSeg = none ∨ s.cash.values = none ∨ s.cash.values = some s.denoms
    · rw [cashSetup_unmixed hsame', hsame hsame']
    · obtain ⟨ho, hv, hne⟩ : _ ∧ _ ∧ _ := by simpa only [not_or] using hsame'
      obtain ⟨o, ho⟩ := Option.ne_none_iff_exists'.1 ho
      obtain ⟨vs, hv⟩ := Option.ne_none_iff_exists'.1 hv
      have hvs : vs ≠ s.denoms := fun he => hne (hv.trans (congrArg some he))
      rw [cashSetup_mixed ho hv hvs, hmixed o vs ho hv hvs]
  case judged =>
    rw [roundSetup_eq hu, if_pos]
    subst hu
    exact (by simp [h0, h1, hm] : (s.isMachine && s.groupKnown 0 && s.groupKnown 1) = true)
  case unjudged =>
    rw [roundSetup_eq hu, if_neg]
    subst hu
    change ¬ (s.isMachine && s.groupKnown 0 && s.groupKnown 1) = true
    obtain hm | h0 | h1 := hn <;> simp [*]

end Sys2Proof.Machine

/-! What is put in order after a command: owed reports, the receiver, medium access (R16, R17, R31, R32, R150). -/

namespace Sys2Proof.Machine

section Reports

variable {s : State}

theorem isReport_iff (p : Placer) : isReport p = true ↔ ∃ first last, p = .report first last := by
  cases p <;> simp [isReport]

theorem queued_isReport_iff (s : State) :
    s.queued isReport = false ↔ ∀ f ∈ s.link.tx, ∀ first last, f.placer ≠ .report first last := by
  simp [State.queued, List.any_eq_false, isReport_iff]

theorem mayReport_iff (s : State) :
    s.mayReport = true ↔
      s.inExchange = true ∧ s.rounds.ctx.state ≠ .idle
        ∧ (∃ c, s.rounds.ctx.collector = some c ∧ s.live c = true)
        ∧ ∀ f ∈ s.link.tx, ∀ first last, f.placer ≠ .report first last := by
  rw [← queued_isReport_iff]
  cases hc : s.rounds.ctx.collector <;> simp [State.mayReport, hc, and_assoc]

theorem firstDue_none {l : List LogRec} (h : ∀ r ∈ l, r.due = false) : firstDue l = none := by
  simpa [firstDue] using h

theorem firstDue_some {before after : List LogRec} {r : LogRec} (hb : ∀ x ∈ before, x.due = false) (hr : r.due = true) :
    firstDue (before ++ r :: after) = some r := by
  have hbefore : before.find? (·.due) = none := by simpa using hb
  simp [firstDue, List.find?_append, hbefore, hr]

theorem placeReports_idle (h : s.mayReport = false ∨ ∀ r ∈ s.rounds.log, r.due = false) : placeReports s = s := by
  obtain hmay | hdue := h
  · unfold placeReports
    split <;> simp [hmay]
  · rw [placeReports, firstDue_none hdue]

theorem placeReports_owed {r : LogRec} {c : Nat} (hr : firstDue s.rounds.log = some r)
    (hc : s.rounds.ctx.collector = some c) :
    placeReports s =
      if s.mayReport && !r.held then
        if s.canPlace then place (.report r.data.firstSeg r.data.lastSeg) c (.collectionReport r.data) s
        else mapRecord r.data.firstSeg r.data.lastSeg (fun x => { x with held := true }) s
      else s := by
  rw [placeReports, hr, hc]

/-- What placing reports reaches: one report more in the transmit queue, or the hold of its record. -/
theorem placeReports_frame (s : State) : ∃ tx log,
    placeReports s = { s with link := { s.link with tx := tx }, rounds := { s.rounds with log := log } }
      ∧ log.map (·.data) = s.rounds.log.map (·.data) ∧ log.map (·.due) = s.rounds.log.map (·.due)
      ∧ (tx = s.link.tx
          ∨ ∃ r c, r ∈ s.rounds.log ∧ r.due = true
              ∧ tx = s.link.tx ++ [{ dest := c, body := .collectionReport r.data, attempt := 0
                                     placer := .report r.data.firstSeg r.data.lastSeg }]) := by
  unfold placeReports
  split
  next r c hr _ =>
    have hmem : r ∈ s.rounds.log := List.mem_of_find?_eq_some hr
    have hdue : r.due = true := List.find?_some hr
    split
    · split
      next hplace => exact ⟨_, _, if_pos hplace, rfl, rfl, .inr ⟨r, c, hmem, hdue, rfl⟩⟩
      · refine ⟨_, _, rfl, ?_, ?_, .inl rfl⟩ <;>
        · rw [List.map_map]
          refine List.map_congr_left fun x _ => ?_
          simp only [Function.comp_apply]
          split <;> rfl
    · exact ⟨_, _, rfl, rfl, rfl, .inl rfl⟩
  · exact ⟨_, _, rfl, rfl, rfl, .inl rfl⟩

end Reports

section Receiver

variable {s : State}

theorem receiverDue_iff (s : State) :
    s.receiverDue = true ↔
      s.setupDone = true
        ∧ (s.power.state = .awake
            ∨ (s.power.state = .listening ∧ (s.clock.zone = none ∨ s.link.heldOn = true))) := by
  cases hp : s.power.state <;> simp [State.receiverDue, hp]

theorem announcedDiffers_iff (s : State) (p : PeerEntry) :
    announcedDiffers s p = true ↔
      p.active ≠ slotKey s.tariff.active ∨ p.pending ≠ slotKey s.tariff.pending
        ∨ (∃ i, i < 8 ∧ peerSection i p ≠ s.sectionKey i) ∨ p.faultCtr ≠ (s.faultPosOf p.station).pos
        ∨ s.usagePos p.station ≠ some (p.usageDay, p.usageCtr) := by
  simp [announcedDiffers, or_assoc]

theorem holdsReceiver_iff (s : State) :
    s.holdsReceiver = true ↔
      s.repl.want ≠ [] ∨ s.repl.supply ≠ [] ∨ s.link.tx ≠ []
        ∨ (∃ p ∈ s.link.peers, p.station ∈ s.link.windowHeard ∧ announcedDiffers s p = true)
        ∨ (s.rounds.log ≠ [] ∧ ∃ p ∈ s.link.peers, p.role = .collector ∧ p.roundState = .opened)
        ∨ s.sinceCycle 28000 s.link.addressedAt = true ∨ (s.isMachine = true ∧ s.rounds.ctx.state ≠ .idle)
        ∨ s.sinceCycle 32000 s.link.changedAt = true := by
  simp [State.holdsReceiver, State.roundHeard, or_assoc]

theorem holdReceiver_held (hp : s.power.state = .listening) (hx : s.inExchange = true) (hh : s.holdsReceiver = true) :
    holdReceiver s = { s with link := { s.link with heldOn := true } } := by
  rw [holdReceiver, if_pos (by simp [hp, hx, hh])]

theorem holdReceiver_left (h : s.power.state ≠ .listening ∨ s.inExchange = false ∨ s.holdsReceiver = false) :
    holdReceiver s = s := by
  rw [holdReceiver, if_neg (by obtain h | h | h := h <;> simp [h])]

theorem refreshReceiver_on (h : s.receiverDue = true) :
    (s.link.receiver = true → refreshReceiver s = s)
      ∧ (s.link.receiver = false →
          refreshReceiver s =
            { s with link := { s.link with
              receiver := true, path := if s.link.lcd then .waitQuiet s.clock.elapsed else .idle } }) := by
  rw [refreshReceiver, if_pos h]
  exact ⟨fun hr => if_pos hr, fun hr => if_neg (by simp [hr])⟩

theorem refreshReceiver_off (h : s.receiverDue = false) :
    (∀ bytes start last, s.link.path = .collecting bytes start last → refreshReceiver s = s)
      ∧ ((∀ bytes start last, s.link.path ≠ .collecting bytes start last) →
          refreshReceiver s = { s with link := { s.link with receiver := false, path := .idle } }) := by
  rw [refreshReceiver, if_neg (by simp [h])]
  refine ⟨fun bytes start last hp => by rw [hp], fun hp => ?_⟩
  split
  next bytes start last hcol => exact absurd hcol (hp bytes start last)
  · rfl
  · rfl

theorem holdReceiver_frame (s : State) :
    ∃ heldOn, holdReceiver s = { s with link := { s.link with heldOn := heldOn } } := by
  unfold holdReceiver
  split <;> exact ⟨_, rfl⟩

theorem refreshReceiver_frame (s : State) : ∃ path receiver,
    refreshReceiver s = { s with link := { s.link with path := path, receiver := receiver } } := by
  unfold refreshReceiver
  (repeat' split) <;> exact ⟨_, _, rfl⟩

end Receiver

section Access

variable {s : State}

theorem waits_iff (a : Access) : a.waits = true ↔ a = .off ∨ a = .waitIdle := by simp [Access.waits]

theorem startAccess_begins (hx : s.inExchange = true) (hm : s.mayTransmit = true) (hl : s.link.line = none)
    (ht : s.link.tx ≠ []) (ha : s.link.access = .off ∨ s.link.access = .waitIdle) :
    startAccess s =
      { s with link := { s.link with access := if s.link.lcd then .waitIdle else .backoff s.clock.elapsed } } := by
  rw [startAccess, if_pos (by simp [hx, hm, hl, ht, (waits_iff _).2 ha])]

theorem startAccess_left (h : s.inExchange = false ∨ s.mayTransmit = false ∨ s.link.line.isSome = true ∨ s.link.tx = []
    ∨ (s.link.access ≠ .off ∧ s.link.access ≠ .waitIdle)) : startAccess s = s := by
  rw [startAccess, if_neg]
  have hwaits : s.link.access ≠ .off ∧ s.link.access ≠ .waitIdle → s.link.access.waits = false := fun ha => by
    simp [Access.waits, ha]
  obtain h | h | h | h | h := h
  · simp [h]
  · simp [h]
  · simp [Option.isNone_eq_false_iff.2 h]
  · simp [h]
  · simp [hwaits h]

theorem startAccess_frame (s : State) : ∃ access, startAccess s = { s with link := { s.link with access := access } } := by
  unfold startAccess
  split <;> exact ⟨_, rfl⟩

end Access

/-- Settles O6: each of the four things put in order is said on its own, and the reach of all four is that of each. -/
theorem putInOrderFrame : Obligations.PutInOrderFrame := by
  refine ⟨fun _ => rfl, fun s => ?frame,
    fun s => ⟨receiverDue_iff s, holdsReceiver_iff s, sinceCycle_iff s, announcedDiffers_iff s, holdReceiver_held,
      holdReceiver_left, refreshReceiver_on, refreshReceiver_off⟩,
    fun s => ⟨startAccess_begins, startAccess_left⟩,
    fun s => ⟨mayReport_iff s, placeReports_idle, fun before after r c hlog hb hr hc hmay => ?owed⟩⟩
  case frame =>
    obtain ⟨tx, log, hplaced, hdata, hdue, htx⟩ := placeReports_frame s
    obtain ⟨heldOn, hheld⟩ := holdReceiver_frame (placeReports s)
    obtain ⟨path, receiver, hrefreshed⟩ := refreshReceiver_frame (holdReceiver (placeReports s))
    obtain ⟨access, hstarted⟩ := startAccess_frame (refreshReceiver (holdReceiver (placeReports s)))
    refine ⟨tx, access, path, receiver, heldOn, log, ?_, hdata, hdue, htx⟩
    rw [settle, hstarted, hrefreshed, hheld, hplaced]
  case owed =>
    have hfirst : firstDue s.rounds.log = some r := hlog ▸ firstDue_some hb hr
    rw [placeReports_owed hfirst hc, hmay]
    refine ⟨fun hheld => by simp [hheld], fun hheld => ?_⟩
    rw [hheld]
    exact ⟨fun hp => (if_pos rfl).trans ((if_pos hp).trans (if_pos hp)), fun hp => (if_pos rfl).trans (if_neg (by simp [hp]))⟩

end Sys2Proof.Machine

/-! What the host event queue keeps of an event, and zone time: SET_TIME, the quality's age, the day rollover and the changeover
(R6, R7, R10 to R13, R178, R186). -/

namespace Sys2Proof.Machine

/-! ### Posting an event -/

section Events

variable {e : Event} {time : Option Nat} {q pre : List EventEntry} {s : State}

theorem offerEvent_room (h : q.length < 31) : offerEvent e time q = q ++ [⟨e, time⟩] := if_pos h

theorem offerEvent_last (h : q.length = 31) :
    offerEvent e time q = q ++ [⟨.queueOverrun (eventName e) 1, time⟩] := by
  rw [offerEvent, if_neg (by omega), if_pos h]

theorem offerEvent_full {name : EventName} {count : Nat} {t : Option Nat}
    (hq : q = pre ++ [⟨.queueOverrun name count, t⟩]) (hl : q.length = 32) (hc : count ≤ 65535) :
    offerEvent e time q = pre ++ [⟨.queueOverrun name (min 65535 (count + 1)), t⟩] := by
  have hcount : (if count < 65535 then count + 1 else count) = min 65535 (count + 1) := by
    split <;> omega
  rw [offerEvent, if_neg (by omega), if_neg (by omega), hq]
  simp [hcount]

theorem wakeClass_iff :
    wakeClass e = true ↔
      (∃ n c, e = .visit n c) ∨ (∃ n c, e = .paged n c)
        ∨ (∃ a n g c t v f, e = .collectionTaken a n g c t v f) ∨ (∃ c x t d p k, e = .saleAbandoned c x t d p k)
        ∨ ∃ o j f, e = .faultChanged o .tamper j .raise f := by
  cases e with
  | faultChanged o k j c f => simp [wakeClass, and_comm]
  | _ => simp [wakeClass]

theorem wakeByEvent_listening (name : EventName) {p : Power} (h : p.state = .listening) (hd : p.dormantDue = false) :
    wakeByEvent name p = { p with state := .awake, wakeCause := .event name } := by
  simp [wakeByEvent, h, hd]

theorem wakeByEvent_dormant (name : EventName) {p : Power} (h : p.state = .dormant) :
    wakeByEvent name p = { p with recorded := p.recorded.or (some name) } := by
  simp [wakeByEvent, h]

theorem wakeByEvent_stays (name : EventName) {p : Power}
    (h : p.state = .awake ∨ (p.state = .listening ∧ p.dormantDue = true)) : wakeByEvent name p = p := by
  obtain h | ⟨h, hd⟩ := h
  · simp [wakeByEvent, h]
  · simp [wakeByEvent, h, hd]

/-- The event is queued, and nothing else changes. -/
theorem postEvent_stays (h : wakeClass e = true → wakeByEvent (eventName e) s.power = s.power) :
    postEvent e s = { s with port := { s.port with events := offerEvent e s.zoneSec s.port.events } } := by
  have hp : (if wakeClass e then wakeByEvent (eventName e) s.power else s.power) = s.power := by
    split
    next hw => exact h hw
    · rfl
  rw [postEvent, hp]

theorem postEvent_wake (h : wakeClass e = true) :
    postEvent e s =
      { s with
        port := { s.port with events := offerEvent e s.zoneSec s.port.events }
        power := wakeByEvent (eventName e) s.power } := by
  rw [postEvent, if_pos h]

end Events

/-- Settles O18. -/
theorem eventQueueOverrun : Obligations.EventQueueOverrun := by
  refine ⟨fun e time q => ⟨offerEvent_room, offerEvent_last, fun _ _ _ _ => offerEvent_full⟩, fun e => wakeClass_iff,
    fun e s t ht => ?_⟩
  subst ht
  refine ⟨fun h => ?stays, fun hw hl hd => ?wakes, fun hw hd => ⟨fun hr => ?kept, fun hr => ?recorded⟩⟩
  case stays =>
    obtain h | h := h
    · exact postEvent_stays (by simp [h])
    · exact postEvent_stays fun _ => wakeByEvent_stays _ h
  case wakes => rw [postEvent_wake hw, wakeByEvent_listening _ hl hd]; rfl
  case kept =>
    refine postEvent_stays fun _ => ?_
    obtain ⟨name, hname⟩ := Option.isSome_iff_exists.1 hr
    rw [wakeByEvent_dormant _ hd, hname, Option.some_or, ← hname]
  case recorded => rw [postEvent_wake hw, wakeByEvent_dormant _ hd, hr]; rfl

/-! ### A change of zone time, with its consequences -/

section ZoneTime

variable {s : State} {new d : Nat} {p : TariffSet}

theorem makeRollover_of_later (hd : s.today = some d) (h : s.clock.rolloverDay < d) : makeRollover s = rolledOver d s := by
  rw [makeRollover, hd]
  exact if_pos h

theorem makeRollover_of_not (h : ∀ d, s.today = some d → d ≤ s.clock.rolloverDay) : makeRollover s = s := by
  unfold makeRollover
  split
  · rfl
  next d hd => exact if_neg (Nat.not_lt.2 (h d hd))

theorem rolloverDue_iff (s : State) : s.rolloverDue = true ↔ ∃ d, s.today = some d ∧ s.clock.rolloverDay < d := by
  unfold State.rolloverDue
  split <;> simp [*]

theorem changeoverDue_iff (s : State) :
    s.changeoverDue = true ↔ ∃ z t, s.zoneSec = some z ∧ s.tariff.pending = some t ∧ t.effectiveFrom ≤ z := by
  unfold State.changeoverDue
  split
  · simp [*]
  next h =>
    refine ⟨fun he => by simp at he, fun ⟨z, t, hz, ht, _⟩ => (h z t hz ht).elim⟩

theorem makeChangeover_pending (hp : s.tariff.pending = some p) : makeChangeover s = changedOver p s := by
  rw [makeChangeover, hp]
  rfl

theorem changeoverIfDue_due (hp : s.tariff.pending = some p) (h : s.changeoverDue = true) :
    changeoverIfDue s = changedOver p s := (if_pos h).trans (makeChangeover_pending hp)

theorem changeoverIfDue_not (h : s.changeoverDue = false) : changeoverIfDue s = s := if_neg (by simp [h])

theorem cycleSkipped_iff (old : Option Nat) (new : Nat) :
    cycleSkipped old new = true ↔ ∃ z, old = some z ∧ z / 32000 ≠ new / 32000 ∧ new % 32000 ≠ 0 := by
  cases old <;> simp [cycleSkipped, cyclePos]

/-- The receiver hold as R10 and R17 have it: on in a gathering window, else kept from exchange period to exchange period. -/
theorem heldAfter_eq (s : State) (new : Nat) :
    heldAfter s.clock.zone new s.link.heldOn =
      (decide (new % 32000 < 4000) || (s.inExchange && s.link.heldOn)) := by
  unfold heldAfter State.inExchange cyclePos
  cases s.clock.zone <;> by_cases h : new % 32000 < 4000 <;> simp [h]

theorem moveZone_eq (new : Nat) (s : State) :
    moveZone new s =
      { s with
        clock := { s.clock with
          zone := some new, marksGiven := if s.clock.zone = some new then s.clock.marksGiven else [] }
        link :=
          if cycleSkipped s.clock.zone new then
            { s.link with
              heldOn := decide (new % 32000 < 4000) || (s.inExchange && s.link.heldOn), windowHeard := [] }
          else
            { s.link with heldOn := decide (new % 32000 < 4000) || (s.inExchange && s.link.heldOn) } } := by
  rw [← heldAfter_eq]
  rfl

/-- The state after the step alone has the new zone time, whatever its changeover does. -/
theorem setZone_of_changeover {c : State} (hc : changeoverIfDue (moveZone new s) = c) :
    (s.clock.rolloverDay < new / 86400000 → setZone new s = rolledOver (new / 86400000) c)
      ∧ (new / 86400000 ≤ s.clock.rolloverDay → setZone new s = c) := by
  have hclock : c.clock = (moveZone new s).clock := by rw [← hc, (changeoverIfDue_keeps _).1]
  have hday : c.clock.rolloverDay = s.clock.rolloverDay := by rw [hclock]; rfl
  have htoday : c.today = some (new / 86400000) := by rw [State.today, hclock]; rfl
  rw [setZone, hc]
  refine ⟨fun h => makeRollover_of_later htoday (hday.symm ▸ h), fun h => makeRollover_of_not fun d hd => ?_⟩
  rw [htoday, Option.some.injEq] at hd
  rwa [hday, ← hd]

theorem moveZone_changeoverDue (new : Nat) (s : State) :
    (moveZone new s).changeoverDue = true ↔ ∃ p, s.tariff.pending = some p ∧ p.effectiveFrom ≤ new / 1000 := by
  rw [changeoverDue_iff]
  refine ⟨fun ⟨z, t, hz, ht, hle⟩ => ⟨t, ht, ?_⟩, fun ⟨t, ht, hle⟩ => ⟨_, t, rfl, ht, hle⟩⟩
  cases hz
  exact hle

/-- The changeover that a step of zone time brings with it, by what the PENDING set says. -/
theorem changeover_of_moved {m c : State} (hm : m = moveZone new s)
    (hdue : ∀ p, s.tariff.pending = some p → p.effectiveFrom ≤ new / 1000 → c = changedOver p m)
    (hnot : (∀ p, s.tariff.pending = some p → new / 1000 < p.effectiveFrom) → c = m) : changeoverIfDue m = c := by
  have hiff := moveZone_changeoverDue new s
  rw [← hm] at hiff
  cases hd : m.changeoverDue with
  | true =>
    obtain ⟨p, hp, hle⟩ := hiff.1 hd
    have hpending : m.tariff.pending = some p := by rw [hm]; exact hp
    rw [hdue p hp hle, changeoverIfDue_due hpending hd]
  | false =>
    refine (changeoverIfDue_not hd).trans (hnot fun p hp => Nat.lt_of_not_le fun hle => ?_).symm
    exact absurd (hiff.2 ⟨p, hp, hle⟩) (by simp [hd])

end ZoneTime

/-- Settles O19: the range is judged first; the step is the moved zone time, then its changeover, then its rollover. -/
theorem setTimeTaken : Obligations.SetTimeTaken := by
  refine ⟨fun n s h => ⟨fun hn => ?high, fun hn => ?taken⟩, fun new s m c hm hc => ?step, cycleSkipped_iff⟩
  case high => exact answers_of_host rfl h (by simp [setTimeBody, hn, refuse])
  case taken => exact answers_of_host rfl h (by simp [setTimeBody, Nat.not_lt.2 hn, okay, setQuality])
  case step =>
    have hmoved := hm.trans (moveZone_eq new s).symm
    exact setZone_of_changeover (hmoved ▸ changeover_of_moved hmoved hc.1 hc.2)

/-! ### The age of the quality, and the supply queue after a rollover -/

section AgeAndSupply

variable {s : State} {keep keep' : SupplyEntry → Bool} {q start : Nat}

theorem ageOver_iff (hq : s.clock.quality = some q) (hs : s.clock.ageStart = some start) :
    s.ageOver = true ↔ 1 ≤ q ∧ start + 21600000 ≤ s.clock.elapsed := by
  simp [State.ageOver, hq, hs, State.hasRun]

/-- A USAGE entry whose series is fixed for another day than the own one is not kept (R56). -/
def keepsUsage (day : Nat) (e : SupplyEntry) : Bool :=
  match e.item, e.series with
  | .usage, some ser => ser.start == day
  | _, _ => true

theorem keepsUsage_iff (day : Nat) (e : SupplyEntry) :
    keepsUsage day e = true ↔ (e.item = .usage → ∀ ser, e.series = some ser → ser.start = day) := by
  rcases hi : e.item <;> rcases hs : e.series <;> simp [keepsUsage, hi, hs]

theorem dropOldUsage_eq (s : State) : dropOldUsage s = keepSupply (keepsUsage s.permits.ownDay) s := rfl

theorem serve_nil (h : s.repl.supply = []) : serve s = s := by rw [serve, h]

theorem fixHead_nil (h : s.repl.supply = []) : fixHead s = s := by rw [fixHead, h]

theorem keepSupply_head (h : (s.repl.supply.filter keep).head? = s.repl.supply.head?) :
    keepSupply keep s = setSupply (s.repl.supply.filter keep) s := if_pos h

theorem keepSupply_empty (h : s.repl.supply.filter keep = []) : keepSupply keep s = setSupply [] s := by
  unfold keepSupply
  dsimp only
  rw [h]
  split
  · rfl
  · rw [fixHead_nil rfl, serve_nil rfl]

theorem keepSupply_newHead {e : SupplyEntry} {rest : List SupplyEntry} (h : s.repl.supply.filter keep = e :: rest)
    (hne : s.repl.supply.head? ≠ some e) : keepSupply keep s = serve (setSupply (s.fixEntry e :: rest) s) := by
  unfold keepSupply
  dsimp only
  rw [h]
  exact if_neg fun he => hne he.symm

theorem dropOldUsage_filter
    (hk : ∀ e, keep e = true ↔ (e.item = .usage → ∀ ser, e.series = some ser → ser.start = s.permits.ownDay)) :
    keepsUsage s.permits.ownDay = keep :=
  funext fun e => Bool.eq_iff_iff.2 ((keepsUsage_iff _ e).trans (hk e).symm)

end AgeAndSupply

/-- Settles O21. -/
theorem ageRolloverAndChangeover : Obligations.AgeRolloverAndChangeover := by
  refine ⟨fun q start s hh hq hs => ⟨fun h1 hr => ?older, fun h => ?young⟩,
    fun s hh => ⟨fun d hd hlt => ?rollover, fun h => ?noRollover, fun h => ?noChangeover, fun p hp h => ?changeover⟩,
    fun s => ⟨rolloverDue_iff s, changeoverDue_iff s⟩, fun keep s hk q hq => ?usage, fun p hp s => rfl⟩
  case older =>
    refine acts_of_act (exec_qualityAgeExpiry s) hh ?_
    simp [(ageOver_iff hq hs).2 ⟨h1, hr⟩, setQuality, hq]
  case young =>
    refine acts_of_act (exec_qualityAgeExpiry s) hh (if_neg ?_)
    rw [ageOver_iff hq hs]
    omega
  case rollover => exact acts_of_act rfl hh (makeRollover_of_later hd hlt)
  case noRollover =>
    refine acts_of_act rfl hh (makeRollover_of_not fun d hd => Nat.le_of_not_lt fun hlt => ?_)
    exact absurd ((rolloverDue_iff s).2 ⟨d, hd, hlt⟩) (by simp [h])
  case noChangeover => exact acts_of_act rfl hh (changeoverIfDue_not h)
  case changeover => exact acts_of_act rfl hh (changeoverIfDue_due hp h)
  case usage =>
    subst hq
    rw [dropOldUsage_eq, dropOldUsage_filter hk]
    exact ⟨keepSupply_head, keepSupply_empty, fun e rest => keepSupply_newHead⟩

end Sys2Proof.Machine

/-! The marks of the zone cycle, and the announce that the own slot sends (R14 to R17, R24, R153). -/

namespace Sys2Proof.Machine

/-! ### When a mark is due, and that it is given -/

section Marks

variable {s : State} {m : Mark} {f : State → State}

theorem giveMark_due (h : s.markDue m = true) : giveMark m f s = f (markGiven m s) := if_pos h

theorem giveMark_not (h : s.markDue m = false) : giveMark m f s = s := if_neg (by simp [h])

theorem markDue_iff (m : Mark) (s : State) :
    s.markDue m = true ↔
      ∃ z, s.clock.zone = some z ∧ s.setupDone = true ∧ m ∉ s.clock.marksGiven ∧ z % 32000 = markPos s.own m := by
  unfold State.markDue
  cases s.clock.zone with
  | none => simp
  | some z => simp [cyclePos, and_assoc, and_comm]

theorem markGiven_markDue (m : Mark) (s : State) : (markGiven m s).markDue m = false := by
  rw [Bool.eq_false_iff, Ne, markDue_iff]
  rintro ⟨_, _, _, hm, _⟩
  exact hm (List.mem_cons_self)

theorem markGiven_markDue_other {m' : Mark} (h : m' ≠ m) : (markGiven m s).markDue m' = s.markDue m' := by
  rw [Bool.eq_iff_iff, markDue_iff, markDue_iff]
  simp [markGiven, h, State.setupDone, State.own]

theorem heldAccess_eq (a : Access) : heldAccess a = if a = .off then .off else .held := by
  simp [heldAccess]

theorem exchangeEnd_markGiven (s : State) :
    exchangeEnd (markGiven .endOfExchange s) =
      { markGiven .endOfExchange s with link := { s.link with
        heldOn := false, access := if s.link.access = .off then .off else .held } } := by
  rw [← heldAccess_eq]
  rfl

theorem ownSlot_free (zone : Nat) (ht : s.mayTransmit = true) (hl : s.link.line = none) :
    ownSlot zone s = sendAnnounce zone s := if_pos (by simp [ht, hl])

theorem ownSlot_taken (zone : Nat) (h : s.mayTransmit = false ∨ s.link.line.isSome = true) :
    ownSlot zone s = if s.power.dormantDue then enterDormant s else s := by
  refine if_neg ?_
  obtain h | h := h
  · simp [h]
  · obtain ⟨line, hline⟩ := Option.isSome_iff_exists.1 h
    simp [hline]

theorem headOnLine_iff (l : Link) : headOnLine l = true ↔ ∃ start, l.line = some (.exchange start) := by
  unfold headOnLine
  split
  · simp [*]
  next h => exact ⟨fun he => by simp at he, fun ⟨start, hs⟩ => (h start hs).elim⟩

end Marks

/-! ### The announce and the zone due list -/

section Announce

variable {s : State} {n due : Nat} {l : List (Nat × Nat)}

theorem sendAnnounce_eq (z : Nat) (s : State) :
    sendAnnounce z s =
      { s with
        link := { s.link with
          line := some (.announce s.clock.elapsed (ownAnnounce s z))
          path := (startTransmission (.announce s.clock.elapsed (ownAnnounce s z)) s).link.path
          access := pauseAccess s.clock.elapsed s.link.access }
        rounds := { s.rounds with dueList := updateDue s.own s.dueFigure s.rounds.dueList } } := rfl

/-- The due figure with the box fill written out (R127, R135). -/
theorem dueFigure_eq (s : State) :
    s.dueFigure =
      if s.isMachine then max (min 100 (s.cash.coinTotal * 100 / s.capacity)) (journalFill s.cash) else 0 := rfl

theorem mem_insertDue (x y : Nat × Nat) (l : List (Nat × Nat)) : y ∈ insertDue x l ↔ y = x ∨ y ∈ l := by
  induction l with
  | nil => simp [insertDue]
  | cons z zs ih =>
    rw [insertDue]
    split
    · simp
    · simp only [List.mem_cons, ih]
      tauto

theorem mem_updateDue {y : Nat × Nat} :
    y ∈ updateDue n due l ↔ (75 ≤ due ∧ y = (n, due)) ∨ (y ∈ l ∧ y.1 ≠ n) := by
  unfold updateDue
  dsimp only
  split
  next h => simp [mem_insertDue, h]
  next h => simp [h]

end Announce

theorem tickClock_marks {c : Clock} {z : Nat} (hz : c.zone = some z) :
    (tickClock c).marksGiven = if z < zoneMax then [] else c.marksGiven := by
  unfold tickClock
  rw [hz]
  dsimp only
  split <;> rfl

theorem tickClock_marks_unset {c : Clock} (hz : c.zone = none) : (tickClock c).marksGiven = c.marksGiven := by
  unfold tickClock
  rw [hz]

/-- Settles O22: a mark is noted as given, and then does what R14 to R17 and R24 name for it. -/
theorem marksGiven : Obligations.MarksGiven := by
  refine ⟨fun s hh => ⟨fun h => ?endOfExchange, fun h lcd => ?cycleStart, fun h => ⟨fun ht hl => ?announce, fun hn => ?noAnnounce⟩,
    fun h lcd u hu => ?exchangeStart, fun f rest => ⟨rfl, rfl⟩, fun h => ?_, fun h lcd => ?_, fun h => ?_, fun h lcd => ?_⟩,
    fun m s => ?due, fun m s => ⟨rfl, markGiven_markDue m s, fun m' => markGiven_markDue_other⟩, fun c => ?tick,
    headOnLine_iff, fun z s => ?send, fun z r s hr => ?body, fun n due l => ?list⟩
  case endOfExchange => exact acts_of_act rfl hh ((giveMark_due h).trans (exchangeEnd_markGiven s))
  case cycleStart => exact acts_of_act rfl hh (giveMark_due h)
  case announce => exact acts_of_act rfl hh ((giveMark_due h).trans (ownSlot_free _ ht hl))
  case noAnnounce => exact acts_of_act rfl hh ((giveMark_due h).trans (ownSlot_taken _ hn))
  case exchangeStart => exact acts_of_act rfl hh ((giveMark_due h).trans (hu ▸ rfl))
  iterate 4 exact acts_of_act rfl hh (giveMark_not h)
  case due =>
    rw [markDue_iff]
    cases m <;> rfl
  case tick =>
    exact ⟨fun z hz hlt => (tickClock_marks hz).trans (if_pos hlt),
      fun z hz hle => (tickClock_marks hz).trans (if_neg (Nat.not_lt.2 hle)), tickClock_marks_unset⟩
  case send => rw [sendAnnounce_eq]; rfl
  case body =>
    simp only [ownAnnounce, hr, dueFigure_eq]
    cases s.tariff.pending <;> rfl
  case list =>
    refine ⟨fun h => mem_updateDue.2 (.inl ⟨h, rfl⟩), fun x hx hn => ?_, fun x hn => ?_, updateDue_ordered n due⟩
    · obtain ⟨h, rfl⟩ | ⟨_, hne⟩ := mem_updateDue.1 hx
      · exact ⟨h, rfl⟩
      · exact absurd hn hne
    · rw [mem_updateDue]
      refine ⟨?_, fun hx => .inr ⟨hx, hn⟩⟩
      rintro (⟨_, rfl⟩ | ⟨hx, _⟩)
      · exact absurd rfl hn
      · exact hx

end Sys2Proof.Machine

/-! The peer table and the replication unit as the host reads them, and how the supply queue takes a REQUEST and serves its head
(R30, R36, R49 to R52, R56, R58). -/

namespace Sys2Proof.Machine

/-! ### Lists kept in the order of a number -/

section ByNumber

theorem insertionSort_byNat {α : Type} (f : α → Nat) (l : List α) :
    (l.insertionSort fun a b => f a ≤ f b).Pairwise fun a b => f a ≤ f b := by
  have : Std.Total fun a b : α => f a ≤ f b := ⟨fun a b => Nat.le_total (f a) (f b)⟩
  have : IsTrans α fun a b => f a ≤ f b := ⟨fun _ _ _ => Nat.le_trans⟩
  exact List.pairwise_insertionSort _ l

theorem insertPair_eq : insertPair = List.orderedInsert fun a b : Nat × Nat => a.1 ≤ b.1 := by
  funext x l
  induction l with
  | nil => rfl
  | cons y ys ih => rw [insertPair, ih, List.orderedInsert]

theorem insertByChange_eq : insertByChange = List.orderedInsert fun a b : FaultEntry => a.change ≤ b.change := by
  funext x l
  induction l with
  | nil => rfl
  | cons y ys ih => rw [insertByChange, ih, List.orderedInsert]

variable (s : State)

theorem ownContribs_eq (day : Nat) :
    s.ownContribs day =
      (s.permits.usage.filterMap fun e =>
        if e.day == day then (contribOf s.own e).map fun m => (e.permit, m) else none).insertionSort
          fun a b => a.1 ≤ b.1 := by
  rw [State.ownContribs, insertPair_eq]
  rfl

theorem ownChanges_eq (first last : Nat) :
    s.ownChanges first last =
      (s.faults.table.filter fun e => e.owner == s.own && first ≤ e.change && e.change ≤ last).insertionSort
        fun a b => a.change ≤ b.change := by
  rw [State.ownChanges, insertByChange_eq]
  rfl

theorem mem_ownChanges (a b : Nat) (x : FaultEntry) :
    x ∈ s.ownChanges a b ↔ x ∈ s.faults.table ∧ x.owner = s.own ∧ a ≤ x.change ∧ x.change ≤ b := by
  rw [ownChanges_eq, List.mem_insertionSort, List.mem_filter]
  simp [and_assoc]

theorem ownChanges_ordered (a b : Nat) : (s.ownChanges a b).Pairwise fun x y => x.change ≤ y.change := by
  rw [ownChanges_eq]
  exact insertionSort_byNat FaultEntry.change _

theorem mem_ownContribs (day n m : Nat) :
    (n, m) ∈ s.ownContribs day ↔
      ∃ u ∈ s.permits.usage, u.permit = n ∧ u.day = day ∧ contribOf s.own u = some m := by
  rw [ownContribs_eq, List.mem_insertionSort, List.mem_filterMap]
  refine exists_congr fun u => and_congr_right fun _ => ?_
  by_cases hd : u.day = day
  · simp only [hd, beq_self_eq_true, if_true, Option.map_eq_some_iff, Prod.mk.injEq, true_and]
    exact ⟨fun ⟨_, ha, hn, hm⟩ => ⟨hn, hm ▸ ha⟩, fun ⟨hn, ha⟩ => ⟨m, ha, hn, rfl⟩⟩
  · simp [hd]

theorem ownContribs_ordered (day : Nat) : (s.ownContribs day).Pairwise fun x y => x.1 ≤ y.1 := by
  rw [ownContribs_eq]
  exact insertionSort_byNat Prod.fst _

end ByNumber

/-! ### Holdings -/

section Holdings

variable {s : State} {key : Key}

/-- The tariff slots whose key is one asked for. -/
theorem heldSet_some {t : TariffSet} (h : s.heldSet key = some t) :
    t.key = some key ∧ (s.tariff.active = some t ∨ s.tariff.pending = some t ∨ s.tariff.retired = some t) := by
  have hkey := List.find?_some h
  have hmem := List.mem_of_find?_eq_some h
  rw [List.mem_filterMap] at hmem
  obtain ⟨o, ho, hid⟩ := hmem
  simp only [id] at hid
  subst hid
  refine ⟨by simpa using hkey, ?_⟩
  simpa [eq_comm] using ho

theorem slotKey_eq_some {o : Option TariffSet} : slotKey o = some key ↔ ∃ t, o = some t ∧ t.key = some key := by
  cases o <;> simp [slotKey]

theorem heldSet_isSome :
    (s.heldSet key).isSome = true ↔
      slotKey s.tariff.active = some key ∨ slotKey s.tariff.pending = some key ∨ slotKey s.tariff.retired = some key := by
  unfold State.heldSet
  simp only [List.find?_isSome, List.mem_filterMap, slotKey_eq_some, beq_iff_eq, id, List.mem_cons, List.not_mem_nil, or_false]
  constructor
  · rintro ⟨t, ⟨o, ho | ho | ho, rfl⟩, hk⟩
    · exact .inl ⟨t, ho.symm, hk⟩
    · exact .inr (.inl ⟨t, ho.symm, hk⟩)
    · exact .inr (.inr ⟨t, ho.symm, hk⟩)
  · rintro (⟨t, ht, hk⟩ | ⟨t, ht, hk⟩ | ⟨t, ht, hk⟩)
    · exact ⟨t, ⟨_, .inl rfl, ht⟩, hk⟩
    · exact ⟨t, ⟨_, .inr (.inl rfl), ht⟩, hk⟩
    · exact ⟨t, ⟨_, .inr (.inr rfl), ht⟩, hk⟩

theorem heldImage_tariff : s.heldImage .tariff key = (s.heldSet key).map tariffImage := rfl

theorem mem_slotKeys :
    some key ∈ [slotKey s.tariff.active, slotKey s.tariff.pending, slotKey s.tariff.retired] ↔
      slotKey s.tariff.active = some key ∨ slotKey s.tariff.pending = some key ∨ slotKey s.tariff.retired = some key := by
  simp [eq_comm]

end Holdings

/-! ### The supply queue -/

section Supply

variable {s : State} {e x : SupplyEntry} {rest : List SupplyEntry} {n start : Nat} {obj : ImageObj} {key : Key}

theorem queued_isSupply_iff (s : State) : s.queued isSupply = true ↔ ∃ f ∈ s.link.tx, f.placer = .supply := by
  have hplacer : ∀ p : Placer, isSupply p = true ↔ p = .supply := fun p => by cases p <;> simp [isSupply]
  simp [State.queued, hplacer]

theorem sameRequest_iff (a b : SupplyEntry) :
    sameRequest a b = true ↔
      a.requester = b.requester
        ∧ ((∃ obj k l, a.item = .image obj k ∧ b.item = .image obj l) ∨ (∃ c d, a.item = .faults c ∧ b.item = .faults d)
          ∨ (a.item = .usage ∧ b.item = .usage)) := by
  unfold sameRequest
  rw [Bool.and_eq_true, beq_iff_eq]
  refine and_congr_right fun _ => ?_
  cases a.item <;> cases b.item <;> simp [sameObject]
  case image.image => exact eq_comm

theorem requestImage_held {img : List Byte} (h : s.heldImage obj key = some img) :
    requestImage n obj key start s =
      if start < fragmentCount img.length then enterSupply (freshSupply n (.image obj key) start) s else s := by
  rw [requestImage, h]

theorem requestImage_superseded {k : Key} (h : s.heldImage obj key = none) (hk : s.currentKey obj = some k)
    (hh : Key.higher k key = true) : requestImage n obj key start s = place .other n (.superseded obj k) s := by
  rw [requestImage, h, hk]
  exact if_pos hh

theorem requestImage_notHeld (h : s.heldImage obj key = none)
    (hk : ∀ k, s.currentKey obj = some k → Key.higher k key = false) :
    requestImage n obj key start s = place .other n (.notHeld obj key) s := by
  rw [requestImage, h]
  cases hc : s.currentKey obj with
  | none => rfl
  | some k => exact if_neg (by simp [hk k hc])

theorem enterSupply_empty (h : s.repl.supply = []) :
    enterSupply e s = serve (setSupply [{ e with series := e.series.or (s.fixedSeries e) }] s) := by
  rw [enterSupply, h]
  rfl

theorem enterSupply_new (hne : s.repl.supply ≠ []) (hnot : ∀ x ∈ s.repl.supply, sameRequest e x = false) :
    enterSupply e s = if s.repl.supply.length < 4 then setSupply (s.repl.supply ++ [e]) s else s := by
  have hany : s.repl.supply.any (sameRequest e) = false := by simpa using hnot
  simp [enterSupply, hany, hne]

theorem enterSupply_replaces (h : s.repl.supply = x :: rest) (hex : ∃ y ∈ s.repl.supply, sameRequest e y = true) :
    enterSupply e s =
      if sameRequest e x then serve (setSupply (s.repl.supply.map fun y => if sameRequest e y then e else y) s)
      else setSupply (s.repl.supply.map fun y => if sameRequest e y then e else y) s := by
  have hany : s.repl.supply.any (sameRequest e) = true := List.any_eq_true.2 hex
  rw [enterSupply, if_pos hany, replaceSupply]
  simp [h]

theorem serve_waits (h : s.repl.supply = e :: rest) (hw : e.placed = true ∨ ∃ f ∈ s.link.tx, f.placer = .supply) :
    serve s = s := by
  rw [serve, h]
  refine if_pos ?_
  rwa [Bool.or_eq_true, queued_isSupply_iff]

section Goes

variable (h : s.repl.supply = e :: rest) (hp : e.placed = false) (hq : ∀ f ∈ s.link.tx, f.placer ≠ .supply)
include h hp hq

theorem serve_goes :
    serve s =
      match s.supplyFrame (s.fixEntry e) with
      | none => setSupply (s.fixEntry e :: rest) s
      | some (body, high) =>
        if s.canPlace then
          place .supply e.requester body
            (setSupply ({ s.fixEntry e with placed := true, placedHigh := high } :: rest) s)
        else setSupply (s.fixEntry e :: rest) s := by
  have hqueued : s.queued isSupply = false := by
    rw [Bool.eq_false_iff, Ne, queued_isSupply_iff]
    exact fun ⟨f, hf, hs⟩ => hq f hf hs
  rw [serve, h]
  exact if_neg (by simp [hp, hqueued])

theorem serve_places {body : FrameBody} {high : Nat} (hf : s.supplyFrame (s.fixEntry e) = some (body, high))
    (hc : s.canPlace = true) :
    serve s =
      place .supply e.requester body (setSupply ({ s.fixEntry e with placed := true, placedHigh := high } :: rest) s) := by
  rw [serve_goes h hp hq, hf]
  exact if_pos hc

theorem serve_notPlaced (hn : s.supplyFrame (s.fixEntry e) = none ∨ s.canPlace = false) :
    serve s = setSupply (s.fixEntry e :: rest) s := by
  rw [serve_goes h hp hq]
  split
  · rfl
  next hf =>
    obtain hn | hn := hn
    · simp [hn] at hf
    · exact if_neg (by simp [hn])

end Goes

end Supply

/-- Settles O23: the reads give what the model's rows say; the rest is how the supply takes a REQUEST and serves its head. -/
theorem peerAndReplicationRead : Obligations.PeerAndReplicationRead := by
  refine ⟨fun s h => ⟨fun n hn => ?above, fun n hn => ⟨fun hp => ?noPeer, fun p hp => ?peer⟩, answers_of_host rfl h rfl⟩,
    fun n obj key start s => ⟨fun img hi => ⟨fun hle => ?past, fun hlt => ?held⟩,
      fun hi => ⟨fun k => requestImage_superseded hi, requestImage_notHeld hi⟩, fun c => rfl, rfl⟩,
    fun n next item => rfl, sameRequest_iff,
    fun e s => ⟨enterSupply_empty, fun hne hnot => ⟨fun hl => ?room, fun hl => ?full⟩, fun x rest u h hex hu =>
      ⟨fun hx => ?headReplaced, fun hx => ?replaced⟩⟩,
    fun s => ⟨serve_nil, fun e rest e1 h he => ⟨serve_waits h, fun hp hq => ⟨fun hn => ?refused, fun body high hf hc => ?placed⟩⟩⟩,
    fun e s => ⟨fun obj key hi => ?image, fun c hi => ?faults, fun hi => ?usage, mem_ownChanges s, ownChanges_ordered s,
      mem_ownContribs s, ownContribs_ordered s⟩,
    fun obj s => ⟨fun hw => ?noRow, fun e hw => ?row⟩, fun i obj key c => ⟨rfl, rfl, rfl, rfl⟩,
    fun p s => ⟨?faultsAhead, fun hu => ?noUsage, fun d u hu => ?usageAhead, fun r hr => ?age⟩,
    fun key s => ⟨fun i => ⟨rfl, ?sect⟩, fun img hi => ?slot, ?holds, fun hc => ?current, fun hs => ?highest⟩⟩
  case above => exact answers_of_host rfl h (by simp [readPeerBody, hn, refuse])
  case noPeer => exact answers_of_host rfl h (by simp [readPeerBody, Nat.not_lt.2 hn, hp, refuse])
  case peer => exact answers_of_host rfl h (by simp [readPeerBody, Nat.not_lt.2 hn, hp, okay])
  case past => exact (requestImage_held hi).trans (if_neg (Nat.not_lt.2 hle))
  case held => exact (requestImage_held hi).trans (if_pos hlt)
  case room => exact (enterSupply_new hne hnot).trans (if_pos hl)
  case full => exact (enterSupply_new hne hnot).trans (if_neg (Nat.not_lt.2 hl))
  case headReplaced => exact hu ▸ (enterSupply_replaces h hex).trans (if_pos hx)
  case replaced => exact hu ▸ (enterSupply_replaces h hex).trans (if_neg (by simp [hx]))
  case refused => subst he; exact serve_notPlaced h hp hq hn
  case placed => subst he; exact serve_places h hp hq hf hc
  case image =>
    refine ⟨by simp [State.fixedSeries, hi], fun img himg => ?_⟩
    simp [State.supplyFrame, hi, himg, fragmentCount]
  case faults =>
    refine ⟨by simp [State.fixedSeries, hi, partCount], fun ser es hser hes => ?_⟩
    simp [State.supplyFrame, hi, hser, hes, highOf]
  case usage =>
    refine ⟨by simp [State.fixedSeries, hi, partCount], fun ser es hser hes => ?_⟩
    simp [State.supplyFrame, hi, hser, hes, highOf]
  case noRow => rw [replRow, hw]
  case row => rw [replRow, hw]
  case faultsAhead => exact decide_eq_true_iff
  case noUsage => simp [usageAhead, hu]
  case usageAhead => simp [usageAhead, hu]
  case age => exact if_pos (Nat.lt_succ_of_le hr)
  case sect => simp [State.heldImage]
  case slot =>
    rw [heldImage_tariff, Option.map_eq_some_iff] at hi
    obtain ⟨t, ht, himg⟩ := hi
    obtain ⟨hk, hslot⟩ := heldSet_some ht
    exact ⟨t, hk, himg.symm, hslot⟩
  case holds => rw [heldImage_tariff, Option.isSome_map, heldSet_isSome]
  case current => exact mem_slotKeys.1 (highestKey_mem hc)
  case highest => exact highestKey_max _ _ (mem_slotKeys.2 hs)

end Sys2Proof.Machine

/-! The open sale, from SALE_OPEN to its payment, its permit, its cancellation and its expiry (R93 to R98, R102, R103, R111). -/

namespace Sys2Proof.Machine

/-! ### How a sale command is taken -/

section OnSale

variable {i : Instr} {s u : State} {r : Sale} {c : Nat} {body : Sale → State → Answer} {st : Status} {res : Result}

/-- A sale command on the open sale: its last-event time is now, whatever the judgement says (R94). -/
theorem answers_of_onSale (he : exec i s = host c machineOnly (onSale body) s) (h : s.openTo machineOnly = true)
    (hs : s.sales.sale = some r)
    (hb : body { r with lastEvent := s.clock.elapsed } (touched r s) = (st, res, u)) : answers i s c st res u :=
  answers_of_host he h (by rw [onSale, hs]; exact hb)

theorem answers_of_noSale (he : exec i s = host c machineOnly (onSale body) s) (h : s.openTo machineOnly = true)
    (hs : s.sales.sale = none) : answers i s c .noSale .nothing s :=
  answers_of_host he h (by rw [onSale, hs]; rfl)

/-- What the sale's record does not say, the commands read past it. -/
@[simp] theorem touched_reads (r : Sale) (s : State) :
    (touched r s).denoms = s.denoms ∧ (touched r s).capacity = s.capacity ∧ (touched r s).cash = s.cash
      ∧ (touched r s).cashBlocked = s.cashBlocked ∧ (touched r s).zoneSec = s.zoneSec ∧ (touched r s).today = s.today
      ∧ (∀ c, pinnedTreat (touched r s) c = pinnedTreat s c)
      ∧ (∀ d n, permitCheck (touched r s) d n = permitCheck s d n)
      ∧ (∀ k n, (touched r s).faultStands k n = s.faultStands k n) :=
  ⟨rfl, rfl, rfl, rfl, rfl, rfl, fun _ => rfl, fun _ _ => rfl, fun _ _ => rfl⟩

/-- A sale event taken: the quote is made afresh. -/
theorem taken_touched (r r' : Sale) (s : State) :
    taken { r' with lastEvent := s.clock.elapsed } (touched r s) = (.ok, .quoted (requote s r'), saleGoesOn r' s) := rfl

theorem takenPermit_touched (r r' : Sale) (s : State) (check : CheckResult) :
    takenPermit check { r' with lastEvent := s.clock.elapsed } (touched r s) =
      (.ok, .salePermit check (requote s r'), saleGoesOn r' s) := rfl

end OnSale

/-! ### The requote -/

section Requote

variable {s : State} {r : Sale} {t : TariffSet} {z m : Nat} {p : AppliedPermit}

theorem requote_nothing (h : s.pinnedSet = none ∨ s.zoneSec = none) : requote s r = .nothingToSell := by
  unfold requote
  split
  next hp hz =>
    obtain h | h := h
    · simp [h] at hp
    · simp [h] at hz
  · rfl

theorem requote_noPermit (ht : s.pinnedSet = some t) (hz : s.zoneSec = some z) (hp : r.permit = none) :
    requote s r = walk t z none (.amount r.payment) := by
  rw [requote, ht, hz]
  dsimp only
  rw [hp]

theorem requote_permit (ht : s.pinnedSet = some t) (hz : s.zoneSec = some z) (hp : r.permit = some p) :
    requote s r = requotePermit s t z r p := by
  rw [requote, ht, hz]
  dsimp only
  rw [hp]

theorem requotePermit_paid (h : p.treat.kind ≠ .allowance) :
    requotePermit s t z r p = walk t z (some p.treat) (.amount r.payment) := if_neg (by simpa using h)

theorem requotePermit_noDuration (h : p.treat.kind = .allowance) (hr : r.requested = none) :
    requotePermit s t z r p = .nothingToSell := by
  simp [requotePermit, h, hr]

theorem requotePermit_allowance (h : p.treat.kind = .allowance) (hr : r.requested = some m) :
    requotePermit s t z r p =
      if s.unavailable.isSome then .allowanceUnavailable
      else walk t z (some p.treat) (.allowance m (remaining s p z)) := by
  simp [requotePermit, h, hr]

end Requote

/-! ### SALE_OPEN, and the end of a sale -/

section OpenAndEnd

variable {s : State}

theorem endSale_eq (s : State) :
    endSale s =
      if s.tariff.retired.isSome then
        holdingsNotice
          { s with
            tariff := { s.tariff with pin := none, retired := none }
            sales := { sale := none, openMark := false } }
      else
        { s with
          tariff := { s.tariff with pin := none, retired := none }
          sales := { sale := none, openMark := false } } := rfl

theorem endSale_leaves (s : State) :
    (endSale s).sales = { sale := none, openMark := false } ∧ (endSale s).tariff = { s.tariff with pin := none, retired := none }
      ∧ (endSale s).cash = s.cash ∧ (endSale s).permits = s.permits ∧ (endSale s).rounds = s.rounds
      ∧ (endSale s).faults = s.faults ∧ (endSale s).sense = s.sense ∧ (endSale s).power = s.power
      ∧ (endSale s).port = s.port ∧ (endSale s).clock = s.clock := by
  rw [endSale_eq]
  split <;> simp

theorem saleOver_iff {start : Sale → Nat} {d : Nat} {r : Sale} (hs : s.sales.sale = some r) :
    saleOver start d s = true ↔ start r + d ≤ s.clock.elapsed := by
  simp [saleOver, hs, State.hasRun]

theorem abandonSale_open {r : Sale} (hs : s.sales.sale = some r) (cause : AbandonCause) :
    abandonSale cause s =
      endSale (postEvent (.saleAbandoned cause r.escrow r.coinTotal r.card (r.permit.map (·.number)) r.pin) s) := by
  rw [abandonSale, hs]

end OpenAndEnd

/-- Settles O30. -/
theorem saleOpened : Obligations.SaleOpened := by
  refine ⟨fun s h => ⟨fun hz => ?unset, fun hz => ⟨fun hs => ?openSale, fun hs => ⟨fun hk => ?noTariff, fun k hk =>
      ⟨fun hd => ?blocked, fun hd => ⟨_, rfl, ?opened⟩⟩⟩⟩⟩, fun s h hs => ?noSale, fun k now => rfl,
    fun s => ⟨fun hp => ?active, fun hp => ?retired⟩,
    fun r s => ⟨requote_nothing, fun t z ht hz => ⟨requote_noPermit ht hz, fun p hp => ⟨fun ha => ?paid, fun ha =>
      ⟨fun hr => ?noDuration, fun m hr => ⟨fun hu => ?unavailable, fun hu a hal => ?allowance⟩⟩⟩⟩⟩⟩
  case unset => exact answers_of_host rfl h (by simp [saleOpenBody, hz, refuse])
  case openSale => exact answers_of_host rfl h (by simp [saleOpenBody, Option.isSome_iff_ne_none.1 hz, hs, refuse])
  case noTariff => exact answers_of_host rfl h (by simp [saleOpenBody, Option.isSome_iff_ne_none.1 hz, hs, hk, refuse])
  case blocked => exact answers_of_host rfl h (by simp [saleOpenBody, Option.isSome_iff_ne_none.1 hz, hs, hk, hd, refuse])
  case opened =>
    refine answers_of_host rfl h (body := saleOpenBody) ?_
    have hbody : saleOpenBody s = openSale k s := by
      simp [saleOpenBody, Option.isSome_iff_ne_none.1 hz, hs, hk, hd]
    rw [hbody]
    rfl
  case noSale =>
    exact ⟨fun _ => answers_of_noSale rfl h hs, fun _ => answers_of_noSale rfl h hs, fun _ => answers_of_noSale rfl h hs,
      fun _ => answers_of_noSale rfl h hs, answers_of_noSale rfl h hs, answers_of_noSale rfl h hs⟩
  case active => exact if_pos (beq_iff_eq.2 hp)
  case retired => exact if_neg fun he => hp (beq_iff_eq.1 he)
  case paid => exact (requote_permit ht hz hp).trans (requotePermit_paid ha)
  case noDuration => exact (requote_permit ht hz hp).trans (requotePermit_noDuration ha hr)
  case unavailable => exact (requote_permit ht hz hp).trans ((requotePermit_allowance ha hr).trans (if_pos hu))
  case allowance =>
    subst hal
    exact (requote_permit ht hz hp).trans ((requotePermit_allowance ha hr).trans (if_neg (by simp [hu])))

/-! ### Payment -/

section Payment

variable {s : State} {r : Sale} {i v n : Nat}

theorem takesNoPayment_iff (r : Sale) :
    takesNoPayment r = true ↔ ∃ p, r.permit = some p ∧ (p.treat.kind = .exempt ∨ p.treat.kind = .allowance) := by
  unfold takesNoPayment
  cases r.permit <;> simp

theorem groupActive_iff (g : Nat) : s.groupActive g = true ↔ s.sense.groups[g]?.map (·.settled) = some .active := by
  rw [State.groupActive, beq_iff_eq]

theorem faultStands_iff (k : FaultKind) (subject : Nat) (s : State) :
    s.faultStands k subject = true ↔ ∃ e, s.ownFault k subject = some e ∧ e.state ≠ .cleared := by
  unfold State.faultStands
  cases s.ownFault k subject <;> simp

theorem cashBlocked_iff (s : State) :
    s.cashBlocked = true ↔
      s.sense.groups[0]?.map (·.settled) = some .active ∨ s.sense.groups[1]?.map (·.settled) = some .active
        ∨ ∃ e, s.ownFault .tamper 0 = some e ∧ e.state ≠ .cleared := by
  rw [State.cashBlocked, Bool.or_eq_true, Bool.or_eq_true, faultStands_iff, or_assoc]
  exact or_congr (groupActive_iff 0) (or_congr_left (groupActive_iff 1))

theorem saleCoinBody_noCoin (h : s.denoms[i]? = none) (r' : Sale) :
    saleCoinBody i r' (touched r s) = refuse .badParameter (touched r s) := by
  simp [saleCoinBody, h]

theorem saleCoinBody_coin (h : s.denoms[i]? = some v) :
    saleCoinBody i { r with lastEvent := s.clock.elapsed } (touched r s) =
      if takesNoPayment r then refuse .coinsNotAllowed (touched r s)
      else if s.cashBlocked then refuse .cashBlocked (touched r s)
      else if s.capacity < s.cash.coinTotal + r.coinTotal + 1 then
        refuse .boxFull (raiseBoxFull (!s.faultStands .boxFull 0) (touched r s))
      else if 60 ≤ r.coinTotal ∨ 65535 < r.payment + v then refuse .badParameter (touched r s)
      else
        (.ok,
          .quoted (requote s { r with
            escrow := r.escrow.modify i (· + 1), coinTotal := r.coinTotal + 1, payment := r.payment + v }),
          saleGoesOn { r with
            escrow := r.escrow.modify i (· + 1), coinTotal := r.coinTotal + 1, payment := r.payment + v } s) := by
  rw [saleCoinBody, (touched_reads r s).1, h]
  rfl

theorem saleCardBody_touched :
    saleCardBody n { r with lastEvent := s.clock.elapsed } (touched r s) =
      if n = 0 ∨ 65535 < n then refuse .badParameter (touched r s)
      else if takesNoPayment r then refuse .coinsNotAllowed (touched r s)
      else if r.card.isSome then refuse .paymentPresent (touched r s)
      else if 65535 < r.payment + n then refuse .badParameter (touched r s)
      else
        (.ok, .quoted (requote s { r with card := some n, payment := r.payment + n }),
          saleGoesOn { r with card := some n, payment := r.payment + n } s) := rfl

theorem saleDurationBody_touched :
    saleDurationBody n { r with lastEvent := s.clock.elapsed } (touched r s) =
      if !isAllowance (r.permit.map (·.treat)) || n < 1 || 1440 < n then refuse .badParameter (touched r s)
      else (.ok, .quoted (requote s { r with requested := some n }), saleGoesOn { r with requested := some n } s) := rfl

end Payment

/-- Settles O31. -/
theorem saleCoinTaken : Obligations.SaleCoinTaken := by
  refine ⟨fun i r s h hs => ⟨fun hi => ?noCoin, fun v hv => ⟨fun hp => ?noPayment, fun hp => ⟨fun hb => ?blocked, fun hb =>
      ⟨fun hc => ?boxFull, fun hc => ⟨fun hm => ?tooMuch, fun hn hm => ⟨_, rfl, ?taken⟩⟩⟩⟩⟩⟩, cashBlocked_iff, takesNoPayment_iff,
    fun k n s => ⟨rfl, faultStands_iff k n s⟩⟩
  case noCoin => exact answers_of_onSale rfl h hs (saleCoinBody_noCoin hi _)
  all_goals refine answers_of_onSale rfl h hs (body := saleCoinBody i) ((saleCoinBody_coin hv).trans ?_)
  case noPayment => exact if_pos hp
  all_goals refine (if_neg (by simp [hp])).trans ?_
  case blocked => exact if_pos hb
  all_goals refine (if_neg (by simp [hb])).trans ?_
  case boxFull => exact if_pos hc
  all_goals refine (if_neg (Nat.not_lt.2 hc)).trans ?_
  case tooMuch => exact if_pos hm
  case taken => exact if_neg (by omega)

/-- Settles O32. -/
theorem saleCardTaken : Obligations.SaleCardTaken := by
  refine fun n r s h hs => ⟨fun hn => ?range, fun h1 hn => ⟨fun hp => ?noPayment, fun hp => ⟨fun hc => ?card, fun hc =>
      ⟨fun hm => ?tooMuch, fun hm => ⟨_, rfl, ?taken⟩⟩⟩⟩⟩
  all_goals refine answers_of_onSale rfl h hs (body := saleCardBody n) (saleCardBody_touched.trans ?_)
  case range => exact if_pos hn
  all_goals refine (if_neg (by omega)).trans ?_
  case noPayment => exact if_pos hp
  all_goals refine (if_neg (by simp [hp])).trans ?_
  case card => exact if_pos hc
  all_goals refine (if_neg (by simp [hc])).trans ?_
  case tooMuch => exact if_pos hm
  case taken => exact if_neg (Nat.not_lt.2 hm)

/-- Settles O34. -/
theorem saleDurationTaken : Obligations.SaleDurationTaken := by
  refine fun n r s h hs => ⟨fun hn => ?refused, fun ha h1 hn => ?taken⟩
  all_goals refine answers_of_onSale rfl h hs (body := saleDurationBody n) (saleDurationBody_touched.trans ?_)
  case refused => exact if_pos (by simpa [or_assoc] using hn)
  case taken => exact if_neg (by simp [ha]; omega)

/-! ### Permit checks -/

section Permits

variable {s : State} {r : Sale} {d n : Nat} {c : CheckResult} {p : PermitRec}

theorem permitCheck_absent (h : findPermit n (s.sectionAt (n % 8)).records = none) :
    permitCheck s d n = (if s.isBehind (n % 8) = true then .unverified else .notFound, none) := by
  simp [permitCheck, h]

theorem permitCheck_held (h : findPermit n (s.sectionAt (n % 8)).records = some p) :
    permitCheck s d n =
      (if p.status = .revoked then .revoked
        else if p.status = .suspended then .suspended
        else if d < p.validFrom then .notYetValid
        else if p.validTo < d then .expired
        else if s.zoneNo ∉ p.zones then .wrongZone
        else if s.isBehind (n % 8) = true then .staleValid
        else .valid, some p) := by
  cases hs : p.status <;> simp [permitCheck, h, hs]

theorem permitNumberOk_iff (n : Nat) : permitNumberOk n = true ↔ 1 ≤ n ∧ n ≤ 999999 := by
  simp [permitNumberOk]

theorem checkApplies_iff (c : CheckResult) : checkApplies c = true ↔ c = .valid ∨ c = .staleValid := by
  cases c <;> simp [checkApplies]

theorem checkApplies_absent (h : permitCheck s d n = (c, none)) : checkApplies c = false := by
  cases hf : findPermit n (s.sectionAt (n % 8)).records with
  | none =>
    rw [permitCheck_absent hf, Prod.mk.injEq] at h
    rw [← h.1]
    split <;> rfl
  | some q => simp [permitCheck_held hf] at h

theorem salePermitBody_refused (r : Sale) (h : r.permit.isSome = true ∨ permitNumberOk n = false) (s : State) :
    salePermitBody n r s = refuse .badParameter s := if_pos (by simpa using h)

theorem salePermitBody_absent (r : Sale) (hp : r.permit = none) (hn : permitNumberOk n = true)
    (hc : permitCheck s ((s.today).getD 0) n = (c, none)) : salePermitBody n r s = takenPermit c r s := by
  simp [salePermitBody, hp, hn, hc]

theorem salePermitBody_held (r : Sale) (hp : r.permit = none) (hn : permitNumberOk n = true)
    (hc : permitCheck s ((s.today).getD 0) n = (c, some p)) :
    salePermitBody n r s =
      if checkApplies c then applyPermit p c (pinnedTreat s p.cls) r s else takenPermit c r s := by
  simp [salePermitBody, hp, hn, hc]

theorem applyPermit_touched (p : PermitRec) (c : CheckResult) (e : ClassEntry) :
    applyPermit p c e { r with lastEvent := s.clock.elapsed } (touched r s) =
      if (e.kind == .exempt || e.kind == .allowance) && (0 < r.coinTotal || r.card.isSome) then
        refuse .paymentPresent (touched r s)
      else
        (.ok, .salePermit c (requote s { r with permit := some (appliedPermit p e c) }),
          saleGoesOn { r with permit := some (appliedPermit p e c) } s) := rfl

end Permits

/-- Settles O33: a check that applies is of a permit held. -/
theorem salePermitTaken : Obligations.SalePermitTaken := by
  refine ⟨fun n r s h hs => ⟨fun hn => ?refused, fun hp hn c p hc => ⟨fun ha => ?reported, fun q hq ha =>
      ⟨fun hk hpay => ?paid, fun hk => ⟨_, rfl, ?applied⟩⟩⟩⟩,
    fun n d s => ⟨permitNumberOk_iff n, permitCheck_absent, fun p => permitCheck_held⟩, checkApplies_iff,
    fun c s => ⟨fun t ht => by simp [pinnedTreat, ht], fun ht => by simp [pinnedTreat, ht]⟩,
    fun p e c => by simp [appliedPermit]⟩
  all_goals refine answers_of_onSale rfl h hs (body := salePermitBody n) ?_
  case refused => exact salePermitBody_refused { r with lastEvent := s.clock.elapsed } hn _
  case reported =>
    refine Eq.trans ?_ (takenPermit_touched r r s c)
    cases p with
    | none => exact salePermitBody_absent (s := touched r s) _ hp hn hc
    | some q => exact (salePermitBody_held (s := touched r s) { r with lastEvent := s.clock.elapsed } hp hn hc).trans (if_neg (by simp [ha]))
  all_goals
    subst hq
    refine ((salePermitBody_held (s := touched r s) { r with lastEvent := s.clock.elapsed } hp hn hc).trans (if_pos ha)).trans ((applyPermit_touched _ _ _).trans ?_)
  case paid => exact if_pos (by simpa using ⟨hk, hpay⟩)
  case applied =>
    refine if_neg ?_
    obtain ⟨hexempt, hallowance⟩ | ⟨hcoins, hcard⟩ := hk
    · simp [hexempt, hallowance]
    · simp [hcoins, hcard]

/-- Settles O36. -/
theorem saleCancelled : Obligations.SaleCancelled := by
  refine fun r s h hs => ⟨endSale (touched r s), answers_of_onSale rfl h hs rfl, ?_⟩
  obtain ⟨hsales, htariff, hcash, hpermits, hrounds, hfaults, hsense, hpower, hport, hclock⟩ := endSale_leaves (touched r s)
  refine ⟨hsales, htariff, hcash, hpermits, hrounds, hfaults, hsense, hpower, hport, hclock, fun u hu => ⟨fun hn => ?_,
    fun hr => ?_⟩⟩
  · subst hu
    exact (endSale_eq _).trans (if_neg (by simp [touched, hn]))
  · subst hu
    exact (endSale_eq _).trans (if_pos hr)

/-- Settles O37. -/
theorem saleExpires : Obligations.SaleExpires := by
  refine ⟨fun r s hh hs => ⟨fun h => ?idle, fun h => ?notIdle, fun h => ?old, fun h => ?young⟩,
    fun s u hu => ⟨fun hn => ?kept, fun hr => ?freed⟩⟩
  case idle =>
    exact acts_of_act (exec_saleInactivityExpiry s) hh ((if_pos ((saleOver_iff hs).2 h)).trans (abandonSale_open hs _))
  case notIdle =>
    exact acts_of_act (exec_saleInactivityExpiry s) hh (if_neg fun he => Nat.not_le.2 h ((saleOver_iff hs).1 he))
  case old =>
    exact acts_of_act (exec_saleLifetimeExpiry s) hh ((if_pos ((saleOver_iff hs).2 h)).trans (abandonSale_open hs _))
  case young =>
    exact acts_of_act (exec_saleLifetimeExpiry s) hh (if_neg fun he => Nat.not_le.2 h ((saleOver_iff hs).1 he))
  case kept => exact hu ▸ (endSale_eq s).trans (if_neg (by simp [hn]))
  case freed => exact hu ▸ (endSale_eq s).trans (if_pos hr)

end Sys2Proof.Machine

/-! READ_TARIFF and the draft of a tariff: what its commands answer, and which entries a write leaves as they were (R75 to R79,
R193). -/

namespace Sys2Proof.Machine

/-! ### The figures of a ladder -/

section Figures

variable {l : Ladder} {r : Nat} {b : Band}

theorem capBand_of_cap (hr : r < 8) (hb : l.bands[r]? = some b) (hc : b.cap = true)
    (hbefore : ∀ q c, q < r → l.bands[q]? = some c → c.cap = false) : capBand l = some r :=
  firstBad_some (bad := Band.cap) ((List.getElem?_take_of_lt hr).trans hb) hc fun q c hq hqc =>
    hbefore q c hq ((List.getElem?_take_of_lt (hq.trans hr)).symm.trans hqc)

theorem capBand_of_noCap (h : ∀ b ∈ l.bands, b.cap = false) : capBand l = none :=
  (firstBad_none Band.cap _).2 fun b hb => h b (List.mem_of_mem_take hb)

theorem bandAt_of_some (h : l.bands[r]? = some b) : bandAt l r = b := by simp [bandAt, h]

theorem ladderBlank_iff (h : l.bands.length = 8) :
    ladderBlank l = true ↔ ∃ b, l.bands[0]? = some b ∧ b.steps = 0 := by
  unfold ladderBlank
  split
  next hb => simp [hb] at h
  next b bs hb => simp [hb]

theorem ladderFigures_blank (h : ladderBlank l = true) :
    ladderFigures l = { blank := true, lastBand := lastBand l, length := none, capMinutes := none } := if_pos h

theorem ladderFigures_capped (hn : ladderBlank l = false) (hc : capBand l = some r) :
    ladderFigures l =
      { blank := false, lastBand := r, length := some (baseSteps l (r + 1)), capMinutes := some (baseTime l (r + 1)) } := by
  simp [ladderFigures, hn, lastBand, ladderLength, capMinutes, hc]

theorem ladderFigures_unbounded (hn : ladderBlank l = false) (hc : capBand l = none) :
    ladderFigures l = { blank := false, lastBand := 7, length := none, capMinutes := none } := by
  simp [ladderFigures, hn, lastBand, ladderLength, capMinutes, hc]

theorem tariffEntry_ladder {p : TariffPart} {k i : Nat} (t : TariffSet) (h : ladderIndex p = some k) :
    tariffEntry t p i = bandEntry (ladderAt t k) i := by
  rw [tariffEntry, h]

end Figures

/-- Settles O25. -/
theorem tariffReadAndDraftBegun : Obligations.TariffReadAndDraftBegun := by
  refine ⟨fun slot part index s h => ⟨fun hbad => ?bad, fun sl p hsl hp hi => ⟨fun ht => ?noSet, fun t ht => ?entry⟩⟩,
    fun s h => ⟨answers_of_host rfl h rfl, answers_of_host rfl h rfl, fun hn => ?noActive, fun hn => ?noPending,
      fun t ht => ?active, fun t ht => ?pending⟩,
    fun t i => ⟨⟨rfl, rfl⟩, fun x hx => ?_, fun x hx => ?_, fun x hx => ?_, fun p k l b hk hl hb => ?band⟩,
    fun l hlen => ⟨ladderBlank_iff hlen, ladderFigures_blank, fun r b hb hc hbefore => ?capped, fun hn => ?unbounded⟩, rfl⟩
  case bad =>
    refine answers_of_host rfl h ?_
    obtain rfl | rfl | ⟨p, rfl, hle⟩ := hbad
    · simp [readTariffBody, refuse]
    · cases slot <;> simp [readTariffBody, refuse]
    · cases slot <;> simp [readTariffBody, refuse, hle]
  case noSet => exact answers_of_host rfl h (by simp [readTariffBody, hsl, hp, Nat.not_le.2 hi, ht, refuse])
  case entry => exact answers_of_host rfl h (by simp [readTariffBody, hsl, hp, Nat.not_le.2 hi, ht, okay])
  case noActive => exact answers_of_host rfl h (by simp [draftBeginBody, beginFrom, hn, refuse])
  case noPending => exact answers_of_host rfl h (by simp [draftBeginBody, beginFrom, hn, refuse])
  case active => exact answers_of_host rfl h (by simp [draftBeginBody, beginFrom, ht, okay, setDraft, setTariff, beginDraft])
  case pending => exact answers_of_host rfl h (by simp [draftBeginBody, beginFrom, ht, okay, setDraft, setTariff, beginDraft])
  iterate 3 simp [tariffEntry, ladderIndex, partBytes, hx]
  case band =>
    rw [tariffEntry_ladder t hk, ← hl, bandEntry, bandAt_of_some hb]
    rfl
  case capped =>
    have hr : r < 8 := hlen ▸ (List.getElem?_eq_some_iff.1 hb).1
    have hcap := capBand_of_cap hr hb hc hbefore
    exact ⟨by rw [lastBand, hcap]; rfl, fun hn => ladderFigures_capped hn hcap⟩
  case unbounded =>
    have hcap := capBand_of_noCap hn
    exact ⟨by rw [lastBand, hcap]; rfl, fun hb => ladderFigures_unbounded hb hcap⟩

/-! ### The draft commands -/

section DraftCommands

variable {i : Instr} {s u : State} {d : Draft} {c : Nat} {body : Draft → State → Answer} {st : Status} {res : Result}

theorem answers_of_withDraft (he : exec i s = host c gatewayOnly (withDraft body) s) (h : s.openTo gatewayOnly = true)
    (hd : s.tariff.draft = some d) (hb : body d s = (st, res, u)) : answers i s c st res u :=
  answers_of_host he h (by rw [withDraft, hd]; exact hb)

theorem answers_of_noDraft (he : exec i s = host c gatewayOnly (withDraft body) s) (h : s.openTo gatewayOnly = true)
    (hd : s.tariff.draft = none) : answers i s c .notFound .nothing s :=
  answers_of_host he h (by rw [withDraft, hd]; rfl)

end DraftCommands

/-- Settles O26. -/
theorem draftPartSelected : Obligations.DraftPartSelected := fun d s h hd =>
  ⟨answers_of_withDraft rfl h hd rfl, fun p => answers_of_withDraft rfl h hd (by cases p <;> rfl)⟩

/-! ### An entry read from bytes that gives the same bytes back -/

section EntryBytes

variable {bs : List Byte} {n : Nat}

theorem flagged_word (h : n < 65536) : flagNat (decide (32768 ≤ n)) * 32768 + n % 32768 = n := by
  by_cases hn : 32768 ≤ n
  · simp only [flagNat, hn, decide_true, if_true]
    omega
  · simp only [flagNat, hn, decide_false, Bool.false_eq_true, if_false]
    omega

theorem ladderHeader_read (bands : List Band) (h : bs.length = 4) :
    ladderHeaderBytes (ladderHeaderOf bs bands) = bs := by
  have hword := flagged_word (fieldAt_lt bs 0 2)
  simp only [ladderHeaderBytes, ladderHeaderOf]
  rw [hword, be_fieldAt (by omega), be_fieldAt (by omega), bytesAt_append bs 0 2 2, bytesAt_all h]

theorem band_read (h : bs.length = 5) : bandBytes (bandOf bs) = bs := by
  have hword := flagged_word (fieldAt_lt bs 0 2)
  simp only [bandBytes, bandOf]
  rw [hword, be_fieldAt (by omega), be_fieldAt (by omega), be_fieldAt (by omega), bytesAt_append bs 0 2 2,
    bytesAt_append bs 0 4 1, bytesAt_all h]

theorem treat_read {t : Treatment} (h : treatOf n = some t) : treatCode t = n := by
  unfold treatOf at h
  split at h
  · cases h
    exact Eq.symm ‹_›
  · split at h
    · cases h
      exact Eq.symm ‹_›
    · split at h
      · cases h
        simp only [treatCode]
        omega
      · cases h

theorem treatOf_none : treatOf n = none ↔ 2 ≤ n ∧ n ≤ 15 := by
  unfold treatOf
  (repeat' split) <;> simp <;> omega

theorem classKind_read {c : ClassKind} (h : classKindOf n = some c) : classKindCode c = n := by
  unfold classKindOf at h
  split at h <;> cases h <;> rfl

theorem classKindOf_none : classKindOf n = none ↔ 3 < n :=
  match n with
  | 0 | 1 | 2 | 3 | n + 4 => by simp [classKindOf]

theorem dayKind_read {k : Option DayKind} (h : dayKindOf n = some k) : dayKindCode k = n := by
  unfold dayKindOf at h
  split at h <;> cases h <;> rfl

theorem dayKindOf_none : dayKindOf n = none ↔ 8 < n :=
  match n with
  | 0 | 1 | 2 | 3 | 4 | 5 | 6 | 7 | 8 | n + 9 => by simp [dayKindOf]

theorem dayPart_read {d : DayPart} (hd : dayPartOf bs = some d) (h : bs.length = 6) : dayPartBytes d = bs := by
  obtain ⟨t, ht, rfl⟩ := Option.map_eq_some_iff.1 hd
  have hmask : [BitVec.ofNat 8 (fieldAt bs 0 1)] = bytesAt bs 0 1 := by rw [← be_one, be_fieldAt (by omega)]
  simp only [dayPartBytes]
  rw [treat_read ht, hmask, be_fieldAt (by omega), be_fieldAt (by omega), be_fieldAt (by omega), bytesAt_append bs 0 1 2,
    bytesAt_append bs 0 3 2, bytesAt_append bs 0 5 1, bytesAt_all h]

theorem classEntry_read {c : ClassEntry} (hc : classEntryOf bs = some c) (h : bs.length = 2) : classEntryBytes c = bs := by
  obtain ⟨k, hk, rfl⟩ := Option.map_eq_some_iff.1 hc
  simp only [classEntryBytes]
  rw [classKind_read hk, be_fieldAt (by omega), be_fieldAt (by omega), bytesAt_append bs 0 1 1, bytesAt_all h]

theorem calEntry_read {c : CalEntry} (hc : calEntryOf bs = some c) (h : bs.length = 3) : calEntryBytes c = bs := by
  obtain ⟨k, hk, rfl⟩ := Option.map_eq_some_iff.1 hc
  simp only [calEntryBytes]
  rw [dayKind_read hk, be_fieldAt (by omega), be_fieldAt (by omega), bytesAt_append bs 0 2 1, bytesAt_all h]

end EntryBytes

/-! ### What a write of a draft entry leaves -/

section Write

variable {part : TariffPart} {index k j : Nat} {e : List Byte} {t t' : TariffSet} {f : Ladder → Ladder}

theorem ladderPart_iff : [TariffPart.ladder0, .ladder1, .ladder2, .ladder3][k]? = some part ↔ ladderIndex part = some k := by
  constructor
  · intro h
    obtain ⟨hk, rfl⟩ := List.getElem?_eq_some_iff.1 h
    match k, hk with
    | 0, _ | 1, _ | 2, _ | 3, _ => rfl
  · intro h
    cases part <;> cases h <;> rfl

theorem ladderIndex_inj {p q : TariffPart} (hp : ladderIndex p = some k) (hq : ladderIndex q = some k) : p = q :=
  Option.some.inj ((ladderPart_iff.2 hp).symm.trans (ladderPart_iff.2 hq))

theorem ladderAt_of_some {l : Ladder} (h : t.ladders[k]? = some l) : ladderAt t k = l := by simp [ladderAt, h]

theorem ladderAt_setLadder_same (h : k < t.ladders.length) : ladderAt (setLadder k f t) k = f (ladderAt t k) := by
  simp [ladderAt, setLadder, h]

theorem ladderAt_setLadder_other (h : j ≠ k) : ladderAt (setLadder k f t) j = ladderAt t j := by
  simp [ladderAt, setLadder, List.getElem?_set_ne h.symm]

/-- What the change of a ladder keeps, every ladder of the set keeps. -/
theorem ladderAt_setLadder_keeps {β : Type} (g : Ladder → β) (h : ∀ l, g (f l) = g l) :
    g (ladderAt (setLadder k f t) j) = g (ladderAt t j) := by
  by_cases hj : j = k
  · subst hj
    by_cases hl : j < t.ladders.length
    · rw [ladderAt_setLadder_same hl, h]
    · simp [ladderAt, setLadder, hl]
  · rw [ladderAt_setLadder_other hj]

theorem writeEntry_ladder (h : ladderIndex part = some k) (i : Nat) (e : List Byte) (t : TariffSet) :
    writeEntry part i e t = some (setLadder k (setBand i (bandOf e)) t) := by
  cases part <;> cases h <;> rfl

theorem writeEntry_setHeader (h : writeEntry .header 0 e t = some t') :
    bytesAt e 9 7 = setHeaderTail ∧ t' = { t with reference := fieldAt e 7 2 } := by
  simp only [writeEntry, if_true] at h
  split at h
  next htail => exact ⟨htail, (Option.some.inj h).symm⟩
  · cases h

theorem writeEntry_ladderHeader (hi : index ≠ 0) :
    writeEntry .header index e t = some (setLadder (index - 1) (fun l => ladderHeaderOf e l.bands) t) := if_neg hi

/-- What a write of the entry `index` of a part leaves: all but that entry. -/
structure WriteLeaves (part : TariffPart) (index : Nat) (t t' : TariffSet) : Prop where
  key : t'.key = t.key
  effectiveFrom : t'.effectiveFrom = t.effectiveFrom
  reference : ¬(part = .header ∧ index = 0) → t'.reference = t.reference
  dayParts : ∀ j, ¬(part = .dayParts ∧ j = index) → t'.dayParts[j]? = t.dayParts[j]?
  classes : ∀ j, ¬(part = .classes ∧ j = index) → t'.classes[j]? = t.classes[j]?
  calendar : ∀ j, ¬(part = .calendar ∧ j = index) → t'.calendar[j]? = t.calendar[j]?
  length : t'.ladders.length = t.ladders.length
  header : ∀ k, ¬(part = .header ∧ index = k + 1) →
    (ladderAt t' k).uniform = (ladderAt t k).uniform ∧ (ladderAt t' k).uMinutes = (ladderAt t k).uMinutes
      ∧ (ladderAt t' k).uPrice = (ladderAt t k).uPrice
  bands : ∀ k j, ¬(ladderIndex part = some k ∧ j = index) → (ladderAt t' k).bands[j]? = (ladderAt t k).bands[j]?

theorem setBand_leaves (hp : ladderIndex part = some k) (b : Band) :
    WriteLeaves part index t (setLadder k (setBand index b) t) where
  key := rfl
  effectiveFrom := rfl
  reference _ := rfl
  dayParts _ _ := rfl
  classes _ _ := rfl
  calendar _ _ := rfl
  length := List.length_set
  header _ _ :=
    ⟨ladderAt_setLadder_keeps (·.uniform) fun _ => rfl, ladderAt_setLadder_keeps (·.uMinutes) fun _ => rfl,
      ladderAt_setLadder_keeps (·.uPrice) fun _ => rfl⟩
  bands m j h := by
    by_cases hm : m = k
    · have hj : index ≠ j := fun he => h ⟨hm ▸ hp, he.symm⟩
      exact ladderAt_setLadder_keeps (·.bands[j]?) fun _ => List.getElem?_set_ne hj
    · rw [ladderAt_setLadder_other hm]

theorem ladderHeader_leaves (hi : index ≠ 0) (e : List Byte) :
    WriteLeaves .header index t (setLadder (index - 1) (fun l => ladderHeaderOf e l.bands) t) where
  key := rfl
  effectiveFrom := rfl
  reference _ := rfl
  dayParts _ _ := rfl
  classes _ _ := rfl
  calendar _ _ := rfl
  length := List.length_set
  header m h := by
    have hm : m ≠ index - 1 := fun he => h ⟨rfl, by omega⟩
    rw [ladderAt_setLadder_other hm]
    exact ⟨rfl, rfl, rfl⟩
  bands m j _ := ladderAt_setLadder_keeps (·.bands[j]?) fun _ => rfl

theorem writeEntry_leaves (h : writeEntry part index e t = some t') : WriteLeaves part index t t' := by
  cases part with
  | header =>
    by_cases hi : index = 0
    · subst hi
      obtain ⟨_, rfl⟩ := writeEntry_setHeader h
      exact ⟨rfl, rfl, fun hn => absurd ⟨rfl, rfl⟩ hn, fun _ _ => rfl, fun _ _ => rfl, fun _ _ => rfl, rfl,
        fun _ _ => ⟨rfl, rfl, rfl⟩, fun _ _ _ => rfl⟩
    · rw [writeEntry_ladderHeader hi] at h
      exact Option.some.inj h ▸ ladderHeader_leaves hi e
  | ladder0 | ladder1 | ladder2 | ladder3 => exact Option.some.inj h ▸ setBand_leaves rfl _
  | dayParts =>
    obtain ⟨d, _, rfl⟩ := Option.map_eq_some_iff.1 h
    exact ⟨rfl, rfl, fun _ => rfl, fun j hj => List.getElem?_set_ne fun he => hj ⟨rfl, he.symm⟩, fun _ _ => rfl,
      fun _ _ => rfl, rfl, fun _ _ => ⟨rfl, rfl, rfl⟩, fun _ _ _ => rfl⟩
  | classes =>
    obtain ⟨d, _, rfl⟩ := Option.map_eq_some_iff.1 h
    exact ⟨rfl, rfl, fun _ => rfl, fun _ _ => rfl, fun j hj => List.getElem?_set_ne fun he => hj ⟨rfl, he.symm⟩,
      fun _ _ => rfl, rfl, fun _ _ => ⟨rfl, rfl, rfl⟩, fun _ _ _ => rfl⟩
  | calendar =>
    obtain ⟨d, _, rfl⟩ := Option.map_eq_some_iff.1 h
    exact ⟨rfl, rfl, fun _ => rfl, fun _ _ => rfl, fun _ _ => rfl,
      fun j hj => List.getElem?_set_ne fun he => hj ⟨rfl, he.symm⟩, rfl, fun _ _ => ⟨rfl, rfl, rfl⟩, fun _ _ _ => rfl⟩

theorem bandAt_congr {l l' : Ladder} (h : l'.bands[j]? = l.bands[j]?) : bandAt l' j = bandAt l j := by
  rw [bandAt, h, bandAt]

/-- Every other entry of every part reads as before the write. -/
theorem partBytes_of_leaves (w : WriteLeaves part index t t') {part' : TariffPart} {index' : Nat}
    (hne : ¬(part' = part ∧ index' = index)) : partBytes t' part' index' = partBytes t part' index' := by
  have hladder (k : Nat) (hk : ladderIndex part' = some k) :
      bandBytes (bandAt (ladderAt t' k) index') = bandBytes (bandAt (ladderAt t k) index') := by
    rw [bandAt_congr (w.bands k index' fun ⟨hp, he⟩ => hne ⟨ladderIndex_inj hk hp, he⟩)]
  cases part' with
  | header =>
    simp only [partBytes]
    split
    next hi =>
      simp only [setHeaderBytes, w.key, w.effectiveFrom, w.reference fun ⟨hp, he⟩ => hne ⟨hp.symm, hi.trans he.symm⟩]
    next hi =>
      obtain ⟨hu, hm, hp⟩ := w.header (index' - 1) fun ⟨hp, he⟩ => hne ⟨hp.symm, by omega⟩
      simp only [ladderHeaderBytes, hu, hm, hp]
  | ladder0 => exact hladder 0 rfl
  | ladder1 => exact hladder 1 rfl
  | ladder2 => exact hladder 2 rfl
  | ladder3 => exact hladder 3 rfl
  | dayParts => simp only [partBytes, w.dayParts index' fun ⟨hp, he⟩ => hne ⟨hp.symm, he⟩]
  | classes => simp only [partBytes, w.classes index' fun ⟨hp, he⟩ => hne ⟨hp.symm, he⟩]
  | calendar => simp only [partBytes, w.calendar index' fun ⟨hp, he⟩ => hne ⟨hp.symm, he⟩]

theorem writeEntry_none_iff :
    writeEntry part index e t = none ↔
      (part = .header ∧ index = 0 ∧ bytesAt e 9 7 ≠ setHeaderTail)
        ∨ (part = .dayParts ∧ 2 ≤ fieldAt e 5 1 ∧ fieldAt e 5 1 ≤ 15) ∨ (part = .classes ∧ 3 < fieldAt e 0 1)
        ∨ (part = .calendar ∧ 8 < fieldAt e 2 1) := by
  cases part with
  | header =>
    by_cases hi : index = 0
    · by_cases ht : bytesAt e 9 7 = setHeaderTail <;> simp [writeEntry, hi, ht]
    · simp [writeEntry, hi]
  | ladder0 | ladder1 | ladder2 | ladder3 => simp [writeEntry]
  | dayParts => simp [writeEntry, dayPartOf, treatOf_none]
  | classes => simp [writeEntry, classEntryOf, classKindOf_none]
  | calendar => simp [writeEntry, calEntryOf, dayKindOf_none]

/-- The set header closes with the reference and the tail that are written. -/
theorem setHeader_tail_read (hl : e.length = 16) (h : bytesAt e 9 7 = setHeaderTail) (t : TariffSet) :
    (setHeaderBytes { t with reference := fieldAt e 7 2 }).drop 7 = e.drop 7 := by
  have hfront : (keyBytes t.key ++ be 4 t.effectiveFrom).length = 7 := by simp
  rw [setHeaderBytes, List.append_assoc, List.drop_left' hfront, be_fieldAt (by omega), ← h, bytesAt_append e 7 2 7,
    ← bytesAt_tail hl]

theorem band_writes (hladders : t.ladders.length = 4) (hbands : ∀ l ∈ t.ladders, l.bands.length = 8) (hk : k < 4)
    (hindex : index < 8) (hlen : e.length = 5) :
    bandBytes (bandAt (ladderAt (setLadder k (setBand index (bandOf e)) t) k) index) = e := by
  have hbound : index < (ladderAt t k).bands.length := by
    rw [hbands _ (ladderAt_mem (by omega))]
    exact hindex
  rw [ladderAt_setLadder_same (by omega), bandAt_of_some (b := bandOf e) (List.getElem?_set_self hbound), band_read hlen]

section Reads

variable (hladders : t.ladders.length = 4) (hbands : ∀ l ∈ t.ladders, l.bands.length = 8) (hdays : t.dayParts.length = 12)
  (hclasses : t.classes.length = 6) (hcalendar : t.calendar.length = 16) (hindex : index < partSize part)
  (hlen : e.length = entryLength part index)
include hladders hbands hdays hclasses hcalendar hindex hlen

/-- An entry that is written reads back byte for byte, the set header apart. -/
theorem writeEntry_reads (h : writeEntry part index e t = some t') (hne : ¬(part = .header ∧ index = 0)) :
    partBytes t' part index = e := by
  cases part with
  | header =>
    have hi : index ≠ 0 := fun he => hne ⟨rfl, he⟩
    simp only [partSize] at hindex
    rw [writeEntry_ladderHeader hi] at h
    rw [← Option.some.inj h, partBytes, if_neg hi, ladderAt_setLadder_same (by omega)]
    exact ladderHeader_read _ (hlen.trans (if_neg hi))
  | ladder0 => exact Option.some.inj h ▸ band_writes hladders hbands (by omega) hindex hlen
  | ladder1 => exact Option.some.inj h ▸ band_writes hladders hbands (by omega) hindex hlen
  | ladder2 => exact Option.some.inj h ▸ band_writes hladders hbands (by omega) hindex hlen
  | ladder3 => exact Option.some.inj h ▸ band_writes hladders hbands (by omega) hindex hlen
  | dayParts =>
    obtain ⟨d, hd, rfl⟩ := Option.map_eq_some_iff.1 h
    simp only [partBytes, List.getElem?_set_self (hdays ▸ hindex : index < t.dayParts.length), Option.map_some, Option.getD_some]
    exact dayPart_read hd hlen
  | classes =>
    obtain ⟨c, hc, rfl⟩ := Option.map_eq_some_iff.1 h
    simp only [partBytes, List.getElem?_set_self (hclasses ▸ hindex : index < t.classes.length), Option.map_some,
      Option.getD_some]
    exact classEntry_read hc hlen
  | calendar =>
    obtain ⟨c, hc, rfl⟩ := Option.map_eq_some_iff.1 h
    simp only [partBytes, List.getElem?_set_self (hcalendar ▸ hindex : index < t.calendar.length), Option.map_some,
      Option.getD_some]
    exact calEntry_read hc hlen

end Reads

end Write

/-- Settles O27. -/
theorem draftReadAndWritten : Obligations.DraftReadAndWritten := by
  refine ⟨fun s h => ⟨fun hd => ?noDraft, fun d hd => ⟨answers_of_withDraft rfl h hd rfl, fun e he => ?refused,
      fun e t hlen he => ?written⟩⟩,
    fun part index e t t' h4 h8 h12 h6 h16 hi hlen he => ⟨fun hne => ?reads, fun hp hz => ?setHeader, fun part' index' =>
      partBytes_of_leaves (writeEntry_leaves he)⟩,
    fun part index => by cases part <;> rfl, fun part index e t => ⟨writeEntry_none_iff, fun t' he => ?leaves⟩⟩
  case noDraft =>
    exact ⟨fun _ => answers_of_noDraft rfl h hd, fun _ => answers_of_noDraft rfl h hd, answers_of_noDraft rfl h hd,
      fun _ => answers_of_noDraft rfl h hd⟩
  case refused =>
    refine answers_of_withDraft rfl h hd ?_
    obtain he | he := he
    · simp [draftWriteBody, he, refuse]
    · simp [draftWriteBody, he, refuse]
  case written => exact answers_of_withDraft rfl h hd (by simp [draftWriteBody, hlen, he, okay, setDraft, setTariff, nextIndex])
  case reads => exact writeEntry_reads h4 h8 h12 h6 h16 hi hlen he hne
  case setHeader =>
    subst hp hz
    obtain ⟨htail, rfl⟩ := writeEntry_setHeader he
    exact ⟨rfl, setHeader_tail_read hlen htail t⟩
  case leaves =>
    have w := writeEntry_leaves he
    refine ⟨w.key, w.effectiveFrom, w.reference, w.dayParts, w.classes, w.calendar, w.length, fun k l l' hl hl' => ?_⟩
    rw [← ladderAt_of_some hl, ← ladderAt_of_some hl']
    exact ⟨w.header k, fun j hj => w.bands k j fun ⟨hp, he⟩ => hj ⟨ladderPart_iff.2 hp, he⟩⟩

end Sys2Proof.Machine

/-! Keys, offers and targets, the want list, the intake that follows its head, and the holdings notice (R35 to R42, R46, R51). -/

namespace Sys2Proof.Machine

/-! ### Keys -/

section Keys

variable {a b : Key}

theorem Key.higher_asymm (h : Key.higher a b = true) : Key.higher b a = false := by
  rw [Bool.eq_false_iff]
  intro hba
  exact absurd (Key.higher_trans h hba) (by simp [Key.higher_irrefl])

theorem Key.higher_iff_not (hne : a ≠ b) : Key.higher a b = true ↔ Key.higher b a = false := by
  refine ⟨Key.higher_asymm, fun hba => ?_⟩
  by_contra hab
  exact hne (Key.higher_antisymm (by simpa using hab) hba)

theorem Key.higher_iff (a b : Key) : Key.higher a b = true ↔ b.gen < a.gen ∨ (a.gen = b.gen ∧ a.pub < b.pub) := by
  simp [Key.higher]

end Keys

/-! ### Offers and targets -/

section Offers

variable {s : State} {k : Key} {p : PeerEntry} {obj : ImageObj} {i : Nat}

theorem peerSection_eq_some : peerSection i p = some k ↔ p.sections[i]? = some (some k) := by
  rw [peerSection, Option.join_eq_some_iff]

theorem qualifies_tariff_iff :
    s.qualifies .tariff k = true ↔
      Key.higherOpt k (slotKey s.tariff.active) = true ∧ slotKey s.tariff.pending ≠ some k := by
  simp [State.qualifies]

theorem qualifiesPending_iff :
    s.qualifiesPending k = true ↔
      Key.higherOpt k (slotKey s.tariff.active) = true ∧ Key.higherOpt k (slotKey s.tariff.pending) = true := by
  simp [State.qualifiesPending]

theorem qualifies_of_pending (h : s.qualifiesPending k = true) : s.qualifies .tariff k = true := by
  obtain ⟨hactive, hpending⟩ := qualifiesPending_iff.1 h
  refine qualifies_tariff_iff.2 ⟨hactive, fun he => ?_⟩
  rw [he] at hpending
  exact absurd hpending (by simp [Key.higherOpt, Key.higher_irrefl])

theorem advertises_tariff_iff : advertises .tariff k p = true ↔ p.active = some k ∨ p.pending = some k := by
  simp [advertises]

theorem advertises_sect_iff : advertises (.sect i) k p = true ↔ p.sections[i]? = some (some k) := by
  rw [advertises, beq_iff_eq, peerSection_eq_some]

theorem some_eq_filter {o : Option Key} {q : Key → Bool} : some k = o.filter q ↔ o = some k ∧ q k = true := by
  rw [eq_comm, Option.filter_eq_some_iff]

theorem mem_offers_tariff :
    some k ∈ s.offersOf .tariff p ↔
      p.status = .live ∧ s.declinedKey .tariff ≠ some k
        ∧ ((p.active = some k ∧ s.qualifies .tariff k = true) ∨ (p.pending = some k ∧ s.qualifiesPending k = true)) := by
  unfold State.offersOf
  by_cases hl : p.status = .live
  · simp [hl, some_eq_filter, and_comm, @eq_comm _ (s.declinedKey .tariff)]
  · simp [hl]

theorem mem_offers_sect :
    some k ∈ s.offersOf (.sect i) p ↔
      p.status = .live ∧ s.declinedKey (.sect i) ≠ some k ∧ p.sections[i]? = some (some k)
        ∧ s.qualifies (.sect i) k = true := by
  unfold State.offersOf
  by_cases hl : p.status = .live
  · simp [hl, some_eq_filter, ← peerSection_eq_some, and_comm, @eq_comm _ (s.declinedKey (.sect i))]
  · simp [hl]

/-- An offer is the key of a LIVE entry that advertises it, not declined, and it qualifies. -/
theorem offer_of_mem (h : some k ∈ s.offersOf obj p) :
    (p.status = .live ∧ advertises obj k p = true ∧ s.declinedKey obj ≠ some k) ∧ s.qualifies obj k = true := by
  cases obj with
  | tariff =>
    obtain ⟨hl, hd, ⟨ha, hq⟩ | ⟨hp, hq⟩⟩ := mem_offers_tariff.1 h
    · exact ⟨⟨hl, advertises_tariff_iff.2 (.inl ha), hd⟩, hq⟩
    · exact ⟨⟨hl, advertises_tariff_iff.2 (.inr hp), hd⟩, qualifies_of_pending hq⟩
  | sect i =>
    obtain ⟨hl, hd, hs, hq⟩ := mem_offers_sect.1 h
    exact ⟨⟨hl, advertises_sect_iff.2 hs, hd⟩, hq⟩

theorem target_some (h : s.target obj = some k) :
    (∃ p ∈ s.link.peers, some k ∈ s.offersOf obj p)
      ∧ ∀ p ∈ s.link.peers, ∀ k', some k' ∈ s.offersOf obj p → Key.higher k' k = false := by
  refine ⟨List.mem_flatMap.1 (highestKey_mem h), fun p hp k' hk' => ?_⟩
  obtain ⟨m, hm, hle⟩ := highestKey_max _ k' (List.mem_flatMap.2 ⟨p, hp, hk'⟩)
  rw [show m = k from Option.some.inj (hm.symm.trans h)] at hle
  exact hle

theorem target_none (h : s.target obj = none) : ∀ p ∈ s.link.peers, ∀ k', some k' ∉ s.offersOf obj p :=
  fun p hp k' hk' => highestKey_none.1 h k' (List.mem_flatMap.2 ⟨p, hp, hk'⟩)

theorem pendingOnly_active (before : Bool) (h : ∃ q ∈ s.link.peers, q.status = .live ∧ q.active = some k) :
    s.pendingOnly .tariff k before = false := by
  refine if_pos ?_
  obtain ⟨q, hq, hl, ha⟩ := h
  exact List.any_eq_true.2 ⟨q, List.mem_filter.2 ⟨hq, by simp [hl]⟩, by simp [ha]⟩

theorem pendingOnly_not (before : Bool) (h : ∀ q ∈ s.link.peers, q.status = .live → q.active ≠ some k) :
    s.pendingOnly .tariff k before =
      if (s.link.peers.filter (·.status == .live)).any (·.pending == some k) then true else before := by
  refine if_neg ?_
  rw [List.any_eq_true]
  rintro ⟨q, hq, ha⟩
  obtain ⟨hmem, hl⟩ := List.mem_filter.1 hq
  exact h q hmem (by simpa using hl) (by simpa using ha)

theorem pendingOnly_pending (before : Bool) (h : ∀ q ∈ s.link.peers, q.status = .live → q.active ≠ some k)
    (hp : ∃ q ∈ s.link.peers, q.status = .live ∧ q.pending = some k) : s.pendingOnly .tariff k before = true := by
  obtain ⟨q, hq, hl, ha⟩ := hp
  exact (pendingOnly_not before h).trans
    (if_pos (List.any_eq_true.2 ⟨q, List.mem_filter.2 ⟨hq, by simp [hl]⟩, by simp [ha]⟩))

theorem pendingOnly_before (before : Bool) (h : ∀ q ∈ s.link.peers, q.status = .live → q.active ≠ some k)
    (hp : ∀ q ∈ s.link.peers, q.status = .live → q.pending ≠ some k) : s.pendingOnly .tariff k before = before := by
  refine (pendingOnly_not before h).trans (if_neg ?_)
  rw [List.any_eq_true]
  rintro ⟨q, hq, ha⟩
  obtain ⟨hmem, hl⟩ := List.mem_filter.1 hq
  exact hp q hmem (by simpa using hl) (by simpa using ha)

end Offers

/-! ### The want list -/

section Want

variable {s : State} {obj : ImageObj} {k : Key} {e0 e : WantEntry} {sender : Option Nat} {n : Nat}

theorem mem_candidates_fresh :
    n ∈ (s.freshWant obj k).cands ↔
      ∃ p ∈ s.link.peers, p.station = n ∧ p.status = .live ∧ advertises obj k p = true := by
  simp only [State.freshWant, State.candidates, List.mem_map, List.mem_filter]
  refine exists_congr fun p => ?_
  simp [and_comm, and_left_comm]

theorem judgedWant_absent (h : s.wantOf obj = none) : s.judgedWant sender obj = (s.target obj).map (s.freshWant obj) := by
  rw [State.judgedWant, h]

theorem judgedWant_present (h : s.wantOf obj = some e0)
    (he : e = { e0 with pendingOnly := s.pendingOnly obj e0.key e0.pendingOnly }) :
    s.judgedWant sender obj =
      if !s.entryQualifies e then (s.target obj).map (s.freshWant obj)
      else
        match s.target obj with
        | none => some (s.noteSender sender e)
        | some k =>
          if Key.higher k e.key || (e.cands.isEmpty && sender.isSome) then (s.target obj).map (s.freshWant obj)
          else some (s.noteSender sender e) := by
  subst he
  rw [State.judgedWant, h] <;> rfl

theorem noteSender_in (h : n ∈ s.candidates e.obj e.key e.excluded) :
    s.noteSender (some n) e = { e with cands := insertNat n e.cands } := if_pos (by simpa using h)

theorem noteSender_out (h : n ∉ s.candidates e.obj e.key e.excluded) :
    s.noteSender (some n) e = { e with cands := e.cands.filter (· != n) } := if_neg (by simpa using h)

section Present

variable (h : s.wantOf obj = some e0) (he : e = { e0 with pendingOnly := s.pendingOnly obj e0.key e0.pendingOnly })
include h he

theorem judgedWant_unqualified (hq : s.entryQualifies e = false) :
    s.judgedWant sender obj = (s.target obj).map (s.freshWant obj) :=
  (judgedWant_present h he).trans (if_pos (by simp [hq]))

theorem judgedWant_qualified (hq : s.entryQualifies e = true) :
    s.judgedWant sender obj =
      match s.target obj with
      | none => some (s.noteSender sender e)
      | some k =>
        if Key.higher k e.key || (e.cands.isEmpty && sender.isSome) then (s.target obj).map (s.freshWant obj)
        else some (s.noteSender sender e) := (judgedWant_present h he).trans (if_neg (by simp [hq]))

theorem judgedWant_raised (hq : s.entryQualifies e = true) (ht : s.target obj = some k)
    (hk : Key.higher k e.key = true ∨ (e.cands = [] ∧ sender.isSome = true)) :
    s.judgedWant sender obj = some (s.freshWant obj k) := by
  rw [judgedWant_qualified h he hq, ht]
  exact if_pos (by simpa using hk)

theorem judgedWant_stays (hq : s.entryQualifies e = true) (ht : s.target obj = some k)
    (hk : Key.higher k e.key = false) (hc : e.cands ≠ [] ∨ sender = none) :
    s.judgedWant sender obj = some (s.noteSender sender e) := by
  rw [judgedWant_qualified h he hq, ht]
  refine if_neg ?_
  obtain hc | hc := hc
  · simp [hk, hc]
  · simp [hk, hc]

theorem judgedWant_noTarget (hq : s.entryQualifies e = true) (ht : s.target obj = none) :
    s.judgedWant sender obj = some (s.noteSender sender e) := by
  rw [judgedWant_qualified h he hq, ht]

end Present

end Want

/-! ### The holdings notice -/

section Holdings

variable {s : State} {e : SupplyEntry} {obj : ImageObj} {key : Key}

theorem unheld_iff : s.unheld e = true ↔ ∃ obj key, e.item = .image obj key ∧ s.heldImage obj key = none := by
  unfold State.unheld State.holds
  cases e.item <;> simp

theorem answerEntry_superseded {k : Key} (hi : e.item = .image obj key) (hk : s.currentKey obj = some k) :
    answerEntry s e = place .other e.requester (.superseded obj k) s := by
  simp [answerEntry, hi, answerNotHeld, hk]

theorem answerEntry_notHeld (hi : e.item = .image obj key) (hk : s.currentKey obj = none) :
    answerEntry s e = place .other e.requester (.notHeld obj key) s := by
  simp [answerEntry, hi, answerNotHeld, hk]

end Holdings

/-! ### The intake follows the head of the want list -/

section Intake

variable {s t : State} {i j : Intake} {e : WantEntry} {before after : List WantEntry} {n : Nat} {ns : List Nat}

theorem beginHead_none (h : s.power.state = .dormant ∨ ∀ w ∈ s.repl.want, w.cands = []) :
    beginHead s = { s with repl := { s.repl with intake := none } } := by
  have hnone : (if s.power.state == .dormant then none else s.headWant.map freshIntake) = none := by
    obtain h | h := h
    · simp [h]
    · simp [headWant_none h]
  rw [beginHead, hnone, setIntake]

theorem beginHead_some (hd : s.power.state ≠ .dormant) (h : s.headWant = some e) (he : e.cands = n :: ns) :
    beginHead s =
      { s with repl := { s.repl with
        intake := some
          { obj := e.obj, key := e.key, provider := n, next := 0, info := none, bytes := [], progress := 0
            phase := .requesting, placed := false } } } := by
  simp [beginHead, hd, h, freshIntake, he, setIntake]

theorem providerLost_iff :
    s.providerLost i = true ↔ ∃ e, s.wantOf i.obj = some e ∧ e.key = i.key ∧ i.provider ∉ e.cands := by
  unfold State.providerLost
  cases s.wantOf i.obj <;> simp

theorem forgetTimeouts_lost (h : ∃ e, s.wantOf i.obj = some e ∧ e.key = i.key ∧ i.provider ∉ e.cands) :
    forgetTimeouts i s = mapWant i.obj (fun w => { w with timeouts := 0 }) s := if_pos (providerLost_iff.2 h)

theorem forgetTimeouts_kept (h : ∀ e, s.wantOf i.obj = some e → e.key ≠ i.key ∨ i.provider ∈ e.cands) :
    forgetTimeouts i s = s := by
  refine if_neg fun hl => ?_
  obtain ⟨e, hw, hk, hp⟩ := providerLost_iff.1 hl
  exact (h e hw).elim (· hk) hp

/-- A change of the entries that keeps their candidates changes the head in the same way. -/
theorem headWant_mapWant (obj : ImageObj) {f : WantEntry → WantEntry} (hf : ∀ w, (f w).cands = w.cands) (s : State) :
    (mapWant obj f s).headWant = s.headWant.map fun w => if w.obj == obj then f w else w := by
  have hcands : ((fun w : WantEntry => !w.cands.isEmpty) ∘ fun w => if w.obj == obj then f w else w) =
      fun w => !w.cands.isEmpty := by
    funext w
    simp only [Function.comp]
    split
    · rw [hf]
    · rfl
  rw [State.headWant, mapWant, List.find?_map, hcands, State.headWant]

/-- The head names the same object, key and candidates whatever timeouts have been forgotten. -/
theorem headWant_forgetTimeouts (i : Intake) (h : s.headWant = some e) :
    ∃ w, (forgetTimeouts i s).headWant = some w ∧ w.obj = e.obj ∧ w.key = e.key ∧ w.cands = e.cands := by
  unfold forgetTimeouts
  split
  · refine ⟨_, by rw [headWant_mapWant i.obj (f := fun w => { w with timeouts := 0 }) (fun _ => rfl), h, Option.map_some], ?_⟩
    split <;> exact ⟨rfl, rfl, rfl⟩
  · exact ⟨e, h, rfl, rfl, rfl⟩

theorem headWant_forgetTimeouts_none (i : Intake) (h : s.headWant = none) : (forgetTimeouts i s).headWant = none := by
  unfold forgetTimeouts
  split
  · rw [headWant_mapWant i.obj (f := fun w => { w with timeouts := 0 }) (fun _ => rfl), h, Option.map_none]
  · exact h

theorem followHead_none (h : s.headWant = none) : followHead i s = beginHead s := by rw [followHead, h]

theorem followHead_other (h : s.headWant = some e) (hne : e.obj ≠ i.obj ∨ e.key ≠ i.key) :
    followHead i s = beginHead s := by
  rw [followHead, h]
  exact if_pos (by simpa using hne)

theorem followHead_same (h : s.headWant = some e) (ho : e.obj = i.obj) (hk : e.key = i.key) :
    followHead i s =
      if e.cands.contains i.provider then s else setIntake (some (i.toProvider ((e.cands.head?).getD 0))) s := by
  rw [followHead, h]
  exact if_neg (by simp [ho, hk])

theorem followIntake_idle (h : s.repl.intake = none) : followIntake s = beginHead s := by rw [followIntake, h]

theorem followIntake_running (h : s.repl.intake = some i) : followIntake s = followHead i (forgetTimeouts i s) := by
  rw [followIntake, h]

theorem followIntake_other (h : s.repl.intake = some i) (hw : s.headWant = some e) (hne : e.obj ≠ i.obj ∨ e.key ≠ i.key) :
    followIntake s = beginHead (forgetTimeouts i s) := by
  obtain ⟨w, hhead, hobj, hkey, _⟩ := headWant_forgetTimeouts i hw
  exact (followIntake_running h).trans (followHead_other hhead (by rwa [hobj, hkey]))

theorem followIntake_same (h : s.repl.intake = some i) (hw : s.headWant = some e) (he : e.cands = n :: ns)
    (ho : e.obj = i.obj) (hk : e.key = i.key) :
    followIntake s =
      if i.provider ∈ e.cands then forgetTimeouts i s
      else setIntake (some { i with provider := n, phase := .requesting, placed := false }) (forgetTimeouts i s) := by
  obtain ⟨w, hhead, hobj, hkey, hcands⟩ := headWant_forgetTimeouts i hw
  rw [followIntake_running h, followHead_same hhead (hobj.trans ho) (hkey.trans hk), hcands, he]
  simp [Intake.toProvider]

theorem updateIntake_same (h : (followIntake s).repl.intake = s.repl.intake) : updateIntake s = followIntake s := if_pos h

theorem updateIntake_changed (h : (followIntake s).repl.intake ≠ s.repl.intake) :
    updateIntake s = requestIntake (followIntake s) := if_neg h

theorem queued_isIntake_iff (s : State) : s.queued isIntake = true ↔ ∃ f ∈ s.link.tx, f.placer = .intake := by
  have hplacer : ∀ p : Placer, isIntake p = true ↔ p = .intake := fun p => by cases p <;> simp [isIntake]
  simp [State.queued, hplacer]

theorem requestDue_iff :
    s.requestDue = true ↔
      ∃ i, s.repl.intake = some i ∧ i.phase = .requesting ∧ i.placed = false ∧ ∀ f ∈ s.link.tx, f.placer ≠ .intake := by
  have hqueued : s.queued isIntake = false ↔ ∀ f ∈ s.link.tx, f.placer ≠ .intake := by
    rw [Bool.eq_false_iff, Ne, queued_isIntake_iff]
    exact ⟨fun h f hf he => h ⟨f, hf, he⟩, fun h ⟨f, hf, he⟩ => h f hf he⟩
  unfold State.requestDue
  cases s.repl.intake <;> simp [hqueued, and_assoc]

theorem requestIntake_not (h : s.repl.intake = none ∨ (∃ f ∈ s.link.tx, f.placer = .intake)
      ∨ ∃ i, s.repl.intake = some i ∧ (i.phase = .receiving ∨ i.placed = true)) : requestIntake s = s := by
  refine if_neg fun hd => ?_
  obtain ⟨i, hi, hphase, hplaced, htx⟩ := requestDue_iff.1 hd
  obtain h | ⟨f, hf, hf'⟩ | ⟨j, hj, hj'⟩ := h
  · simp [h] at hi
  · exact htx f hf hf'
  · cases hj.symm.trans hi
    simp [hphase, hplaced] at hj'

theorem requestIntake_due (h : s.repl.intake = some i) (hphase : i.phase = .requesting) (hplaced : i.placed = false)
    (htx : ∀ f ∈ s.link.tx, f.placer ≠ .intake) : requestIntake s = sendRequest (followIntake (pruneCandidates s)) :=
  if_pos (requestDue_iff.2 ⟨i, h, hphase, hplaced, htx⟩)

theorem sendRequest_not (h : s.repl.intake = none ∨ s.canPlace = false) : sendRequest s = s := by
  unfold sendRequest
  obtain h | h := h
  · rw [h]
  · split
    · exact if_neg (by simp [h])
    · rfl

theorem sendRequest_placed (h : s.repl.intake = some j) (hc : s.canPlace = true) :
    sendRequest s =
      place .intake j.provider (.request (.image j.obj j.key j.next))
        { s with repl := { s.repl with intake := some { j with placed := true } } } := by
  rw [sendRequest, h]
  exact if_pos hc

end Intake

/-- Settles O24. -/
theorem keysAndTargets : Obligations.KeysAndTargets := by
  refine ⟨⟨Key.higher_irrefl, fun a b => Key.higher_iff_not, fun a b c => Key.higher_trans, Key.higher_iff, fun a => rfl⟩,
    fun obj s => ⟨fun k hk => ?target, target_none⟩, fun sender obj s => ?want, fun obj k excluded s => rfl,
    fun n l => ⟨fun m => mem_insertNat n m l, insertNat_ordered n⟩,
    fun k h s => ⟨rfl, qualifies_tariff_iff, fun i => rfl, qualifiesPending_iff⟩,
    fun k p s => ⟨advertises_tariff_iff, fun i => advertises_sect_iff, mem_offers_tariff, fun i => mem_offers_sect,
      fun obj => rfl, fun i b => rfl, fun b => ⟨pendingOnly_active b, fun h => ⟨pendingOnly_pending b h, pendingOnly_before b h⟩⟩⟩,
    fun s t u ht hu q hq => ?holdings, fun e s => ⟨unheld_iff, fun obj key hi => ⟨fun k => answerEntry_superseded hi,
      answerEntry_notHeld hi⟩⟩,
    fun s => ⟨beginHead_none, fun before e after n ns hd hw hb he => ?begun⟩,
    fun s => ⟨followIntake_idle, fun i u h hlost hkept => ?follow⟩,
    fun s t ht => ht ▸ ⟨updateIntake_same, updateIntake_changed⟩, fun s t ht => ⟨requestIntake_not, fun i h hphase hplaced htx =>
      ?request⟩⟩
  case target =>
    obtain ⟨⟨p, hp, hoffer⟩, hmax⟩ := target_some hk
    obtain ⟨hlive, hq⟩ := offer_of_mem hoffer
    exact ⟨⟨p, hp, hoffer⟩, ⟨p, hp, hlive⟩, hq, hmax⟩
  case want =>
    refine ⟨rfl, judgedWant_absent, fun k => ⟨rfl, rfl, rfl, rfl, fun n => mem_candidates_fresh⟩, fun e0 e h he =>
      ⟨judgedWant_unqualified h he, fun hq => ⟨fun k => judgedWant_raised h he hq, fun k => judgedWant_stays h he hq,
        judgedWant_noTarget h he hq⟩, fun hp => if_pos hp, fun hp => if_neg (by simp [hp]), rfl, fun n =>
        ⟨noteSender_in, noteSender_out⟩⟩⟩
  case holdings =>
    subst hq
    have hkeep : holdingsNotice s = keepSupply (fun e => !t.unheld e) u := by rw [hu, ht]; rfl
    rw [hkeep]
    exact ⟨keepSupply_head, keepSupply_empty, fun e rest => keepSupply_newHead⟩
  case begun => exact beginHead_some hd (headWant_some hw hb (by simp [he])) he
  case follow =>
    have hu : u = forgetTimeouts i s := by
      cases hl : s.providerLost i with
      | true =>
        have hex := providerLost_iff.1 hl
        exact (hlost hex).trans (forgetTimeouts_lost hex).symm
      | false =>
        have hall : ∀ e, s.wantOf i.obj = some e → e.key ≠ i.key ∨ i.provider ∈ e.cands := by
          intro e hw
          by_contra hn
          rw [not_or, not_not] at hn
          exact absurd (providerLost_iff.2 ⟨e, hw, hn⟩) (by simp [hl])
        exact (hkept hall).trans (forgetTimeouts_kept hall).symm
    subst hu
    refine ⟨fun hn => ?_, fun before e after n ns hw hb he => ?_⟩
    · exact (followIntake_running h).trans (followHead_none (headWant_forgetTimeouts_none i (headWant_none hn)))
    · have hhead := headWant_some hw hb (by simp [he])
      refine ⟨followIntake_other h hhead, fun ho hk => ⟨fun hp => ?_, fun hp => ?_⟩⟩
      · exact (followIntake_same h hhead he ho hk).trans (if_pos hp)
      · exact (followIntake_same h hhead he ho hk).trans (if_neg hp)
  case request =>
    subst ht
    rw [requestIntake_due h hphase hplaced htx]
    exact ⟨sendRequest_not, fun j => sendRequest_placed⟩

end Sys2Proof.Machine

/-! TARIFF_PUBLISH, the receipt of a tariff image, and the checks of a tariff set (R66, R67, R69, R70, R72, R74, R80, R81). -/

namespace Sys2Proof.Machine

/-! ### TARIFF_PUBLISH -/

section Publish

variable {n z : Nat} {d : Draft} {s : State}

theorem publishBody_high (h : 4294967295 < n) : publishBody n d s = refuse .badParameter s := if_pos h

section InRange

variable (h : n ≤ 4294967295)
include h

theorem publishBody_unset (hz : s.clock.zone = none) : publishBody n d s = refuse .clockUnset s := by
  simp [publishBody, Nat.not_lt.2 h, State.zoneSec, hz]

theorem publishBody_invalid (hz : s.zoneSec = some z) {c : TariffCheck} {p : TariffPart} {i : Nat}
    (hv : validate d.tset = some (c, p, i)) :
    publishBody n d s = (.invalidTariff, .invalidTariff c (some (p, i)), s) := by
  simp [publishBody, Nat.not_lt.2 h, hz, hv]

theorem publishBody_valid (hz : s.zoneSec = some z) (hv : validate d.tset = none) :
    publishBody n d s =
      if 65535 ≤ highestTariffGen s then (.invalidTariff, .invalidTariff .generation none, s) else publish n z d s := by
  simp [publishBody, Nat.not_lt.2 h, hz, hv]

end InRange

theorem publish_now (h : n ≤ z) :
    publish n z d s =
      (.ok, .published ⟨highestTariffGen s + 1, s.own⟩ .active,
        clearMissing (holdingsNotice
          { s with tariff := { s.tariff with
            active := some (publishedSet n d s)
            retired := if keepsOld s.tariff then s.tariff.active else s.tariff.retired
            pending := pendingAbove (publishedSet n d s).key s.tariff.pending
            draft := some { d with tset := publishedSet n d s } } })) := by
  rw [publish, if_pos h]
  rfl

theorem publish_later (h : z < n) :
    publish n z d s =
      (.ok, .published ⟨highestTariffGen s + 1, s.own⟩ .pending,
        clearMissing (holdingsNotice
          { s with tariff := { s.tariff with
            pending := some (publishedSet n d s), draft := some { d with tset := publishedSet n d s } } })) := by
  rw [publish, if_neg (Nat.not_le.2 h)]
  rfl

theorem genOf_le_iff {k : Option Key} : genOf k ≤ n ↔ ∀ x, k = some x → x.gen ≤ n := by
  cases k <;> simp [genOf]

theorem highestTariffGen_le_iff (n : Nat) (s : State) :
    highestTariffGen s ≤ n ↔
      (∀ k, slotKey s.tariff.active = some k ∨ slotKey s.tariff.pending = some k
          ∨ slotKey s.tariff.retired = some k → k.gen ≤ n)
        ∧ ∀ p ∈ s.link.peers, ∀ k, p.active = some k ∨ p.pending = some k → k.gen ≤ n := by
  rw [highestTariffGen, maxOf_le, List.forall_mem_append]
  refine and_congr ?_ ?_
  · simp only [List.mem_cons, List.not_mem_nil, or_false, forall_eq, genOf_le_iff, or_imp, forall_and]
  · simp only [List.mem_flatMap, List.mem_cons, List.not_mem_nil, or_false, forall_exists_index, and_imp]
    constructor
    · rintro h p hp k (hk | hk)
      · exact genOf_le_iff.1 (h _ p hp (.inl rfl)) k hk
      · exact genOf_le_iff.1 (h _ p hp (.inr rfl)) k hk
    · rintro h x p hp (rfl | rfl)
      · exact genOf_le_iff.2 fun k hk => h p hp k (.inl hk)
      · exact genOf_le_iff.2 fun k hk => h p hp k (.inr hk)

end Publish

/-! ### A received image -/

section Image

variable {key : Key} {bytes : List Byte} {supplier z : Nat} {s : State} {t : TariffSet}

theorem tariffImageIn_invalid
    (h : tariffOf bytes = none ∨ ∃ t, tariffOf bytes = some t ∧ (t.key ≠ some key ∨ (validate t).isSome = true)) :
    tariffImageIn key bytes supplier s = (s, .invalid) := by
  obtain h | ⟨t, ht, h⟩ := h
  · rw [tariffImageIn, h]
  · rw [tariffImageIn, ht]
    refine if_neg fun ⟨hk, hv⟩ => ?_
    obtain h | h := h
    · exact h hk
    · simp [hv] at h

theorem tariffImageIn_valid (ht : tariffOf bytes = some t) (hk : t.key = some key) (hv : validate t = none) :
    tariffImageIn key bytes supplier s = installTariff t supplier s := by
  rw [tariffImageIn, ht]
  exact if_pos ⟨hk, hv⟩

theorem installSlot_now (hk : t.key = some key) (h : t.effectiveFrom ≤ z) (old : Tariff) :
    installSlot old z t = if Key.higherOpt key (slotKey old.active) then some .active else none := by
  rw [installSlot, hk]
  exact if_pos h

theorem installSlot_later (hk : t.key = some key) (h : z < t.effectiveFrom) (old : Tariff) :
    installSlot old z t =
      if Key.higherOpt key (slotKey old.active) && Key.higherOpt key (slotKey old.pending) then some .pending else none := by
  rw [installSlot, hk]
  exact if_neg (Nat.not_le.2 h)

theorem installTariff_unset (hz : s.clock.zone = none) : installTariff t supplier s = (s, .declined) := by
  simp [installTariff, State.zoneSec, hz]

theorem installTariff_declined (hz : s.zoneSec = some z) (h : installSlot s.tariff z t = none) :
    installTariff t supplier s = (s, .declined) := by
  simp [installTariff, hz, h]

theorem postTariffChanged_some (old : Tariff) (byChangeover : Bool) (h : s.tariff.active = some t) :
    postTariffChanged old byChangeover s =
      postEvent (.tariffChanged t.key t.reference (slotKey old.active) byChangeover (keepsOld old)) s := by
  rw [postTariffChanged, h]

theorem installTariff_active (hk : t.key = some key) (hz : s.zoneSec = some z)
    (h : installSlot s.tariff z t = some .active) :
    installTariff t supplier s =
      (clearMissing (holdingsNotice
        (postEvent (.tariffChanged (some key) t.reference (slotKey s.tariff.active) false (keepsOld s.tariff))
          (postEvent (.tariffReceived (some key) .active t.effectiveFrom t.reference supplier)
            { s with tariff := { s.tariff with
              active := some t
              retired := if keepsOld s.tariff then s.tariff.active else s.tariff.retired
              pending := pendingAbove (some key) s.tariff.pending } }))), .installed) := by
  have hslot : s.zoneSec.bind (fun z => installSlot s.tariff z t) = some .active := by rw [hz]; exact h
  rw [installTariff, hslot]
  dsimp only
  rw [if_pos (by rfl), postTariffChanged_some (t := t) _ _ rfl, hk, setTariff, installAt, hk]
  rfl

theorem installTariff_pending (hk : t.key = some key) (hz : s.zoneSec = some z)
    (h : installSlot s.tariff z t = some .pending) :
    installTariff t supplier s =
      (clearMissing (holdingsNotice
        (postEvent (.tariffReceived (some key) .pending t.effectiveFrom t.reference supplier)
          { s with tariff := { s.tariff with pending := some t } })), .installed) := by
  have hslot : s.zoneSec.bind (fun z => installSlot s.tariff z t) = some .pending := by rw [hz]; exact h
  rw [installTariff, hslot, hk]
  rfl

end Image

/-! ### The checks of a set, in their order -/

section Checks

variable {t : TariffSet} {i : Nat}

theorem clash_at {α : Type} {bad : α → α → Bool} {xs : List α} {i : Nat} {p : α} (hp : xs[i]? = some p)
    (hex : ∃ j q, j < i ∧ xs[j]? = some q ∧ bad q p = true)
    (hb : (xs.take i).Pairwise fun x y => bad x y = false) : clash bad [] xs = some i := by
  obtain ⟨j, q, hj, hq, hbad⟩ := hex
  have hmem : q ∈ xs.take i := List.mem_iff_getElem?.2 ⟨j, (List.getElem?_take_of_lt hj).trans hq⟩
  simpa using clash_some (seen := []) hp ⟨q, hmem, hbad⟩ ((clash_none _ _ _).2 ⟨fun _ hx => absurd hx List.not_mem_nil, hb⟩)

theorem clash_free {α : Type} {bad : α → α → Bool} {xs : List α} (h : xs.Pairwise fun x y => bad x y = false) :
    clash bad [] xs = none := (clash_none _ _ _).2 ⟨by simp, h⟩

theorem ladderBandBad_at {l : Ladder} {r : Nat} {b : Band} (hn : ladderBlank l = false) (hr : r ≤ lastBand l)
    (hb : l.bands[r]? = some b) (hbad : bandBad l.uniform b = true)
    (hbefore : ∀ q c, q < r → l.bands[q]? = some c → bandBad l.uniform c = false) : ladderBandBad l = some r := by
  refine (if_neg (by simp [hn])).trans (firstBad_some ((List.getElem?_take_of_lt (by omega)).trans hb) hbad ?_)
  exact fun q c hq hc => hbefore q c hq ((List.getElem?_take_of_lt (by omega)).symm.trans hc)

theorem validate_header {l : Ladder} (hl : t.ladders[i]? = some l) (hbad : headerBad l = true)
    (hb : ∀ j m, j < i → t.ladders[j]? = some m → headerBad m = false) :
    validate t = some (.ladderHeader, .header, i + 1) := by
  simp [validate, firstBad_some hl hbad hb]

section AfterHeaders

variable (h1 : ∀ l ∈ t.ladders, headerBad l = false)
include h1

theorem validate_band {l : Ladder} {r : Nat} {b : Band} (hl : t.ladders[i]? = some l) (hn : ladderBlank l = false)
    (hr : r ≤ lastBand l) (hb : l.bands[r]? = some b) (hbad : bandBad l.uniform b = true)
    (hbefore : ∀ q c, q < r → l.bands[q]? = some c → bandBad l.uniform c = false)
    (hladders : ∀ j m, j < i → t.ladders[j]? = some m → ladderBandBad m = none) :
    validate t = some (.bandRange, ladderPart i, r) := by
  have hbands := bandsBad_some 0 hl (ladderBandBad_at hn hr hb hbad hbefore) hladders
  simp [validate, (firstBad_none _ _).2 h1, hbands]

section AfterBands

variable (h2 : ∀ l ∈ t.ladders, ladderBandBad l = none)
include h2

/-- What is left to check of a set whose ladders pass. -/
theorem validate_ladders :
    validate t =
      ((firstBad dayPartBad t.dayParts).map fun i => (.daypartRange, .dayParts, i)).or
        (((firstBad classBad t.classes).map fun i => (.classLadder, .classes, i)).or
          (((firstBad (partRefBad t) t.dayParts).map fun i => (.ladderReference, .dayParts, i)).or
            (((firstBad (classRefBad t) t.classes).map fun i => (.ladderReference, .classes, i)).or
              (((clash overlap [] t.dayParts).map fun i => (.daypartOverlap, .dayParts, i)).or
                ((clash sameDate [] t.calendar).map fun i => (.calendarDate, .calendar, i)))))) := by
  rw [validate, (firstBad_none _ _).2 h1, (bandsBad_none 0 _).2 h2]
  rfl

variable (h3 : ∀ p ∈ t.dayParts, dayPartBad p = false) (h4 : ∀ c ∈ t.classes, classBad c = false)
include h3 h4

/-- What is left to check of a set whose entries are in range. -/
theorem validate_ranges :
    validate t =
      ((firstBad (partRefBad t) t.dayParts).map fun i => (.ladderReference, .dayParts, i)).or
        (((firstBad (classRefBad t) t.classes).map fun i => (.ladderReference, .classes, i)).or
          (((clash overlap [] t.dayParts).map fun i => (.daypartOverlap, .dayParts, i)).or
            ((clash sameDate [] t.calendar).map fun i => (.calendarDate, .calendar, i)))) := by
  rw [validate_ladders h1 h2, (firstBad_none _ _).2 h3, (firstBad_none _ _).2 h4]
  rfl

/-- What is left to check of a set whose references hold. -/
theorem validate_references (h5 : ∀ p ∈ t.dayParts, partRefBad t p = false) (h6 : ∀ c ∈ t.classes, classRefBad t c = false) :
    validate t =
      ((clash overlap [] t.dayParts).map fun i => (.daypartOverlap, .dayParts, i)).or
        ((clash sameDate [] t.calendar).map fun i => (.calendarDate, .calendar, i)) := by
  rw [validate_ranges h1 h2 h3 h4, (firstBad_none _ _).2 h5, (firstBad_none _ _).2 h6]
  rfl

end AfterBands

end AfterHeaders

/-! ### What each check says -/

theorem headerBad_iff (l : Ladder) :
    headerBad l = true ↔ ladderBlank l = false ∧ l.uniform = true ∧ (l.uMinutes < 1 ∨ 240 < l.uMinutes) := by
  simp only [headerBad, minutesOk, Bool.and_eq_true, Bool.not_eq_true', Bool.and_eq_false_iff, decide_eq_false_iff_not,
    Nat.not_le, and_assoc]

theorem ladderBandBad_none_iff (l : Ladder) :
    ladderBandBad l = none ↔ ladderBlank l = false →
      ∀ r c, r ≤ lastBand l → l.bands[r]? = some c → bandBad l.uniform c = false := by
  unfold ladderBandBad
  cases ladderBlank l with
  | true => simp
  | false =>
    simp only [Bool.false_eq_true, if_false, forall_const, firstBad_none]
    refine ⟨fun h r c hr hc => h c ?_, fun h c hc => ?_⟩
    · exact List.mem_iff_getElem?.2 ⟨r, (List.getElem?_take_of_lt (by omega)).trans hc⟩
    · obtain ⟨r, hr⟩ := List.mem_iff_getElem?.1 hc
      have hlt : r < lastBand l + 1 := by
        by_contra hge
        rw [List.getElem?_take_eq_none (by omega)] at hr
        cases hr
      exact h r c (by omega) ((List.getElem?_take_of_lt hlt).symm.trans hr)

theorem bandBad_iff (uniform : Bool) (b : Band) :
    bandBad uniform b = true ↔
      b.steps < 1 ∨ 255 < b.steps ∨ (uniform = false ∧ (b.minutes < 1 ∨ 240 < b.minutes)) := by
  simp only [bandBad, minutesOk, Bool.or_eq_true, Bool.and_eq_true, Bool.not_eq_true', Bool.and_eq_false_iff,
    decide_eq_false_iff_not, Nat.not_le, or_assoc]

theorem dayPartBad_iff (p : DayPart) :
    dayPartBad p = true ↔
      p.mask ≠ 0#8
        ∧ (1439 < p.start ∨ p.stop < 1 ∨ 1440 < p.stop ∨ p.stop ≤ p.start ∨ ∃ k, p.treat = .charged k ∧ 3 < k) := by
  unfold dayPartBad partUsed
  cases p.treat <;> simp [or_assoc]

theorem partRefBad_iff (t : TariffSet) (p : DayPart) :
    partRefBad t p = true ↔ p.mask ≠ 0#8 ∧ ∃ k, p.treat = .charged k ∧ ladderBlank (ladderAt t k) = true := by
  unfold partRefBad partUsed
  cases p.treat <;> simp

theorem overlap_iff (p q : DayPart) :
    overlap p q = true ↔
      p.mask ≠ 0#8 ∧ q.mask ≠ 0#8 ∧ p.mask &&& q.mask ≠ 0#8 ∧ p.start < q.stop ∧ q.start < p.stop := by
  simp [overlap, partUsed, and_assoc]

theorem takesLadder_iff (c : ClassEntry) : takesLadder c = true ↔ c.kind = .ladder ∨ c.kind = .allowance := by
  simp [takesLadder]

end Checks

/-! ### The slots -/

section Slots

variable {k q : Key} {p : Option TariffSet} {s : State}

theorem pendingAbove_none (key : Option Key) : pendingAbove key none = none := by
  cases key <;> rfl

theorem pendingAbove_some (h : slotKey p = some q) :
    pendingAbove (some k) p = if Key.higher q k then p else none := by
  simp [pendingAbove, h]

theorem clearMissing_empty (h : s.tariff.active = none) : clearMissing s = s := if_neg (by simp [h])

end Slots

/-- Settles O28. -/
theorem tariffPublished : Obligations.TariffPublished := by
  refine ⟨fun n d s h hd => ⟨fun hn => ?high, fun hn => ⟨fun hz => ?unset, fun z hz => ⟨fun c p i hv => ?invalid, fun hv =>
      ⟨fun hg => ?spent, fun hg => ⟨fun hle => ?now, fun hlt => ?later⟩⟩⟩⟩⟩,
    fun key bytes supplier s => ⟨tariffImageIn_invalid, fun t ht hk hv => ⟨fun hz => ?imageUnset, fun z hz =>
      ⟨fun hle => ⟨fun hlow => ?imageOld, fun hhigh => ?imageActive⟩, fun hlt => ⟨fun hlow => ?imageLow, fun ha hp => ?imagePending⟩⟩⟩⟩,
    fun t i => ⟨fun l => validate_header, fun h1 => ⟨fun l r b hl hn hr hb hbad hq hj => ?band, fun h2 => ⟨fun p hp hbad hb => ?day, fun h3 =>
      ⟨fun c hc hbad hb => ?cls, fun h4 => ⟨fun p hp hbad hb => ?partRef, fun h5 => ⟨fun c hc hbad hb => ?classRef, fun h6 =>
        ⟨fun p hp hex hb => ?overlap, fun h7 => ⟨fun c hc hex hb => ?date, fun h8 => ?valid⟩⟩⟩⟩⟩⟩⟩⟩,
    fun l u b => ⟨headerBad_iff l, ladderBandBad_none_iff l, bandBad_iff u b⟩,
    fun t p q => ⟨dayPartBad_iff p, partRefBad_iff t p, overlap_iff p q⟩, fun t c a b => ?entries,
    fun k t p s => ⟨keepsOld_iff t, pendingAbove_none _, fun q hq hh => (pendingAbove_some hq).trans (if_pos hh), fun q hq hh =>
      (pendingAbove_some hq).trans (if_neg (by simp [hh])), clearMissing_empty, fun ha => if_pos ha⟩, highestTariffGen_le_iff⟩
  case high => exact answers_of_withDraft rfl h hd (publishBody_high hn)
  case unset => exact answers_of_withDraft rfl h hd (publishBody_unset hn hz)
  case invalid => exact answers_of_withDraft rfl h hd (publishBody_invalid hn hz hv)
  case spent => exact answers_of_withDraft rfl h hd ((publishBody_valid hn hz hv).trans (if_pos hg))
  case now =>
    exact answers_of_withDraft rfl h hd (((publishBody_valid hn hz hv).trans (if_neg (Nat.not_le.2 hg))).trans (publish_now hle))
  case later =>
    exact answers_of_withDraft rfl h hd (((publishBody_valid hn hz hv).trans (if_neg (Nat.not_le.2 hg))).trans (publish_later hlt))
  case imageUnset => exact (tariffImageIn_valid ht hk hv).trans (installTariff_unset hz)
  case imageOld =>
    exact (tariffImageIn_valid ht hk hv).trans
      (installTariff_declined hz ((installSlot_now hk hle _).trans (if_neg (by simp [hlow]))))
  case imageActive =>
    exact (tariffImageIn_valid ht hk hv).trans (installTariff_active hk hz ((installSlot_now hk hle _).trans (if_pos hhigh)))
  case imageLow =>
    refine (tariffImageIn_valid ht hk hv).trans
      (installTariff_declined hz ((installSlot_later hk hlt _).trans (if_neg ?_)))
    obtain hlow | hlow := hlow <;> simp [hlow]
  case imagePending =>
    exact (tariffImageIn_valid ht hk hv).trans
      (installTariff_pending hk hz ((installSlot_later hk hlt _).trans (if_pos (by simp [ha, hp]))))
  case band => exact validate_band h1 hl hn hr hb hbad hq hj
  case day => simp [validate_ladders h1 h2, firstBad_some hp hbad hb]
  case cls => simp [validate_ladders h1 h2, (firstBad_none _ _).2 h3, firstBad_some hc hbad hb]
  case partRef => simp [validate_ranges h1 h2 h3 h4, firstBad_some hp hbad hb]
  case classRef => simp [validate_ranges h1 h2 h3 h4, (firstBad_none _ _).2 h5, firstBad_some hc hbad hb]
  case overlap => simp [validate_references h1 h2 h3 h4 h5 h6, clash_at hp hex hb]
  case date => simp [validate_references h1 h2 h3 h4 h5 h6, clash_free h7, clash_at hc hex hb]
  case valid => simp [validate_references h1 h2 h3 h4 h5 h6, clash_free h7, clash_free h8]
  case entries =>
    refine ⟨?_, ?_, ?_⟩
    · simp [classBad, takesLadder_iff]
    · simp [classRefBad, takesLadder_iff]
    · simp [sameDate, and_assoc]

end Sys2Proof.Machine

/-! The steps of a ladder band by band, and the minute that consumes the last paid one (R60 to R62, R83, R86). -/

namespace Sys2Proof.Machine

section Bands

variable {l : Ladder} {j r : Nat} {b : Band}

/-- The band of a step, by what the bands before it and it itself reach. -/
theorem stepBand_eq (hr : r < lastBand l) (hreach : j ≤ baseSteps l (r + 1))
    (hbefore : ∀ i, i < r → baseSteps l (i + 1) < j) : stepBand l j = r := by
  obtain ⟨_, hnext, hmin⟩ := stepBand_spec l j
  refine Nat.le_antisymm (Nat.le_of_not_lt fun hlt => ?_) (Nat.le_of_not_lt fun hlt => ?_)
  · exact Nat.not_lt.2 hreach (hmin r hlt)
  · exact Nat.not_lt.2 (hnext (hlt.trans hr)) (hbefore _ hlt)

theorem stepBand_last (h : ∀ i, i < lastBand l → baseSteps l (i + 1) < j) : stepBand l j = lastBand l := by
  obtain ⟨hle, hnext, _⟩ := stepBand_spec l j
  exact Nat.le_antisymm hle (Nat.le_of_not_lt fun hlt => Nat.not_lt.2 (hnext hlt) (h _ hlt))

theorem baseTime_succ (l : Ladder) (r : Nat) :
    baseTime l (r + 1) = baseTime l r + (bandAt l r).steps * stepMinutes l (bandAt l r) := bandSum_succ _ l r

theorem basePrice_succ (l : Ladder) (r : Nat) :
    basePrice l (r + 1) = basePrice l r + (bandAt l r).steps * stepPrice l (bandAt l r) := bandSum_succ _ l r

theorem ladderBlank_first (h : l.bands[0]? = some b) : ladderBlank l = true ↔ b.steps = 0 := by
  unfold ladderBlank
  split
  next hb => simp [hb] at h
  next c cs hb =>
    rw [hb, List.getElem?_cons_zero, Option.some.injEq] at h
    simp [h]

theorem capBand_of_append {before after : List Band} (hlen : l.bands.length = 8) (h : l.bands = before ++ b :: after)
    (hc : b.cap = true) (hb : ∀ x ∈ before, x.cap = false) : capBand l = some before.length := by
  refine capBand_of_cap ?_ (by rw [h]; simp) hc fun q c hq hqc => hb c (List.mem_iff_getElem?.2 ⟨q, ?_⟩)
  · rw [h, List.length_append, List.length_cons] at hlen
    omega
  · rw [← hqc, h, List.getElem?_append_left hq]

end Bands

/-! ### The minute after the last paid one -/

section Consumed

variable {xs : List Treatment} {n i : Nat}

theorem isCharged_iff (x : Treatment) : isCharged x = true ↔ ∃ k, x = .charged k := by
  cases x <;> simp [isCharged]

/-- As many charged minutes as are paid: the offset just after the last of them (R86). -/
theorem consumed_some (hn : 1 ≤ n) (h : n ≤ xs.countP isCharged) :
    ∃ off, consumed i n xs = some (i + off) ∧ 1 ≤ off ∧ off ≤ xs.length ∧ (xs.take off).countP isCharged = n
      ∧ ∃ k, xs[off - 1]? = some (.charged k) := by
  induction xs generalizing i n with
  | nil => simp at h; omega
  | cons x rest ih =>
    rw [List.countP_cons] at h
    by_cases hx : isCharged x = true
    · by_cases h1 : n ≤ 1
      · refine ⟨1, by simp [consumed, hx, h1], le_rfl, by simp, ?_, ?_⟩
        · simp [hx]
          omega
        · simpa using (isCharged_iff x).1 hx
      · rw [if_pos hx] at h
        obtain ⟨off, hc, hoff, hlen, hcount, k, hk⟩ := ih (i := i + 1) (n := n - 1) (by omega) (by omega)
        refine ⟨off + 1, ?_, by omega, by simpa using hlen, ?_, k, ?_⟩
        · simp [consumed, hx, h1, hc, Nat.add_assoc, Nat.add_comm 1]
        · simp [hx, hcount]
          omega
        · simpa [List.getElem?_cons, Nat.one_le_iff_ne_zero.1 hoff] using hk
    · rw [if_neg hx, Nat.add_zero] at h
      obtain ⟨off, hc, hoff, hlen, hcount, k, hk⟩ := ih (i := i + 1) hn h
      refine ⟨off + 1, ?_, by omega, by simpa using hlen, ?_, k, ?_⟩
      · simp [consumed, hx, hc, Nat.add_assoc, Nat.add_comm 1]
      · simp [hx, hcount]
      · simpa [List.getElem?_cons, Nat.one_le_iff_ne_zero.1 hoff] using hk

theorem consumed_none (hn : 1 ≤ n) (h : xs.countP isCharged < n) : consumed i n xs = none := by
  induction xs generalizing i n with
  | nil => rfl
  | cons x rest ih =>
    rw [List.countP_cons] at h
    by_cases hx : isCharged x = true
    · rw [if_pos hx] at h
      have h1 : ¬n ≤ 1 := by omega
      simp only [consumed, hx, if_true, if_neg h1]
      exact ih (by omega) (by omega)
    · rw [if_neg hx] at h
      simp only [consumed, if_neg hx]
      exact ih hn h

end Consumed

/-- Settles O39. -/
theorem stepsAndExpiry : Obligations.StepsAndExpiry := by
  refine ⟨fun l s _ => ⟨if_pos rfl, if_pos rfl, priceOf_succ l s, minutesOf_succ l s⟩,
    fun l j r => ⟨stepBand_eq, stepBand_last⟩, fun l r b hb => ?band, fun l hlen => ⟨fun hn => ?unbounded,
      fun before b after h hc hb => ?capped⟩,
    fun v n hn => ⟨fun h => ?within, fun h => ?past⟩, fun v x m => ⟨rfl, isCharged_iff x, rfl, fun hm => if_pos hm⟩⟩
  case band =>
    have hat := bandAt_of_some hb
    refine ⟨hat, rfl, hat ▸ baseSteps_succ l r, rfl, hat ▸ baseTime_succ l r, rfl, hat ▸ basePrice_succ l r, rfl, rfl, ?_⟩
    rintro rfl
    exact ladderBlank_first hb
  case unbounded =>
    have hcap := capBand_of_noCap hn
    simp [lastBand, ladderLength, capMinutes, hcap]
  case capped =>
    have hcap := capBand_of_append hlen h hc hb
    simp [lastBand, ladderLength, capMinutes, hcap]
  case within =>
    obtain ⟨off, hc, hoff, hlen, hcount, hk⟩ := consumed_some (i := 0) hn h
    exact ⟨off, by rw [View.expiry, hc, Nat.zero_add], hoff, hlen, hcount, hk⟩
  case past => rw [View.expiry, consumed_none hn h]

end Sys2Proof.Machine

/-! QUOTE, and what the walk sees and answers: the view up to the stop point, each kind of walk, the days and the day-parts
(R63 to R65, R74, R82 to R91). -/

namespace Sys2Proof.Machine

/-! ### Searches of a list by what stands before -/

section Lists

variable {α : Type} {p : α → Bool} {l before after : List α} {x : α}

theorem find?_first (h : l = before ++ x :: after) (hb : ∀ y ∈ before, p y = false) (hx : p x = true) :
    l.find? p = some x := by
  have hnone : before.find? p = none := List.find?_eq_none.2 fun y hy => by simp [hb y hy]
  rw [h, List.find?_append, hnone, Option.none_or, List.find?_cons_of_pos hx]

theorem takeWhile_length {n : Nat} (h : ∀ i, i < n → ∃ x, l[i]? = some x ∧ p x = true)
    (hn : ∀ x, l[n]? = some x → p x = false) : (l.takeWhile p).length = n := by
  induction l generalizing n with
  | nil =>
    cases n with
    | zero => rfl
    | succ n => obtain ⟨x, hx, _⟩ := h 0 (Nat.succ_pos n); simp at hx
  | cons y ys ih =>
    cases n with
    | zero => rw [List.takeWhile_cons_of_neg (by simp [hn y rfl])]; rfl
    | succ n =>
      obtain ⟨x, hx, hp⟩ := h 0 (Nat.succ_pos n)
      rw [List.getElem?_cons_zero, Option.some.injEq] at hx
      rw [List.takeWhile_cons_of_pos (hx ▸ hp), List.length_cons, ih (fun i hi => ?_) fun z hz => hn z (by simpa using hz)]
      simpa using h (i + 1) (Nat.succ_lt_succ hi)

theorem takeWhile_getElem? {i : Nat} (h : i < (l.takeWhile p).length) : (l.takeWhile p)[i]? = l[i]? := by
  conv_rhs => rw [← List.takeWhile_append_dropWhile (p := p) (l := l)]
  rw [List.getElem?_append_left h]

theorem takeWhile_next (h : l[(l.takeWhile p).length]? = some x) : p x = false := by
  induction l with
  | nil => simp at h
  | cons y ys ih =>
    by_cases hy : p y = true
    · rw [List.takeWhile_cons_of_pos hy] at h
      exact ih (by simpa using h)
    · rw [List.takeWhile_cons_of_neg hy] at h
      rw [List.length_nil, List.getElem?_cons_zero, Option.some.injEq] at h
      simpa [h] using hy

end Lists

/-! ### What the walk sees -/

section Views

variable {t : TariffSet} {z : Nat} {v : View} {treat : Option ClassEntry} {ask : Ask} {first k : Nat} {c : ClassEntry}

theorem viewFrom_noStay (h : treatmentAt t (z / 60) = .noStay) : viewFrom t z = none := if_pos (by simp [h])

/-- The treatments of a horizon up to the first NO_STAY. -/
theorem takeWhile_stays {all : List Treatment} {start : Nat} (hlen : all.length = 10080)
    (hget : ∀ i, i < 10080 → all[i]? = some (treatmentAt t (start + i))) :
    (all.takeWhile (· != .noStay)).length ≤ 10080
      ∧ (∀ i, i < (all.takeWhile (· != .noStay)).length →
          (all.takeWhile (· != .noStay))[i]? = some (treatmentAt t (start + i)) ∧ treatmentAt t (start + i) ≠ .noStay)
      ∧ ((all.takeWhile (· != .noStay)).length < 10080 →
          treatmentAt t (start + (all.takeWhile (· != .noStay)).length) = .noStay) := by
  have hle : (all.takeWhile (· != .noStay)).length ≤ 10080 := hlen ▸ (List.takeWhile_prefix _).length_le
  refine ⟨hle, fun i hi => ?_, fun hlt => by simpa using takeWhile_next (hget _ hlt)⟩
  have hsees := (takeWhile_getElem? hi).trans (hget i (hi.trans_le hle))
  exact ⟨hsees, by simpa using List.mem_takeWhile_imp (List.mem_iff_getElem?.2 ⟨i, hsees⟩)⟩

/-- A view from a minute that can be stayed in: the treatments up to the first NO_STAY, or to the horizon (R82, R83). -/
theorem viewFrom_some (h : treatmentAt t (z / 60) ≠ .noStay) :
    ∃ v, viewFrom t z = some v ∧ v.start = z / 60 ∧ v.minutes.length ≤ 10080
      ∧ (∀ i, i < v.minutes.length →
          v.minutes[i]? = some (treatmentAt t (z / 60 + i)) ∧ treatmentAt t (z / 60 + i) ≠ .noStay)
      ∧ (v.minutes.length < 10080 → treatmentAt t (z / 60 + v.minutes.length) = .noStay)
      ∧ (v.clearway = true ↔ v.minutes.length < 10080) := by
  obtain ⟨hle, hsees, hstop⟩ := takeWhile_stays (treatsFrom_length t (z / 60) horizonMinutes) (treatsFrom_get t (z / 60) horizonMinutes)
  exact ⟨_, if_neg (by simpa using h), rfl, hle, hsees, hstop, decide_eq_true_iff⟩

theorem walk_noStay (h : treatmentAt t (z / 60) = .noStay) : walk t z treat ask = .noStayNow := by
  rw [walk, viewFrom_noStay h]

theorem walk_nothing (hv : viewFrom t z = some v) (h : ∀ i j : Nat, v.minutes[i]? ≠ some (.charged j)) :
    walk t z treat ask = .nothingToSell := by
  rw [walk, hv]
  dsimp only
  rw [firstCharged_none 0 _ h]

section FirstCharged

variable (hv : viewFrom t z = some v) (hk : v.minutes[first]? = some (.charged k))
  (hb : ∀ i, i < first → ∀ j, v.minutes[i]? ≠ some (.charged j))
include hv hk hb

/-- The walk on a view with a charged minute: by the treatment (R84). -/
theorem walk_charged :
    walk t z treat ask =
      match treat with
      | none => walkSteps t v treat first k ask
      | some c =>
        match c.kind with
        | .plain => walkSteps t v treat first k ask
        | .ladder => walkSteps t v treat first c.k ask
        | .exempt => walkExempt t v treat first k
        | .allowance =>
          match ask with
          | .allowance r m => walkAllowance t v treat first c.k r m
          | .amount r => walkAllowance t v treat first c.k r 0
          | .duration r => walkAllowance t v treat first c.k r 0 := by
  rw [walk, hv]
  dsimp only
  rw [firstCharged_some 0 first k _ hk hb, Nat.zero_add] <;>
    (cases treat with
      | none => rfl
      | some c => cases ask <;> rfl)

theorem walk_steps {l : Nat} (h : ((treat = none ∨ ∃ c, treat = some c ∧ c.kind = .plain) ∧ l = k)
      ∨ ∃ c, treat = some c ∧ c.kind = .ladder ∧ l = c.k) : walk t z treat ask = walkSteps t v treat first l ask := by
  rw [walk_charged hv hk hb]
  obtain ⟨rfl | ⟨c, rfl, hc⟩, rfl⟩ | ⟨c, rfl, hc, rfl⟩ := h
  · rfl
  · simp [hc]
  · simp [hc]

theorem walk_exempt (ht : treat = some c) (hc : c.kind = .exempt) : walk t z treat ask = walkExempt t v treat first k := by
  rw [walk_charged hv hk hb, ht]
  simp [hc]

theorem walk_allowance {r m : Nat} (ht : treat = some c) (hc : c.kind = .allowance) (ha : ask = .allowance r m) :
    walk t z treat ask = walkAllowance t v treat first c.k r m := by
  rw [walk_charged hv hk hb, ht, ha]
  simp [hc]

end FirstCharged

end Views

/-! ### The walks on a ladder -/

section Ladders

variable {t : TariffSet} {v : View} {treat : Option ClassEntry} {first k r a n : Nat}

theorem le_stepsShort_iff {l : Ladder} (hn : 1 ≤ n) : n ≤ stepsShort v l r ↔ n ≤ smax v l ∧ minutesOf l n < r := by
  rw [stepsShort, le_upTo_iff _ hn, decide_eq_true_iff]
  exact fun i j hij h => decide_eq_true ((minutesOf_mono l hij).trans_lt (of_decide_eq_true h))

variable (hmax : ∀ {n}, 1 ≤ n → (n ≤ smax v (ladderAt t k) ↔ sellable v (ladderAt t k) n = true))
include hmax

theorem smax_zero (h : sellable v (ladderAt t k) 1 = false) : smax v (ladderAt t k) = 0 := by
  by_contra hne
  exact absurd ((hmax le_rfl).1 (Nat.one_le_iff_ne_zero.2 hne)) (by simp [h])

theorem smax_ne_zero (hn : 1 ≤ n) (hs : sellable v (ladderAt t k) n = true) : smax v (ladderAt t k) ≠ 0 := by
  have := (hmax hn).2 hs
  omega

/-- BY_DURATION sells the first count that covers the request, or the last sellable one (R88). -/
theorem walkDuration_sells {covers : Bool} (hn : 1 ≤ n) (hs : sellable v (ladderAt t k) n = true)
    (h : (covers = true ∧ r ≤ minutesOf (ladderAt t k) n ∧ ∀ j, 1 ≤ j → j < n → minutesOf (ladderAt t k) j < r)
      ∨ (covers = false ∧ sellable v (ladderAt t k) (n + 1) = false ∧ minutesOf (ladderAt t k) n < r)) :
    walkDuration t v treat first k r =
      .sold (soldResult t v treat k first n (minutesOf (ladderAt t k) n) (priceOf (ladderAt t k) n) 0 none (some covers)
        (v.expiry (minutesOf (ladderAt t k) n))) := by
  have htop := (hmax hn).2 hs
  have hshort := fun {m : Nat} (hm : 1 ≤ m) => le_stepsShort_iff (v := v) (l := ladderAt t k) (r := r) hm
  have hfound : min (stepsShort v (ladderAt t k) r + 1) (smax v (ladderAt t k)) = n
      ∧ decide (stepsShort v (ladderAt t k) r < smax v (ladderAt t k)) = covers := by
    obtain ⟨rfl, hreach, hbefore⟩ | ⟨rfl, hno, hshy⟩ := h
    · have hlt : stepsShort v (ladderAt t k) r < n := by
        by_contra hge
        exact Nat.not_lt.2 hreach ((hshort hn).1 (Nat.not_lt.1 hge)).2
      have hge : n - 1 ≤ stepsShort v (ladderAt t k) r := by
        by_cases h1 : n = 1
        · omega
        · exact (hshort (by omega)).2 ⟨by omega, hbefore _ (by omega) (by omega)⟩
      exact ⟨by omega, decide_eq_true (by omega)⟩
    · have hge : n ≤ stepsShort v (ladderAt t k) r := (hshort hn).2 ⟨htop, hshy⟩
      have hle : smax v (ladderAt t k) ≤ n := by
        by_contra hlt
        exact absurd ((hmax (by omega)).1 (by omega : n + 1 ≤ _)) (by simp [hno])
      exact ⟨by omega, decide_eq_false (by omega)⟩
  rw [walkDuration]
  dsimp only
  rw [if_neg (smax_ne_zero hmax hn hs), hfound.1, hfound.2]

/-- BY_AMOUNT sells the count that the amount pays for, when it does not pay for the next (R87). -/
theorem walkAmount_sells {more : Option Nat} (hn : 1 ≤ n) (hs : sellable v (ladderAt t k) n = true)
    (hp : priceOf (ladderAt t k) n ≤ a)
    (hmore : sellable v (ladderAt t k) (n + 1) = true →
      a < priceOf (ladderAt t k) (n + 1) ∧ more = some (priceOf (ladderAt t k) (n + 1) - a))
    (hnone : sellable v (ladderAt t k) (n + 1) = false → more = none) :
    walkAmount t v treat first k a =
      .sold (soldResult t v treat k first n (minutesOf (ladderAt t k) n) (priceOf (ladderAt t k) n)
        (a - priceOf (ladderAt t k) n) more none (v.expiry (minutesOf (ladderAt t k) n))) := by
  have htop := (hmax hn).2 hs
  have hnext : n + 1 ≤ smax v (ladderAt t k) ↔ sellable v (ladderAt t k) (n + 1) = true := hmax (by omega)
  have hsteps : stepsForAmount v (ladderAt t k) a = n := by
    refine Nat.le_antisymm (Nat.le_of_not_lt fun hlt => ?_) ((le_stepsForAmount_iff hn).2 ⟨htop, hp⟩)
    obtain ⟨hle, hcost⟩ := (le_stepsForAmount_iff (by omega : 1 ≤ n + 1)).1 hlt
    exact Nat.not_lt.2 hcost (hmore (hnext.1 hle)).1
  have hthen : (if n + 1 ≤ smax v (ladderAt t k) then some (priceOf (ladderAt t k) (n + 1) - a) else none) = more := by
    cases hc : sellable v (ladderAt t k) (n + 1) with
    | true => rw [if_pos (hnext.2 hc), (hmore hc).2]
    | false => rw [if_neg fun hle => absurd (hnext.1 hle) (by simp [hc]), hnone hc]
  have hfirst : priceOf (ladderAt t k) 1 ≤ a := (priceOf_mono _ hn).trans hp
  rw [walkAmount]
  dsimp only
  rw [if_neg (smax_ne_zero hmax hn hs), if_neg (Nat.not_lt.2 hfirst), hsteps, hthen]

end Ladders

section Exempt

variable {t : TariffSet} {v : View} {treat : Option ClassEntry} {first k stop r m n : Nat}

theorem walkExempt_sold (hle : first ≤ stop) (hcharged : ∀ i, first ≤ i → i < stop → ∃ j, v.minutes[i]? = some (.charged j))
    (hstop : ∀ j, v.minutes[stop]? ≠ some (.charged j)) :
    walkExempt t v treat first k =
      .sold (soldResult t v treat k first 0 0 0 0 none none (minuteTime (v.start + stop), !v.clearway && stop == 10080)) := by
  have hrun : ((v.minutes.drop first).takeWhile isCharged).length = stop - first := by
    refine takeWhile_length (fun i hi => ?_) fun x hx => ?_
    · obtain ⟨j, hj⟩ := hcharged (first + i) (by omega) (by omega)
      exact ⟨_, by rw [List.getElem?_drop, hj], rfl⟩
    · rw [List.getElem?_drop, Nat.add_sub_cancel' hle] at hx
      rw [Bool.eq_false_iff]
      intro hc
      obtain ⟨j, rfl⟩ := (isCharged_iff x).1 hc
      exact hstop j hx
  rw [walkExempt, hrun, Nat.add_sub_cancel' hle]
  rfl

theorem walkAllowance_sold (hm : 0 < m) (hnone : capMinutes (ladderAt t k) = none → n = min r (min m v.charged))
    (hsome : ∀ c, capMinutes (ladderAt t k) = some c → n = min (min r (min m v.charged)) c) :
    walkAllowance t v treat first k r m =
      .sold (soldResult t v treat k first 0 n 0 0 none (some (n == r)) (v.expiry n)) := by
  rw [walkAllowance, if_neg (Nat.pos_iff_ne_zero.1 hm)]
  cases hc : capMinutes (ladderAt t k) with
  | none => rw [hnone hc]
  | some c => rw [hsome c hc]

end Exempt

/-! ### The days, the day-parts and the classes of a set -/

section Days

variable {t : TariffSet} {d m : Nat} {k : DayKind}

theorem weekday_eq (d : Nat) : some (weekday d) = [DayKind.sat, .sun, .mon, .tue, .wed, .thu, .fri][d % 7]? := by
  unfold weekday
  have hlt : d % 7 < 7 := Nat.mod_lt d (by omega)
  revert hlt
  generalize d % 7 = n
  intro hlt
  match n, hlt with
  | 0, _ | 1, _ | 2, _ | 3, _ | 4, _ | 5, _ | 6, _ => rfl

theorem dayKind_weekday (h : ∀ c ∈ t.calendar, c.day = d → c.kind = none) : dayKind t d = weekday d := by
  have hnone : (t.calendar.find? fun c => c.kind.isSome && c.day == d) = none := by
    rw [List.find?_eq_none]
    intro c hc hd
    simp only [Bool.and_eq_true, beq_iff_eq] at hd
    simp [h c hc hd.2] at hd
  rw [dayKind, hnone]
  rfl

theorem dayKind_calendar {before after : List CalEntry} {c : CalEntry} (h : t.calendar = before ++ c :: after)
    (hb : ∀ x ∈ before, x.day = d → x.kind = none) (hd : c.day = d) (hk : c.kind = some k) : dayKind t d = k := by
  have hfind := find?_first (p := fun c : CalEntry => c.kind.isSome && c.day == d) h
    (fun x hx => by by_cases hxd : x.day = d <;> simp [hxd, hb x hx]) (by simp [hk, hd])
  rw [dayKind, hfind, Option.bind_some, hk, Option.getD_some]

theorem treatmentOf_free (h : ∀ p ∈ t.dayParts, maskHas p.mask k = true → p.start ≤ m → p.stop ≤ m) :
    treatmentOf t k m = .free := by
  have hnone : (t.dayParts.find? fun p => maskHas p.mask k && p.start ≤ m && m < p.stop) = none := by
    rw [List.find?_eq_none]
    intro p hp hd
    simp only [Bool.and_eq_true, decide_eq_true_eq, and_assoc] at hd
    obtain ⟨hmask, hstart, hstop⟩ := hd
    exact Nat.not_lt.2 (h p hp hmask hstart) hstop
  rw [treatmentOf, hnone]
  rfl

theorem treatmentOf_part {before after : List DayPart} {p : DayPart} (h : t.dayParts = before ++ p :: after)
    (hb : ∀ x ∈ before, maskHas x.mask k = true → x.start ≤ m → x.stop ≤ m) (hmask : maskHas p.mask k = true)
    (hstart : p.start ≤ m) (hstop : m < p.stop) : treatmentOf t k m = p.treat := by
  have hbefore : ∀ x ∈ before, (maskHas x.mask k && decide (x.start ≤ m) && decide (m < x.stop)) = false := by
    intro x hx
    rw [Bool.eq_false_iff]
    intro hd
    simp only [Bool.and_eq_true, decide_eq_true_eq, and_assoc] at hd
    obtain ⟨hxmask, hxstart, hxstop⟩ := hd
    exact Nat.not_lt.2 (hb x hx hxmask hxstart) hxstop
  rw [treatmentOf, find?_first h hbefore (by simp [hmask, hstart, hstop])]
  rfl

theorem classEntries_eq (h : t.classes.length = 6) :
    [PermitClass.resident, .visitor, .business, .trade, .carClub, .staff].map (classEntry t) = t.classes := by
  match hc : t.classes, h with
  | [a, b, c, d, e, f], _ => simp [classEntry, classCode, hc]

end Days

/-! ### QUOTE -/

section Quote

variable {mode : Option QuoteMode} {n : Nat} {cls : ClassParam} {s : State}

theorem isAllowance_iff (o : Option ClassEntry) : isAllowance o = true ↔ ∃ e, o = some e ∧ e.kind = .allowance := by
  cases o <;> simp [isAllowance]

theorem quoteParamsOk_iff :
    quoteParamsOk mode n cls = true ↔
      cls ≠ .undefinedClass
        ∧ ((mode = some .byAmount ∧ n ≤ 65535) ∨ (mode = some .byDuration ∧ 1 ≤ n ∧ n ≤ 10080)) := by
  unfold quoteParamsOk
  rcases mode with - | - | - <;> simp [and_comm]

theorem paramTreat_named (t : TariffSet) (c : PermitClass) : paramTreat t (.named c) = some (classEntry t c) := rfl

theorem allowanceByAmount_iff (active : Option TariffSet) :
    allowanceByAmount active mode cls = true ↔
      mode = some .byAmount ∧ ∃ t c, active = some t ∧ cls = .named c ∧ (classEntry t c).kind = .allowance := by
  unfold allowanceByAmount
  cases active with
  | none => simp
  | some t => cases cls <;> simp [isAllowance_iff, paramTreat]

theorem quoteBody_refused (h : quoteParamsOk mode n cls = false ∨ allowanceByAmount s.tariff.active mode cls = true) :
    quoteBody mode n cls s = refuse .badParameter s := if_pos (by simpa using h)

section Judged

variable (hq : quoteParamsOk mode n cls = true) (ha : allowanceByAmount s.tariff.active mode cls = false)
include hq ha

theorem quoteBody_unset (hz : s.clock.zone = none) : quoteBody mode n cls s = refuse .clockUnset s := by
  simp [quoteBody, hq, ha, State.zoneSec, hz]

theorem quoteBody_noTariff (hz : s.clock.zone.isSome = true) (ht : s.tariff.active = none) :
    quoteBody mode n cls s = refuse .noTariff (reraiseMissing s) := by
  obtain ⟨z, hz⟩ := Option.isSome_iff_exists.1 hz
  rw [ht] at ha
  simp [quoteBody, hq, ha, State.zoneSec, hz, ht]

theorem quoteBody_walks {z : Nat} {t : TariffSet} (hz : s.zoneSec = some z) (ht : s.tariff.active = some t) :
    quoteBody mode n cls s = quoteAnswer (walk t z (paramTreat t cls) (quoteAsk mode n (paramTreat t cls))) s := by
  rw [ht] at ha
  simp [quoteBody, hq, ha, hz, ht]

end Judged

/-- What QUOTE asks, by the treatment and the mode. -/
theorem quoteAsk_eq {c : Option ClassEntry} {ask : Ask} (hq : quoteParamsOk mode n cls = true)
    (h : (isAllowance c = true → ask = .allowance n 1440)
      ∧ (isAllowance c = false → (mode = some .byDuration → ask = .duration n) ∧ (mode = some .byAmount → ask = .amount n))) :
    quoteAsk mode n c = ask := by
  obtain ⟨_, hmode⟩ := quoteParamsOk_iff.1 hq
  obtain ⟨hyes, hno⟩ := h
  cases hc : isAllowance c with
  | true => exact (if_pos hc).trans (hyes hc).symm
  | false =>
    obtain ⟨hduration, hamount⟩ := hno hc
    obtain ⟨hm, _⟩ | ⟨hm, _⟩ := hmode
    · simp [quoteAsk, hc, hm, hamount hm]
    · simp [quoteAsk, hc, hm, hduration hm]

theorem quoteAnswer_refused {o : QuoteOutcome} (h : ∀ r, o ≠ .sold r) :
    quoteAnswer o s = refuse (outcomeStatus o) s := by
  cases o with
  | sold r => exact absurd rfl (h r)
  | _ => rfl

theorem reraiseMissing_stays
    (h : s.faultStands .tariffMissing 0 = true ∨ s.isMachine = false ∨ s.tariff.active.isSome = true) :
    reraiseMissing s = s := by
  unfold reraiseMissing raiseMissing
  obtain h | h | h := h
  · exact if_pos h
  · simp [h]
  · obtain ⟨t, ht⟩ := Option.isSome_iff_exists.1 h
    simp [ht]

theorem reraiseMissing_raises (h : s.faultStands .tariffMissing 0 = false) (hm : s.isMachine = true)
    (ha : s.tariff.active = none) : reraiseMissing s = raiseFault .tariffMissing 0 s := by
  simp [reraiseMissing, raiseMissing, h, hm, ha]

end Quote

/-- Settles O29. -/
theorem quoteAnswered : Obligations.QuoteAnswered := by
  refine ⟨fun mode v cls s h => ⟨fun hbad => ?refused, fun hq ha => ⟨fun hz => ?unset, fun hz ht => ?noTariff,
      fun z t c hz ht hc ask hask => ⟨fun r hr => ?sold, fun o ho hne => ?notSold⟩⟩⟩,
    fun t z treat ask => ⟨walk_noStay, fun hn => ?view⟩,
    fun t v treat first k r l hv hk hl hlen hblank hhor => ?duration,
    fun t v treat first k a l hv hk hl hlen hblank hhor n more hn hs hp hmore hnone => ?amount,
    fun t v treat first k stop hle _ hcharged hstop => walkExempt_sold hle hcharged hstop,
    fun t v treat first k r m n => ⟨fun hm => if_pos hm, walkAllowance_sold⟩,
    fun mode v cls active => ⟨quoteParamsOk_iff, allowanceByAmount_iff active, isAllowance_iff⟩,
    fun t => ⟨paramTreat_named t, rfl, classEntries_eq⟩,
    fun t d m => ⟨rfl, weekday_eq d, dayKind_weekday, fun before c after k => dayKind_calendar⟩,
    fun t k m => ⟨treatmentOf_free, fun before p after => treatmentOf_part⟩, fun mask => rfl, ⟨rfl, rfl, rfl, rfl, rfl⟩,
    fun s => ⟨reraiseMissing_stays, reraiseMissing_raises⟩⟩
  case refused => exact answers_of_host rfl h (quoteBody_refused hbad)
  case unset => exact answers_of_host rfl h (quoteBody_unset hq ha hz)
  case noTariff => exact answers_of_host rfl h (quoteBody_noTariff hq ha hz ht)
  case sold =>
    subst hc
    refine answers_of_host rfl h ((quoteBody_walks hq ha hz ht).trans ?_)
    rw [quoteAsk_eq hq hask, hr]
    rfl
  case notSold =>
    subst hc
    refine answers_of_host rfl h ((quoteBody_walks hq ha hz ht).trans ?_)
    rw [quoteAsk_eq hq hask, ho, quoteAnswer_refused hne]
    rfl
  case view =>
    obtain ⟨v, hv, hstart, hlen, hsees, hstop, hclear⟩ := viewFrom_some hn
    refine ⟨v, hstart, hlen, hsees, hstop, hclear, walk_nothing hv, fun first k hk hb => ⟨fun l hl => ⟨fun a ha => ?_,
      fun r hr => ?_⟩, fun c hc => ⟨fun he => walk_exempt hv hk hb hc he, fun ha r m hask => walk_allowance hv hk hb hc ha hask⟩⟩⟩
    · rw [walk_steps hv hk hb hl, ha, walkSteps]
    · rw [walk_steps hv hk hb hl, hr, walkSteps]
  case duration =>
    subst hl
    have hmax := fun {n : Nat} => le_smax_iff (v := v) (n := n) (le_minutesOf hv (ladderAt_mem hk) hlen hblank) hhor
    exact ⟨fun hno => if_pos (smax_zero hmax hno), fun n covers hn hs => walkDuration_sells hmax hn hs⟩
  case amount =>
    subst hl
    have hmax := fun {n : Nat} => le_smax_iff (v := v) (n := n) (le_minutesOf hv (ladderAt_mem hk) hlen hblank) hhor
    exact walkAmount_sells hmax hn hs hp hmore hnone

end Sys2Proof.Machine

/-! The commit of a sale: its refusals, its journal record, the tally, the own usage and the faults it may raise (R99 to R101,
R120, R127 to R132). -/

namespace Sys2Proof.Machine

/-! ### An own fault raised leaves the cash unit alone -/

section RaiseAndCash

variable {s : State}

theorem postFault_cash (e : FaultEntry) (cause : FaultCause) (after : Option FaultEntry) (s : State) :
    (postFault e cause after s).cash = s.cash := by
  unfold postFault
  split <;> rfl

theorem place_cash (p : Placer) (dest : Nat) (body : FrameBody) (s : State) : (place p dest body s).cash = s.cash := by
  unfold place
  split <;> rfl

theorem noteIf_cash (p : Prop) [Decidable p] (s : State) : (noteIf p s).cash = s.cash := by
  unfold noteIf
  split <;> rfl

theorem changeOwn_cash (e : FaultEntry) (cause : FaultCause) (s : State) : (changeOwn e cause s).cash = s.cash := by
  unfold changeOwn
  rw [postFault_cash, place_cash, noteIf_cash]

theorem makeRoom_cash {b : Bool} {t : State} (h : makeRoom b s = some t) : t.cash = s.cash := by
  unfold makeRoom at h
  split at h
  next => cases h; rfl
  next =>
    obtain ⟨e, _, rfl⟩ := Option.map_eq_some_iff.1 h
    rw [evict, postFault_cash]

theorem raiseFault_cash (kind : FaultKind) (subject : Nat) (s : State) : (raiseFault kind subject s).cash = s.cash := by
  unfold raiseFault tryRaise
  split
  next =>
    cases hr : makeRoom true s with
    | none => rfl
    | some t => exact (changeOwn_cash _ _ t).trans (makeRoom_cash hr)
  next => split <;> exact changeOwn_cash _ _ s

theorem takeOffer_cash (j : JournalRec) (escrow : List Nat) (s : State) :
    (takeOffer j escrow s).cash = writeCommit j escrow s.denoms s.cash := by
  unfold takeOffer raiseBoxFull
  dsimp only
  split
  next => exact raiseFault_cash _ _ _
  next => rfl

theorem addOwnUsage_cash (permit day minutes : Nat) (s : State) : (addOwnUsage permit day minutes s).cash = s.cash := by
  unfold addOwnUsage
  split
  next => rfl
  next => exact place_cash _ _ _ _

theorem addOwnUsage_tariff (permit day minutes : Nat) (s : State) : (addOwnUsage permit day minutes s).tariff = s.tariff := by
  simp

end RaiseAndCash

/-! ### The usage of a commit, and what a commit does -/

section Commit

variable {s : State} {r : Sale} {q : QuoteResult} {z : Nat}

theorem grantedOf_allowance (h : saleKind r = .allowanceUse) : grantedOf r q = some q.paidMinutes := if_pos (beq_iff_eq.2 h)

theorem grantedOf_other (h : saleKind r ≠ .allowanceUse) : grantedOf r q = none := if_neg (by simpa using h)

theorem commitUsage_other (h : saleKind r ≠ .allowanceUse) : commitUsage z r q s = s := by
  rw [commitUsage, grantedOf_other h]
  cases r.permit <;> rfl

theorem commitUsage_allowance {p : AppliedPermit} (hp : r.permit = some p) (h : saleKind r = .allowanceUse) :
    commitUsage z r q s = addOwnUsage p.number (z / 86400) q.paidMinutes s := by
  rw [commitUsage, grantedOf_allowance h, hp]

theorem commitUsage_leaves (z : Nat) (r : Sale) (q : QuoteResult) (s : State) :
    (commitUsage z r q s).cash = s.cash ∧ (commitUsage z r q s).tariff = s.tariff := by
  unfold commitUsage
  split
  next => exact ⟨addOwnUsage_cash _ _ _ _, addOwnUsage_tariff _ _ _ _⟩
  next => exact ⟨rfl, rfl⟩

theorem saleKind_permitUse : saleKind r = .permitUse ↔ ∃ p, r.permit = some p ∧ p.treat.kind = .exempt := by
  unfold saleKind
  cases r.permit with
  | none => simp
  | some p => cases hk : p.treat.kind <;> simp [hk]

theorem saleKind_allowanceUse : saleKind r = .allowanceUse ↔ ∃ p, r.permit = some p ∧ p.treat.kind = .allowance := by
  unfold saleKind
  cases r.permit with
  | none => simp
  | some p => cases hk : p.treat.kind <;> simp [hk]

theorem saleStale_iff : saleStale r = true ↔ ∃ p, r.permit = some p ∧ p.check = .staleValid := by
  unfold saleStale
  cases r.permit <;> simp

theorem commitBlocked_iff (r : Sale) (s : State) :
    commitBlocked r s = true ↔
      s.rounds.ctx.state = .removed ∨ (0 < r.coinTotal ∧ s.sense.groups[1]?.map (·.settled) = some .active) := by
  rw [commitBlocked, Bool.or_eq_true, Bool.and_eq_true, beq_iff_eq, decide_eq_true_eq, State.boxAbsent, groupActive_iff]

theorem usageOf_none_iff {permit day : Nat} :
    s.usageOf permit day = none ↔ ∀ e ∈ s.permits.usage, e.permit = permit → e.day ≠ day := by
  simp [State.usageOf, List.find?_eq_none, isUsage]

theorem usageRefused_iff (z : Nat) (r : Sale) (s : State) :
    usageRefused z r s = true ↔
      ∃ p, r.permit = some p ∧ p.treat.kind = .allowance
        ∧ (∀ e ∈ s.permits.usage, e.permit = p.number → e.day ≠ z / 86400)
        ∧ (96 ≤ s.permits.usage.length ∨ s.permits.lostDay = some (z / 86400)) := by
  unfold usageRefused
  cases r.permit with
  | none => simp
  | some p => simp [State.usageBlocked, usageOf_none_iff]

end Commit

/-! ### The judgement -/

section Judgement

variable {s : State} {r : Sale} {q : QuoteResult}

/-- The judgement of a commit, on the record the sale goes on with. -/
theorem answers_of_commit {st : Status} {res : Result} {u : State} (h : s.openTo machineOnly = true)
    (hs : s.sales.sale = some r)
    (hb : judgeCommit ((s.zoneSec).getD 0) { r with lastEvent := s.clock.elapsed, quote := requote s r } (saleGoesOn r s)
      = (st, res, u)) : answers .saleCommit s 21 st res u :=
  answers_of_onSale rfl h hs (body := saleCommitBody) hb

theorem judge_unavailable {z : Nat} {r : Sale} {u : State} (hq : r.quote = .allowanceUnavailable) :
    judgeCommit z r u = refuse (if commitBlocked r u then .cashBlocked else .allowanceUnavailable) u := by
  rw [judgeCommit, hq]

theorem judge_exhausted {z : Nat} {r : Sale} {u : State} (hq : r.quote = .allowanceExhausted) :
    judgeCommit z r u =
      refuse
        (if commitBlocked r u then .cashBlocked
          else if usageRefused z r u then .allowanceUnavailable
          else .allowanceExhausted) u := by
  rw [judgeCommit, hq]

theorem judge_sold_blocked {z : Nat} {r : Sale} {u : State} (hq : r.quote = .sold q) (hb : commitBlocked r u = true) :
    judgeCommit z r u = refuse .cashBlocked u := by
  rw [judgeCommit, hq]
  exact if_pos hb

theorem judge_sold_unusable {z : Nat} {r : Sale} {u : State} (hq : r.quote = .sold q) (hb : commitBlocked r u = false)
    (hu : usageRefused z r u = true) : judgeCommit z r u = refuse .allowanceUnavailable u := by
  rw [judgeCommit, hq]
  exact (if_neg (by simp [hb])).trans (if_pos hu)

theorem judge_sold_full {z : Nat} {r : Sale} {u : State} (hq : r.quote = .sold q) (hb : commitBlocked r u = false)
    (hu : usageRefused z r u = false) (hf : journalFull u.cash = true) :
    judgeCommit z r u = refuse .journalFull (raiseJournalFull u) := by
  rw [judgeCommit, hq]
  exact (if_neg (by simp [hb])).trans ((if_neg (by simp [hu])).trans (if_pos hf))

theorem judge_sold_passes {z : Nat} {r : Sale} {u : State} (hq : r.quote = .sold q) (hb : commitBlocked r u = false)
    (hu : usageRefused z r u = false) (hf : journalFull u.cash = false) : judgeCommit z r u = commitSale z r q u := by
  rw [judgeCommit, hq]
  exact (if_neg (by simp [hb])).trans ((if_neg (by simp [hu])).trans (if_neg (by simp [hf])))

/-- The ticket's `covers` is given for an ALLOWANCE sale only (R101). -/
theorem commitSale_eq (z : Nat) (r : Sale) (q : QuoteResult) (u : State) :
    commitSale z r q u =
      (.ok,
        .ticket
          { seq := u.cash.nextSeq, start := q.start, paidFrom := q.paidFrom, expiry := q.expiry, paid := q.price
            excess := q.excess, permit := r.permit.map (·.number), key := r.pin, kind := saleKind r
            stale := saleStale r, horizon := q.horizon, granted := grantedOf r q
            covers := if saleKind r = .allowanceUse then q.covers else none },
        endSale (commitUsage z r q (takeOffer (saleRecord z r q) r.escrow u))) := by
  rw [commitSale, ticketOf, if_congr beq_iff_eq rfl rfl]
  rfl

end Judgement

/-! ### The journal -/

section Journal

variable {c : Cash}

theorem isProtected_iff (c : Cash) (seq : Nat) :
    isProtected c seq = true ↔
      (∃ o, c.openSeg = some o ∧ o.firstSeq ≤ seq ∧ seq < o.firstSeq + o.count)
        ∨ ∃ sp ∈ c.spans, sp.firstSeq ≤ seq ∧ seq ≤ sp.lastSeq := by
  unfold isProtected
  cases c.openSeg <;> simp [inSpan]

theorem journalFull_iff (c : Cash) :
    journalFull c = true ↔ c.nextSeq = 4294967296 ∨ (2048 < c.nextSeq ∧ isProtected c (c.nextSeq - 2048) = true) := by
  simp [journalFull]

theorem placeRecord_grows {j : List JournalRec} {r : JournalRec} (h : j.length < 2048) : placeRecord r j = j ++ [r] := by
  rw [placeRecord, Nat.sub_eq_zero_of_le h, List.drop_zero]

theorem placeRecord_overwrites {j : List JournalRec} {r x : JournalRec} (h : j.length = 2047) :
    placeRecord r (x :: j) = j ++ [r] := by
  rw [placeRecord, List.length_cons, h]
  rfl

/-- The record a full ring overwrites is the one 2,048 back, and a journal that is not full does not protect it. -/
theorem protected_kept {r x : JournalRec} (h : JournalInv c.journal c.nextSeq) (hf : journalFull c = false)
    (hx : x ∈ c.journal) (hp : isProtected c x.seq = true) : x ∈ placeRecord r c.journal := by
  obtain hk | hseq := journalInv_kept (r := r) h hx
  · exact hk
  · obtain ⟨_, hmap⟩ := h
    have hpos : 1 ≤ x.seq := by
      have hm : x.seq ∈ c.journal.map (·.seq) := List.mem_map_of_mem hx
      rw [hmap, List.mem_range'_1] at hm
      omega
    have hfull : journalFull c = true := (journalFull_iff c).2 (.inr ⟨by omega, by rwa [← hseq, Nat.add_sub_cancel]⟩)
    simp [hfull] at hf

theorem addOwnUsage_due {permit day minutes : Nat} {s : State} (h : s.permits.ownDay ≤ day) {e : UsageEntry}
    (he : e = raiseOwn s.own minutes
      ((s.usageOf permit day).getD { permit := permit, day := day, contribs := [], saturated := false })) :
    addOwnUsage permit day minutes s =
      place .other 0 (.usage (.single day (s.permits.ownCtr + 1) permit ((contribOf s.own e).getD 0)))
        { s with
          link := { s.link with changedAt := some s.clock.elapsed }
          permits := { s.permits with usage := putUsage e s.permits.usage, ownCtr := s.permits.ownCtr + 1 } } := by
  subst he
  exact if_neg (Nat.not_lt.2 h)

theorem raiseOwn_cases {own minutes : Nat} {e e' : UsageEntry}
    (hheld : ∀ m, contribOf own e = some m → e' = { e with contribs := insertContrib own (m + minutes) e.contribs })
    (hroom : contribOf own e = none → e.contribs.length < 6 →
      e' = { e with contribs := insertContrib own minutes e.contribs })
    (hfull : contribOf own e = none → 6 ≤ e.contribs.length →
      e' = { e with contribs := insertContrib own minutes e.contribs.dropLast, saturated := true }) :
    e' = raiseOwn own minutes e := by
  unfold raiseOwn
  split
  next m hm => exact hheld m hm
  next hn =>
    split
    next hl => exact hfull hn hl
    next hl => exact hroom hn (Nat.not_le.1 hl)

end Journal

/-- Settles O35. -/
theorem saleCommitted : Obligations.SaleCommitted := by
  refine ⟨fun r s h hs => ⟨fun hq => ?noStay, fun hq => ?nothing, fun hq => ?notEnough,
      fun hq => ⟨fun hb => ?unavailableBlocked, fun hb => ?unavailable⟩,
      fun hq => ⟨fun hb => ?exhaustedBlocked, fun hb hu => ?exhaustedUsage, fun hb hu => ?exhausted⟩,
      fun q hq => ⟨fun hb => ?soldBlocked, fun hb hu => ?soldUsage, fun hb hu hf => ?soldFull⟩⟩,
    fun r q s h hs hq hb hu hf => ?commits, fun j escrow s => rfl, fun c => ⟨fun o ho => ?goesOn, fun ho => ?opens⟩,
    fun z r s => ⟨commitBlocked_iff r s, usageRefused_iff z r s⟩,
    fun r q => ⟨saleKind_permitUse, saleKind_allowanceUse, saleStale_iff, ?granted⟩,
    fun c seq => ⟨isProtected_iff c seq, journalFull_iff c⟩, fun j r x => ⟨placeRecord_grows, placeRecord_overwrites⟩,
    fun c r hj => ⟨fun x hx => journalInv_kept hj hx, fun hf x hx hp => protected_kept hj hf hx hp⟩,
    fun a b v n as bs vs ns => ⟨rfl, rfl, List.sum_cons, rfl, ?noCoins⟩,
    fun permit day minutes s => ⟨fun hd => if_pos hd, fun hd e e' he ⟨hheld, hroom, hfull⟩ => ?usage⟩,
    fun full s => ⟨fun hm => ⟨?raisesBox, ?raisesJournal⟩, fun hm => ?leavesBox, fun hm => ?leavesJournal⟩⟩
  case noStay => exact answers_of_commit h hs (by simp [judgeCommit, hq, refuse])
  case nothing => exact answers_of_commit h hs (by simp [judgeCommit, hq, refuse])
  case notEnough => exact answers_of_commit h hs (by simp [judgeCommit, hq, refuse])
  case unavailableBlocked => exact answers_of_commit h hs ((judge_unavailable hq).trans (congrArg (refuse · _) (if_pos hb)))
  case unavailable =>
    exact answers_of_commit h hs ((judge_unavailable hq).trans (congrArg (refuse · _) (if_neg (ne_true_of_eq_false hb))))
  case exhaustedBlocked => exact answers_of_commit h hs ((judge_exhausted hq).trans (congrArg (refuse · _) (if_pos hb)))
  case exhaustedUsage =>
    exact answers_of_commit h hs ((judge_exhausted hq).trans
      (congrArg (refuse · _) ((if_neg (ne_true_of_eq_false hb)).trans (if_pos hu))))
  case exhausted =>
    exact answers_of_commit h hs ((judge_exhausted hq).trans
      (congrArg (refuse · _) ((if_neg (ne_true_of_eq_false hb)).trans (if_neg (ne_true_of_eq_false hu)))))
  case soldBlocked => exact answers_of_commit h hs (judge_sold_blocked hq hb)
  case soldUsage => exact answers_of_commit h hs (judge_sold_unusable hq hb hu)
  case soldFull => exact answers_of_commit h hs (judge_sold_full hq hb hu hf)
  case commits =>
    have hjudge := judge_sold_passes (z := (s.zoneSec).getD 0) (u := saleGoesOn r s)
      (r := { r with lastEvent := s.clock.elapsed, quote := requote s r }) hq hb hu hf
    refine ⟨_, answers_of_commit h hs (hjudge.trans (commitSale_eq _ _ _ _)), ?_⟩
    obtain ⟨hsales, htariff, hcash, -⟩ := endSale_leaves
      (commitUsage ((s.zoneSec).getD 0) r q (takeOffer (saleRecord ((s.zoneSec).getD 0) r q) r.escrow (saleGoesOn r s)))
    have hoffer := (takeOffer_keeps (saleRecord ((s.zoneSec).getD 0) r q) r.escrow (saleGoesOn r s)).2.2.2.1
    obtain ⟨husageCash, husageTariff⟩ := commitUsage_leaves ((s.zoneSec).getD 0) r q
      (takeOffer (saleRecord ((s.zoneSec).getD 0) r q) r.escrow (saleGoesOn r s))
    rw [husageTariff, hoffer] at htariff
    refine ⟨hsales, congrArg (·.pin) htariff, congrArg (·.retired) htariff, congrArg (·.active) htariff,
      congrArg (·.pending) htariff, hcash.trans (husageCash.trans (takeOffer_cash _ _ _)), ?_⟩
    rintro v rfl
    exact ⟨fun hk => congrArg endSale (commitUsage_other hk), fun p hp hk => congrArg endSale (commitUsage_allowance hp hk)⟩
  case goesOn => rw [segmentAfter, ho]
  case opens => rw [segmentAfter, ho]; rfl
  case granted => exact if_congr beq_iff_eq rfl rfl
  case noCoins => cases vs <;> rfl
  case usage =>
    subst he
    exact addOwnUsage_due hd (raiseOwn_cases hheld hroom hfull)
  case raisesBox => exact if_pos (by simpa using hm)
  case raisesJournal => exact if_pos hm
  case leavesBox =>
    exact if_neg (by simpa using fun hf : full = true => hm.resolve_left (by simp [hf]))
  case leavesJournal => exact if_neg (by simp [hm])

end Sys2Proof.Machine

/-! Commands that read the sheet, the round, the faults, the sense groups and the power unit; the collection reports and the
fault reports that are taken (R57, R141, R142, R154, R165, R168, R175, R177, R182). -/

namespace Sys2Proof.Machine

/-! ### A list with one entry of its kind -/

section OneOfAKind

variable {α : Type} {p : α → Bool} {l before after : List α} {x y : α}

theorem map_onlyOne (h : l = before ++ x :: after) (hb : ∀ z ∈ before, p z = false) (hx : p x = true)
    (ha : ∀ z ∈ after, p z = false) : (l.map fun z => if p z then y else z) = before ++ y :: after := by
  have hbefore : (before.map fun z => if p z then y else z) = before :=
    (List.map_congr_left fun z hz => if_neg (by simp [hb z hz])).trans (List.map_id' _)
  have hafter : (after.map fun z => if p z then y else z) = after :=
    (List.map_congr_left fun z hz => if_neg (by simp [ha z hz])).trans (List.map_id' _)
  rw [h, List.map_append, List.map_cons, hbefore, hafter, if_pos hx]

end OneOfAKind

/-! ### The sheet -/

section Sheet

variable {s : State} {n : Nat} {d held : CollectionData} {x : Nat × CollectionData}

theorem isSheetKey_false : isSheetKey n d.firstSeg x = false ↔ x.1 ≠ n ∨ x.2.firstSeg ≠ d.firstSeg := by
  rw [isSheetKey, Bool.and_eq_false_iff, beq_eq_false_iff_ne, beq_eq_false_iff_ne]

theorem takeReport_idle (h : s.rounds.ctx.state = .idle) : takeReport n d s = s := if_pos (beq_iff_eq.2 h)

theorem takeReport_new (h : s.rounds.ctx.state ≠ .idle)
    (hn : ∀ x ∈ s.rounds.sheet, x.1 ≠ n ∨ x.2.firstSeg ≠ d.firstSeg) :
    takeReport n d s =
      if s.rounds.sheet.length < 32 then
        sendAck n d (postReport n d false (setSheet (s.rounds.sheet ++ [(n, d)]) s))
      else postEvent (.sheetFull n d.firstSeg d.lastSeg) s := by
  have hfind : s.rounds.sheet.find? (isSheetKey n d.firstSeg) = none :=
    List.find?_eq_none.2 fun x hx => by simp [isSheetKey_false.2 (hn x hx)]
  refine (if_neg (by simpa using h)).trans ?_
  rw [hfind]

theorem takeReport_held (h : s.rounds.ctx.state ≠ .idle)
    (hf : s.rounds.sheet.find? (isSheetKey n d.firstSeg) = some (n, held)) :
    takeReport n d s =
      if segmentsAbove d.firstSeg held.lastSeg < segmentsAbove d.firstSeg d.lastSeg then
        sendAck n d (postReport n d true
          (setSheet (s.rounds.sheet.map fun x => if isSheetKey n d.firstSeg x then (n, d) else x) s))
      else sendAck n d s := by
  refine (if_neg (by simpa using h)).trans ?_
  rw [hf]

end Sheet

/-- Settles O45. -/
theorem sheetRead : Obligations.SheetRead := by
  refine ⟨fun index s h hs => ⟨fun hr => ?refused, fun hr => ⟨fun hi => ?noPlace, fun hi =>
      ⟨s.rounds.sheet[index]?, ?read, fun hn => List.getElem?_eq_none hn, fun hlt => List.getElem?_eq_getElem hlt⟩⟩⟩,
    fun first seg => rfl, fun n d s => ⟨takeReport_idle, fun hc =>
      ⟨fun hn => ⟨fun hl => ?entered, fun hl => ?full⟩,
        fun before held after hsheet hseg hb ha => ⟨fun hab => ?replaced, fun hab => ?acked⟩⟩⟩⟩
  case refused => exact answers_of_hostAny rfl h (by simp [guarded, hs, collectorOnly, hr, refuse])
  case noPlace =>
    exact answers_of_host rfl (by simp [State.openTo, h, hs, collectorOnly, hr]) (body := readSheetBody index) (if_pos hi)
  case read =>
    exact answers_of_host rfl (by simp [State.openTo, h, hs, collectorOnly, hr]) (body := readSheetBody index)
      (if_neg (Nat.not_lt.2 hi))
  case entered => exact (takeReport_new hc hn).trans (if_pos hl)
  case full => exact (takeReport_new hc hn).trans (if_neg (Nat.not_lt.2 hl))
  all_goals
    have hbefore : ∀ x ∈ before, isSheetKey n d.firstSeg x = false := fun x hx => isSheetKey_false.2 (hb x hx)
    have hkey : isSheetKey n d.firstSeg (n, held) = true := by simp [isSheetKey, hseg]
    have htaken := takeReport_held hc (find?_first hsheet hbefore hkey)
  case replaced =>
    refine htaken.trans ((if_pos hab).trans ?_)
    rw [map_onlyOne hsheet hbefore hkey fun x hx => isSheetKey_false.2 (ha x hx)]
    rfl
  case acked => exact htaken.trans (if_neg (Nat.not_lt.2 hab))

/-! ### The faults that are read, and the copies that are taken -/

section FaultTable

variable {s : State} {n : Nat} {e held : FaultEntry}

theorem applyCopy_other (h : e.owner ≠ n) : applyCopy n e s = s := if_pos h

theorem applyCopy_held (h : e.owner = n) (hf : findFault e.owner e.kind e.subject s.faults.table = some held) :
    applyCopy n e s =
      if held.change < e.change then
        postFault e .copy (some e) { s with faults := { s.faults with table := insertFault e s.faults.table } }
      else s := by
  refine (if_neg (not_not.2 h)).trans ?_
  rw [hf]

theorem applyCopy_new (h : e.owner = n) (hf : findFault e.owner e.kind e.subject s.faults.table = none) :
    applyCopy n e s =
      ((makeRoom false s).map fun u =>
        postFault e .copy (some e) { u with faults := { u.faults with table := insertFault e u.faults.table } }).getD s := by
  refine (if_neg (not_not.2 h)).trans ?_
  rw [hf]
  cases makeRoom false s <;> rfl

theorem makeRoom_room {own : Bool} (h : s.faults.table.length < 64) : makeRoom own s = some s := if_pos h

theorem makeRoom_full {own : Bool} (h : 64 ≤ s.faults.table.length) :
    makeRoom own s = (evictee s.own own s.faults.table).map fun x => evict x s := if_neg (Nat.not_lt.2 h)

theorem atOrAfter_true {o k j : Nat} : atOrAfter o k j e = true ↔ keyBefore e.owner (faultCode e.kind) e.subject o k j = false := by
  rw [atOrAfter, Bool.not_eq_true']

end FaultTable

/-! ### A series in reception -/

section Reception

variable {rx : Option SeriesRx} {ser : Series} {part now : Nat} {x : SeriesRx}

theorem joinSeries_same (h : x.ser = ser) :
    joinSeries (some x) ser part now = { x with got := insertNat part x.got, lastPart := now } := if_pos (beq_iff_eq.2 h)

theorem joinSeries_new (h : ∀ x, rx = some x → x.ser ≠ ser) :
    joinSeries rx ser part now = { ser := ser, got := [part], lastPart := now } := by
  cases rx with
  | none => rfl
  | some x => exact if_neg (by simpa using h x rfl)

theorem seriesComplete_iff : seriesComplete x = true ↔ ∀ i, i < x.ser.parts → i ∈ x.got := by
  simp [seriesComplete]

theorem faultAfterPart_complete {p : FaultPos} (hc : seriesComplete (joinSeries p.series ser part now) = true) :
    faultAfterPart p ser part now =
      { p with series := none, pos := if p.pos < ser.endPoint ∧ ser.start ≤ p.pos + 1 then ser.endPoint else p.pos } :=
  if_pos hc

theorem faultAfterPart_waits {p : FaultPos} (hc : seriesComplete (joinSeries p.series ser part now) = false) :
    faultAfterPart p ser part now = { p with series := some (joinSeries p.series ser part now) } := if_neg (by simp [hc])

end Reception

/-- Settles O46. -/
theorem roundAndFaultsRead : Obligations.RoundAndFaultsRead := by
  refine ⟨fun s h => ⟨?round, fun o k j hbad => ?badKey, fun o k j ho hj hk =>
      ⟨s.faults.table.find? (atOrAfter o k j), ?read, ?none, ?some⟩⟩,
    fun n s v => ⟨fun ser part es hv => ?series, fun counter e hv => ?single⟩,
    fun n e s => ⟨applyCopy_other, fun ho => ⟨fun held hf => ⟨fun hc => ?older, fun hc => ?newer⟩, fun hf =>
      ⟨fun hl => ?room, fun hl => ⟨fun hv => ?noRoom, fun x u hv hu => ?evicts⟩⟩⟩⟩,
    fun rx ser part now r hr => ⟨fun x hx hs => ?sameSeries, fun hs => ?newSeries, seriesComplete_iff, fun p hp => ?position⟩,
    fun n p => rfl⟩
  case round =>
    refine answers_of_host rfl h (body := readRoundBody) ?_
    rw [readRoundBody, visitLeft, if_congr beq_iff_eq rfl rfl]
    rfl
  case badKey =>
    refine answers_of_host rfl h (body := readFaultsBody o k j) (if_pos ?_)
    rwa [Option.isNone_iff_eq_none]
  case read =>
    refine answers_of_host rfl h (body := readFaultsBody o k j) (if_neg ?_)
    rw [Option.isNone_iff_eq_none]
    rintro (hlt | hlt | hn)
    · exact Nat.not_lt.2 ho hlt
    · exact Nat.not_lt.2 hj hlt
    · simp [hn] at hk
  case none =>
    intro hn x hx
    simpa [atOrAfter] using List.find?_eq_none.1 hn x hx
  case some =>
    intro x hx
    obtain ⟨hat, pre, post, hsplit, hpre⟩ := List.find?_eq_some_iff_append.1 hx
    exact ⟨pre, post, hsplit, atOrAfter_true.1 hat, fun y hy => by simpa [atOrAfter] using hpre y hy⟩
  case series => rw [hv]; rfl
  case single => rw [hv]; rfl
  case older => exact (applyCopy_held ho hf).trans (if_neg (Nat.not_lt.2 hc))
  case newer => exact (applyCopy_held ho hf).trans (if_pos hc)
  case room => rw [applyCopy_new ho hf, makeRoom_room hl]; rfl
  case noRoom => rw [applyCopy_new ho hf, makeRoom_full hl, hv]; rfl
  case evicts => rw [applyCopy_new ho hf, makeRoom_full hl, hv, hu]; rfl
  case sameSeries => rw [hr, hx, joinSeries_same hs]
  case newSeries => rw [hr, joinSeries_new hs]
  case position =>
    subst hp hr
    exact ⟨faultAfterPart_waits, faultAfterPart_complete⟩

/-! ### The sense groups, REST and the power unit -/

section Rest

variable {s : State}

theorem restEffect_not (h : s.power.state ≠ .awake ∨ s.port.events ≠ []) :
    restEffect s = { s with power := { s.power with restTaken := false } } := by
  refine if_neg ?_
  rw [Bool.and_eq_true, Bool.and_eq_true, beq_iff_eq, List.isEmpty_iff]
  rintro ⟨⟨_, ha⟩, he⟩
  exact h.elim (· ha) (· he)

theorem restEffect_rests (hr : s.power.restTaken = true) (ha : s.power.state = .awake) (he : s.port.events = []) :
    restEffect s =
      if s.power.warning.isSome then
        setDormantDue (goListening { s with power := { s.power with restTaken := false } })
      else goListening { s with power := { s.power with restTaken := false } } := if_pos (by simp [hr, ha, he])

end Rest

/-- Settles O49. -/
theorem senseAndRest : Obligations.SenseAndRest := by
  refine ⟨fun s h => ⟨answers_of_host rfl h rfl, fun hs => ?saleOpen, fun hs => ⟨fun he => ?events, fun he =>
      ⟨fun ha => ?awake, fun ha => ?asleep⟩⟩⟩,
    fun r s t hh hb hr ht => ⟨fun hn => ?stays, fun ha he => ⟨fun hw => ?listens, fun hw => ?dormantDue⟩⟩⟩
  case saleOpen => exact answers_of_host rfl h (body := restBody) (if_pos hs)
  case events => exact answers_of_host rfl h (by simp [restBody, hs, he, refuse])
  case awake => exact answers_of_host rfl h (by simp [restBody, hs, he, ha, okay])
  case asleep => exact answers_of_host rfl h (by simp [restBody, hs, he, ha, okay])
  all_goals
    subst ht
    refine acts_of_act rfl hh (f := readOut true) ((readOut_whole hb).trans ?_)
  case stays => exact restEffect_not hn
  case listens =>
    exact (restEffect_rests (by exact hr) (by exact ha) (by exact he)).trans (if_neg (by simp [hw]))
  case dormantDue =>
    exact (restEffect_rests (by exact hr) (by exact ha) (by exact he)).trans (if_pos hw)

/-- Settles O50. -/
theorem powerRead : Obligations.PowerRead := by
  refine fun s h => ⟨fun hs => ?notSetUp, fun hs => ?read⟩
  case notSetUp => exact answers_of_hostAny rfl h (by simp [guarded, hs, refuse])
  case read =>
    refine answers_of_host rfl (by simp [State.openTo, h, hs, anyRole]) (body := readPowerBody) ?_
    rw [readPowerBody, warningLeft]
    cases s.power.warning <;> rfl

end Sys2Proof.Machine

/-! The durations that run out: the intake's progress, a peer's silence, a section behind, a visit (R28, R44, R109, R145). -/

namespace Sys2Proof.Machine

/-! ### What each duration waits for -/

section Durations

variable {s : State} {i n t : Nat} {x : Intake} {p : PeerEntry}

theorem intakeStalled_iff (h : s.repl.intake = some x) :
    s.intakeStalled = true ↔ x.phase = .receiving ∧ x.progress + 3000 ≤ s.clock.elapsed := by
  simp [State.intakeStalled, h, State.hasRun]

theorem countFailure_again (h : ((s.wantOf x.obj).map (·.timeouts)).getD 0 + 1 < 3) :
    countFailure x s =
      requestIntake (mapWant x.obj (fun w => { w with timeouts := ((s.wantOf x.obj).map (·.timeouts)).getD 0 + 1 })
        (setIntake (some { x with phase := .requesting, placed := false }) s)) := if_pos h

theorem countFailure_excludes (hx : s.repl.intake = some x) (h : 3 ≤ ((s.wantOf x.obj).map (·.timeouts)).getD 0 + 1) :
    countFailure x s = updateIntake (mapWant x.obj (excludePeer x.provider) s) := by
  have hs : setIntake (some x) s = s := by rw [setIntake, ← hx]
  rw [countFailure, hs]
  exact if_neg (Nat.not_lt.2 h)

theorem visitOver_iff :
    s.visitOver = true ↔
      s.rounds.ctx.state = .visited ∧ s.doorOpen = false
        ∧ ∃ t, s.rounds.ctx.visitStart = some t ∧ t + 600000 ≤ s.clock.elapsed := by
  unfold State.visitOver
  cases s.rounds.ctx.visitStart <;> simp [State.hasRun, and_assoc]

end Durations

/-- Settles O58. -/
theorem durationsRunOut : Obligations.DurationsRunOut := by
  refine ⟨fun s hh => ⟨fun hx => ?noIntake, fun x hx => ⟨fun hw => ?intakeWaits, fun hr he n hn =>
      ⟨fun hlt => ?again, fun hge => ?excluded⟩⟩, fun n hp => ?noPeer, fun n p hp => ⟨fun hw => ?heard, fun t hd ht hlt => ?dormant,
        fun hs hl hst => ?silent⟩, fun i p hp => ⟨fun hw => ?notBehind, fun t ht => ⟨fun hlt => ?behind, fun hr hge u hu => ?stale⟩⟩,
      fun hw => ?noVisit, fun t ht => ⟨fun hlt => ?visiting, fun hv hd hge => ?visitOver⟩⟩,
    fun obj f s => ?mapWant, fun n w => rfl, fun n s => rfl⟩
  case noIntake => exact acts_of_act (exec_intakeProgressTimeout s) hh (by rw [hx])
  case intakeWaits =>
    have hno : ¬s.intakeStalled = true := by
      rw [intakeStalled_iff hx]
      rintro ⟨hr, he⟩
      exact hw.elim (fun hq => by simp [hr] at hq) (Nat.not_lt.2 he)
    refine acts_of_act (exec_intakeProgressTimeout s) hh ?_
    rw [hx]
    exact if_neg hno
  case again =>
    subst hn
    refine acts_of_act (exec_intakeProgressTimeout s) hh ?_
    rw [hx]
    exact (if_pos ((intakeStalled_iff hx).2 ⟨hr, he⟩)).trans (countFailure_again hlt)
  case excluded =>
    subst hn
    refine acts_of_act (exec_intakeProgressTimeout s) hh ?_
    rw [hx]
    exact (if_pos ((intakeStalled_iff hx).2 ⟨hr, he⟩)).trans (countFailure_excludes hx hge)
  case noPeer => exact acts_of_act (exec_peerSilence s n) hh (by rw [hp])
  case heard =>
    have hno : ¬silentDue s p = true := by
      rw [silentDue_iff]
      rintro ⟨hs, hl, hst⟩
      obtain hw | hw | hw := hw
      · exact hs hw
      · exact Nat.not_lt.2 hl hw
      · simp [hw] at hst
    refine acts_of_act (exec_peerSilence s n) hh ?_
    rw [hp]
    exact if_neg hno
  case dormant =>
    have hno : ¬silentDue s p = true := by
      rw [silentDue_iff]
      rintro ⟨-, -, hst⟩
      obtain hst | ⟨-, hst⟩ := hst
      · simp [hd] at hst
      · exact Nat.not_lt.2 (hst t ht) hlt
    refine acts_of_act (exec_peerSilence s n) hh ?_
    rw [hp]
    exact if_neg hno
  case silent =>
    have hdue : silentDue s p = true := by
      refine (silentDue_iff s p).2 ⟨hs, hl, hst.imp_right fun ⟨hd, t, ht, hge⟩ => ⟨hd, fun t' ht' => ?_⟩⟩
      cases ht.symm.trans ht'
      exact hge
    refine acts_of_act (exec_peerSilence s n) hh ?_
    rw [hp]
    exact if_pos hdue
  case notBehind =>
    subst hp
    refine acts_of_act (exec_sectionBehindExpiry s i) hh (if_neg ?_)
    rw [staleDue_iff]
    rintro ⟨hr, t, ht, -⟩
    exact hw.elim (fun hn => by simp [hn] at ht) (fun hraised => by simp [hraised] at hr)
  case behind =>
    subst hp
    refine acts_of_act (exec_sectionBehindExpiry s i) hh (if_neg ?_)
    rw [staleDue_iff]
    rintro ⟨-, t', ht', hge⟩
    cases ht.symm.trans ht'
    exact Nat.not_lt.2 hge hlt
  case stale =>
    subst hp hu
    exact acts_of_act (exec_sectionBehindExpiry s i) hh (if_pos ((staleDue_iff s i).2 ⟨hr, t, ht, hge⟩))
  case noVisit =>
    refine acts_of_act (f := expireVisit) rfl hh (if_neg ?_)
    rw [visitOver_iff]
    rintro ⟨hv, hd, -⟩
    exact hw.elim (· hv) (fun ho => by simp [ho] at hd)
  case visiting =>
    refine acts_of_act (f := expireVisit) rfl hh (if_neg ?_)
    rw [visitOver_iff]
    rintro ⟨-, -, t', ht', hge⟩
    cases ht.symm.trans ht'
    exact Nat.not_lt.2 hge hlt
  case visitOver => exact acts_of_act (f := expireVisit) rfl hh (if_pos (visitOver_iff.2 ⟨hv, hd, t, ht, hge⟩))
  case mapWant =>
    have hf : (fun w => if w.obj == obj then f w else w) = fun w => if w.obj = obj then f w else w :=
      funext fun w => if_congr beq_iff_eq rfl rfl
    rw [mapWant, hf]

end Sys2Proof.Machine

/-! The collector's commands, and how a machine takes a round and follows its collector's announces (R139, R140, R143, R144,
R153). -/

namespace Sys2Proof.Machine

/-! ### The transmit queue takes a frame, or does not (R31) -/

section Place

variable {s : State}

theorem canPlace_iff : s.canPlace = true ↔ s.link.tx.length < 8 ∧ s.power.state ≠ .dormant := by
  rw [State.canPlace, Bool.and_eq_true, decide_eq_true_eq, bne_iff_ne]

theorem canPlace_false_iff : s.canPlace = false ↔ 8 ≤ s.link.tx.length ∨ s.power.state = .dormant := by
  rw [← Bool.not_eq_true, canPlace_iff, not_and_or, Nat.not_lt, not_not]

theorem place_taken (p : Placer) (dest : Nat) (body : FrameBody) (h : s.canPlace = true) :
    place p dest body s =
      { s with link := { s.link with
        tx := s.link.tx ++ [{ dest := dest, body := body, attempt := 0, placer := p }] } } := if_pos h

theorem place_refused (p : Placer) (dest : Nat) (body : FrameBody) (h : s.canPlace = false) : place p dest body s = s :=
  if_neg (by simp [h])

theorem stationOk_iff {n : Nat} : stationOk n = true ↔ 1 ≤ n ∧ n ≤ 32 := by
  simp [stationOk]

end Place

/-! ### A round is opened, taken or followed -/

section Rounds

variable {s u : State} {n c : Nat} {p q : PeerEntry}

/-- A new round, opened after the round held, if one is OPEN, has been closed (R139). -/
theorem roundOpenBody_set (hz : s.clock.zone.isSome = true) (hn : n = if s.rounds.counter = 65535 then 1 else s.rounds.counter + 1)
    (hu : u = if s.rounds.ctx.state = .opened then closeOwnRound s else s) :
    roundOpenBody s =
      (.ok, .roundPlaced n u.canPlace,
        place .other 0 (.roundOpen n)
          { u with rounds := { s.rounds with
            counter := n, sheet := [], sheetRound := n, sheetOpened := s.zoneSec
            ctx := { round := n, collector := some s.own, state := .opened, visitRecord := none, visitStart := none } } }) := by
  have hkeeps : u.rounds = { s.rounds with ctx := u.rounds.ctx } ∧ u.own = s.own := by
    rw [hu]
    split
    next =>
      rw [closeOwnRound, place]
      split <;> exact ⟨rfl, rfl⟩
    next => exact ⟨rfl, rfl⟩
  obtain ⟨hrounds, hown⟩ := hkeeps
  have hnew : newRound s.zoneSec u =
      { u with rounds := { s.rounds with
        counter := n, sheet := [], sheetRound := n, sheetOpened := s.zoneSec
        ctx := { round := n, collector := some s.own, state := .opened, visitRecord := none, visitStart := none } } } := by
    have hnext : nextRound u.rounds.counter = n := by rw [hrounds, hn]; rfl
    rw [newRound, hnext, hown, hrounds]
  have hopens : roundOpenBody s =
      okay (.roundPlaced (newRound s.zoneSec u).rounds.ctx.round (newRound s.zoneSec u).canPlace)
        (place .other 0 (.roundOpen (newRound s.zoneSec u).rounds.ctx.round) (newRound s.zoneSec u)) := by
    refine (if_neg (by simpa [← Option.isNone_iff_eq_none] using hz)).trans ?_
    rw [if_congr (beq_iff_eq (a := s.rounds.ctx.state)) rfl rfl, ← hu]
  rw [hopens, hnew]
  rfl

theorem holdsRound_iff {x : RoundCtx} : holdsRound x n c = true ↔ x.round = n ∧ x.collector = some c := by
  rw [holdsRound, Bool.and_eq_true, beq_iff_eq, beq_iff_eq]

theorem takeRound_held (hs : s.rounds.ctx.state ≠ .idle) (hn : s.rounds.ctx.round = n)
    (hc : s.rounds.ctx.collector = some c) : takeRound n c s = s :=
  if_pos (by rw [Bool.and_eq_true, bne_iff_ne, holdsRound_iff]; exact ⟨hs, hn, hc⟩)

theorem takeRound_new (h : s.rounds.ctx.state = .idle ∨ s.rounds.ctx.round ≠ n ∨ s.rounds.ctx.collector ≠ some c) :
    takeRound n c s =
      postEvent (.roundOpened n c)
        { s with rounds := { s.rounds with
          ctx := { round := n, collector := some c, state := .opened, visitRecord := none, visitStart := none }
          log := s.rounds.log.map fun r => { r with due := true } } } := by
  refine if_neg ?_
  rw [Bool.and_eq_true, bne_iff_ne, holdsRound_iff]
  rintro ⟨hs, hn, hc⟩
  exact h.elim hs fun h => h.elim (· hn) (· hc)

theorem announceCloses_iff {x : RoundCtx} :
    announceCloses p x = true ↔
      x.state ≠ .idle ∧ x.collector = some p.station ∧ (p.round ≠ x.round ∨ p.roundState = .idle) := by
  rw [announceCloses, Bool.and_eq_true, Bool.and_eq_true, Bool.or_eq_true, bne_iff_ne, bne_iff_ne, beq_iff_eq, beq_iff_eq,
    and_assoc]

theorem collectorGone_iff :
    s.collectorGone = true ↔
      ∀ c q, s.rounds.ctx.collector = some c → s.peer c = some q → q.roundState ≠ .opened ∨ q.round ≠ s.rounds.ctx.round := by
  unfold State.collectorGone
  cases s.rounds.ctx.collector with
  | none => simp
  | some c =>
    rw [Option.bind_some]
    cases hq : s.peer c with
    | none => exact ⟨fun _ c' q hc hq' => (by cases hc; simp [hq] at hq'), fun _ => rfl⟩
    | some q =>
      have hshown : (!(q.roundState == .opened && q.round == s.rounds.ctx.round)) = true ↔
          q.roundState ≠ .opened ∨ q.round ≠ s.rounds.ctx.round := by simp
      refine hshown.trans ⟨fun h c' q' hc hq' => ?_, fun h => h c q rfl hq⟩
      cases hc
      cases hq.symm.trans hq'
      exact h

theorem announceOffers_iff :
    announceOffers p s = true ↔
      p.role = .collector ∧ p.roundState = .opened ∧ p.collector = some p.station
        ∧ (s.rounds.ctx.state = .idle ∨ (s.rounds.ctx.state = .opened ∧ s.collectorGone = true)) := by
  simp only [announceOffers, Bool.and_eq_true, Bool.or_eq_true, beq_iff_eq, and_assoc]

theorem peer_station (h : s.peer n = some p) : p.station = n := by
  simpa using List.find?_some h

theorem roundAnnounceNotice_peer (h : s.peer n = some p) :
    roundAnnounceNotice n s =
      followAnnounce p { s with rounds := { s.rounds with dueList := updateDue n p.due s.rounds.dueList } } := by
  rw [roundAnnounceNotice, h]
  rfl

theorem followAnnounce_machine (h : s.isMachine = true)
    (hu : u = if announceCloses p s.rounds.ctx then closeRound s else s) :
    followAnnounce p s = if announceOffers p u then takeRound p.round p.station u else u := by
  rw [hu]
  exact if_pos h

end Rounds

/-- Settles O44. -/
theorem roundsCommanded : Obligations.RoundsCommanded := by
  refine ⟨fun s h => ⟨fun hz => ?unset, fun n t hz hn ht => ?opened, fun hi => ⟨fun n => ?noVisit, ?noClose⟩, fun hi =>
      ⟨fun n hn => ?badStation, fun n h1 h2 hown => ?visits, ?closes⟩⟩,
    fun p dest body s => ⟨fun hl hd => place_taken p dest body (canPlace_iff.2 ⟨hl, hd⟩), fun hd =>
      place_refused p dest body (canPlace_false_iff.2 hd)⟩,
    fun n c s => ⟨takeRound_held, takeRound_new⟩,
    fun n s => ⟨fun hp => ?noPeer, fun p u hp hu => ⟨fun hm => ?noMachine, fun hm v hcl hst => ?follows⟩⟩⟩
  case unset => exact answers_of_host rfl h (body := roundOpenBody) (if_pos (by simp [hz]))
  case opened => exact answers_of_host rfl h (body := roundOpenBody) (roundOpenBody_set hz hn ht)
  case noVisit => exact answers_of_host rfl h (body := roundVisitBody n) (if_pos (beq_iff_eq.2 hi))
  case noClose => exact answers_of_host rfl h (body := roundCloseBody) (if_pos (beq_iff_eq.2 hi))
  case badStation =>
    refine answers_of_host rfl h (body := roundVisitBody n) ((if_neg (by simpa using hi)).trans (if_pos ?_))
    simp only [Bool.or_eq_true, Bool.not_eq_true', ← Bool.not_eq_true (stationOk n), stationOk_iff, beq_iff_eq]
    omega
  case visits =>
    refine answers_of_host rfl h (body := roundVisitBody n) ((if_neg (by simpa using hi)).trans (if_neg ?_))
    simp [stationOk, h1, h2, hown]
  case closes => exact answers_of_host rfl h (body := roundCloseBody) (if_neg (by simpa using hi))
  case noPeer => rw [roundAnnounceNotice, hp]
  case noMachine =>
    subst hu
    exact (roundAnnounceNotice_peer hp).trans (if_neg (ne_true_of_eq_false hm))
  case follows =>
    have hn : p.station = n := peer_station hp
    have hv : v = if announceCloses p u.rounds.ctx then closeRound u else u := by
      subst hu
      split
      next hc =>
        obtain ⟨hs, hcol, hr⟩ := announceCloses_iff.1 hc
        exact hcl hs (hn ▸ hcol) hr
      next hc =>
        refine hst ?_
        by_contra hnot
        rw [not_or, not_or, not_not, not_and_or, not_not] at hnot
        obtain ⟨hs, hcol, hr⟩ := hnot
        exact hc (announceCloses_iff.2 ⟨hs, hn.symm ▸ hcol, hr⟩)
    have hnotice : roundAnnounceNotice n s = if announceOffers p v then takeRound p.round n v else v := by
      have hum : u.isMachine = true := by rw [hu]; exact hm
      rw [roundAnnounceNotice_peer hp, ← hu, followAnnounce_machine hum hv, hn]
    have hpeer : v.peer = s.peer := by
      rw [hv, hu]
      split <;> rfl
    rw [hnotice]
    refine ⟨fun hrole hopen hcol hfree => if_pos ?offers, fun hno => if_neg ?keeps⟩
    case offers =>
      rw [announceOffers_iff, collectorGone_iff, hpeer, hn]
      exact ⟨hrole, hopen, hcol, hfree⟩
    case keeps =>
      rw [announceOffers_iff, collectorGone_iff, hpeer, hn]
      rintro ⟨hrole, hopen, hcol, hfree⟩
      obtain hno | hno | hno | ⟨hno1, hno2⟩ | ⟨ho, c, q, hc, hq, hqo, hqr⟩ := hno
      · exact hno hrole
      · exact hno hopen
      · exact hno hcol
      · exact hfree.elim hno1 fun hf => hno2 hf.1
      · obtain hf | ⟨-, hgone⟩ := hfree
        · simp [hf] at ho
        · exact (hgone c q hc hq).elim (· hqo) (· hqr)

end Sys2Proof.Machine

/-! The removal of the box: the snapshot of the cash unit, the log, the context that follows, and the acknowledgement (R133, R134,
R145 to R151). -/

namespace Sys2Proof.Machine

/-! ### The newest record and the newest span -/

section Newest

theorem mapLast_concat (f : LogRec → LogRec) (before : List LogRec) (r : LogRec) :
    mapLast f (before ++ [r]) = before ++ [f r] := by
  induction before with
  | nil => rfl
  | cons x xs ih =>
    obtain ⟨y, ys, hy⟩ := List.exists_cons_of_ne_nil (List.append_ne_nil_of_right_ne_nil xs (List.cons_ne_nil r []))
    rw [List.cons_append, hy, mapLast, ← hy, ih, List.cons_append]
    exact List.cons_ne_nil y ys

theorem extendLast_concat (seg last : Nat) (before : List Span) (sp : Span) :
    extendLast seg last (before ++ [sp]) = before ++ [{ sp with lastSeg := seg, lastSeq := last }] := by
  induction before with
  | nil => rfl
  | cons x xs ih =>
    obtain ⟨y, ys, hy⟩ := List.exists_cons_of_ne_nil (List.append_ne_nil_of_right_ne_nil xs (List.cons_ne_nil sp []))
    rw [List.cons_append, hy, extendLast, ← hy, ih, List.cons_append]
    exact List.cons_ne_nil y ys

theorem fit32_of_lt {n : Nat} (h : n < 4294967296) : fit32 n = n := if_pos h

theorem fit48_of_lt {n : Nat} (h : n < 281474976710656) : fit48 n = n := if_pos h

/-- Merged counts add up index by index where the sum fits its field (R146). -/
theorem addCounts_fit {as bs : List Nat} {j a b : Nat} (ha : as[j]? = some a) (hb : bs[j]? = some b)
    (h : a + b < 4294967296) : ((addCounts as bs).map fit32)[j]? = some (a + b) := by
  rw [List.getElem?_map, addCounts, List.getElem?_zipWith, ha, hb]
  exact congrArg some (fit32_of_lt h)

end Newest

/-! ### The record write of a removal -/

section Write

variable {s : State} {attended : Bool} {o : OpenSeg}

theorem snapshotForm_newSpan (h : s.rounds.log.length < 4) : s.snapshotForm = .newSpan := if_pos h

theorem snapshotForm_extend (h : 4 ≤ s.rounds.log.length) : s.snapshotForm = .extend := if_neg (Nat.not_lt.2 h)

/-- What a removal does to the cash position, whatever segment is open (R133). -/
theorem writeRemoval_cash (attended : Bool) (s : State) :
    (writeRemoval attended s).cash =
      { s.cash with
        counts := List.replicate 8 0, coinTotal := 0, totalValue := 0, mixed := false, openSeg := none
        lastSeg := (s.cash.openSeg.map (·.number)).getD s.cash.lastSeg
        spans := (s.cash.openSeg.map fun o =>
          spansAfter s.snapshotForm o.number o.firstSeq (s.cash.nextSeq - 1) s.cash.spans).getD s.cash.spans } := by
  unfold writeRemoval writeSnapshot snapData
  cases s.cash.openSeg <;> rfl

theorem writeRemoval_log (attended : Bool) (s : State) :
    writeRemoval attended s =
      { s with
        cash := (writeRemoval attended s).cash
        rounds := { s.rounds with log := (writeRemoval attended s).rounds.log } } := rfl

theorem writeRemoval_noSegment (h : s.cash.openSeg = none) : (writeRemoval attended s).rounds = s.rounds := by
  unfold writeRemoval logAfter snapData
  rw [h]
  rfl

theorem writeRemoval_newSpan (h : s.cash.openSeg = some o) (hl : s.rounds.log.length < 4) :
    (writeRemoval attended s).rounds.log =
      s.rounds.log ++
        [formRecord (snapData s.cash) o.number o.firstSeq (s.cash.nextSeq - 1) (removalRound s attended) attended s.zoneSec] := by
  unfold writeRemoval logAfter
  rw [snapshotForm_newSpan hl, show (snapData s.cash).segment = some (o.number, o.firstSeq, s.cash.nextSeq - 1) by
    rw [snapData, h]; rfl]

theorem writeRemoval_extend {before : List LogRec} {r : LogRec} (h : s.cash.openSeg = some o) (hl : 4 ≤ s.rounds.log.length)
    (hr : s.rounds.log = before ++ [r]) :
    (writeRemoval attended s).rounds.log =
      before ++
        [mergeRecord (snapData s.cash) o.number (s.cash.nextSeq - 1) (removalRound s attended) attended s.zoneSec r] := by
  unfold writeRemoval logAfter
  rw [snapshotForm_extend hl, show (snapData s.cash).segment = some (o.number, o.firstSeq, s.cash.nextSeq - 1) by
    rw [snapData, h]; rfl]
  exact (congrArg (mapLast _) hr).trans (mapLast_concat _ _ _)

theorem spans_newSpan (h : s.cash.openSeg = some o) (hl : s.rounds.log.length < 4) :
    (writeRemoval attended s).cash.spans =
      s.cash.spans ++
        [{ firstSeg := o.number, lastSeg := o.number, firstSeq := o.firstSeq, lastSeq := s.cash.nextSeq - 1 }] := by
  rw [writeRemoval_cash, h, snapshotForm_newSpan hl]
  rfl

theorem spans_extend {spans : List Span} {sp : Span} (h : s.cash.openSeg = some o) (hl : 4 ≤ s.rounds.log.length)
    (hs : s.cash.spans = spans ++ [sp]) :
    (writeRemoval attended s).cash.spans = spans ++ [{ sp with lastSeg := o.number, lastSeq := s.cash.nextSeq - 1 }] := by
  rw [writeRemoval_cash, h, snapshotForm_extend hl, hs]
  exact extendLast_concat _ _ _ _

theorem mergedRound (s : State) (r : LogRec) (attended : Bool) :
    (if (r.data.attended && attended) = true then removalRound s attended else 0) =
      if r.data.attended = true ∧ attended = true then s.rounds.ctx.round else 0 := by
  cases r.data.attended <;> cases attended <;> rfl

end Write

/-! ### The settled changes of the door and the box -/

section Changes

variable {s : State}

theorem attended_iff : s.attended = true ↔ s.rounds.ctx.state = .visited ∨ s.rounds.ctx.state = .removed := by
  rw [State.attended, Bool.or_eq_true, beq_iff_eq, beq_iff_eq]

theorem attended_false (hv : s.rounds.ctx.state ≠ .visited) (hr : s.rounds.ctx.state ≠ .removed) : s.attended = false :=
  Bool.eq_false_iff.2 fun h => (attended_iff.1 h).elim hv hr

theorem judgeRemoved_not (h : s.rounds.ctx.state ≠ .removed ∨ s.boxAbsent = true ∨ s.doorOpen = true) : judgeRemoved s = s := by
  refine if_neg ?_
  rw [Bool.and_eq_true, Bool.and_eq_true, beq_iff_eq, Bool.not_eq_true', Bool.not_eq_true']
  rintro ⟨⟨hr, hb⟩, hd⟩
  obtain h | h | h := h
  · exact h hr
  · simp [hb] at h
  · simp [hd] at h

theorem judgeRemoved_leaves (hr : s.rounds.ctx.state = .removed) (hb : s.boxAbsent = false) (hd : s.doorOpen = false) :
    judgeRemoved s = leaveRemoved s := if_pos (by simp [hr, hb, hd])

theorem expireVisit_not (h : s.visitOver = false) : expireVisit s = s := if_neg (by simp [h])

theorem doorChange_attended (h : s.attended = true) : doorChange s = judgeRemoved (expireVisit s) := if_pos h

theorem doorChange_unattended (h : s.attended = false) : doorChange s = if s.doorOpen then raiseFault .tamper 0 s else s :=
  if_neg (by simp [h])

theorem boxChange_unattended (h1 : s.rounds.ctx.state ≠ .visited) (h2 : s.rounds.ctx.state ≠ .removed) :
    boxChange s = if s.boxAbsent then unattendedRemoval s else s := by
  unfold boxChange
  cases hs : s.rounds.ctx.state <;> simp_all

theorem boxChange_visited (h : s.rounds.ctx.state = .visited) : boxChange s = if s.boxAbsent then attendedRemoval s else s := by
  rw [boxChange, h]

theorem boxChange_removed (h : s.rounds.ctx.state = .removed) : boxChange s = judgeRemoved s := by
  rw [boxChange, h]

theorem visitOver_false_of_state (h : s.rounds.ctx.state ≠ .visited) : s.visitOver = false :=
  Bool.eq_false_iff.2 fun hv => h (visitOver_iff.1 hv).1

theorem clearBoxFull_rounds (s : State) : (clearBoxFull s).rounds = s.rounds := by
  unfold clearBoxFull
  split
  next => exact clearFault_rounds _ _ _
  next => rfl

theorem unattendedRemoval_ctx (s : State) : (unattendedRemoval s).rounds.ctx = s.rounds.ctx := by
  unfold unattendedRemoval
  rw [raiseFault_rounds]
  exact congrArg (·.ctx) (clearBoxFull_rounds _)

theorem leaveRemoved_reported {seg : Nat} (h : s.rounds.ctx.visitRecord = some seg) (hr : ∃ r ∈ s.rounds.log, r.data.firstSeg = seg) :
    leaveRemoved s =
      { s with rounds := { s.rounds with
        ctx := { s.rounds.ctx with state := .reported }
        log := s.rounds.log.map fun r => if seg == r.data.firstSeg then { r with due := true } else r } } := by
  have hstarts : startsAt s.rounds.ctx.visitRecord = fun r => seg == r.data.firstSeg := by
    rw [h]
    rfl
  obtain ⟨r, hmem, hseg⟩ := hr
  refine (if_pos (List.any_eq_true.2 ⟨r, hmem, ?_⟩)).trans ?_
  · rw [hstarts]
    exact beq_iff_eq.2 hseg.symm
  · rw [hstarts]
    rfl

theorem leaveRemoved_opened (h : ∀ seg, s.rounds.ctx.visitRecord = some seg → ∀ r ∈ s.rounds.log, r.data.firstSeg ≠ seg) :
    leaveRemoved s =
      { s with rounds := { s.rounds with ctx := { s.rounds.ctx with state := .opened, visitRecord := none } } } := by
  refine if_neg fun hany => ?_
  obtain ⟨r, hmem, hr⟩ := List.any_eq_true.1 hany
  exact h _ (beq_iff_eq.1 hr) r hmem rfl

end Changes

/-! ### The acknowledgement of a record -/

section Ack

variable {s : State} {sender first last : Nat} {r : LogRec} {before after : List LogRec}

theorem hasSegments_false {x : LogRec} :
    (x.data.firstSeg == first && x.data.lastSeg == last) = false ↔ x.data.firstSeg ≠ first ∨ x.data.lastSeg ≠ last := by
  rw [Bool.and_eq_false_iff, beq_eq_false_iff_ne, beq_eq_false_iff_ne]

theorem takeAck_unknown (h : ∀ r ∈ s.rounds.log, r.data.firstSeg ≠ first ∨ r.data.lastSeg ≠ last) :
    takeAck sender first last s = s := by
  have hnone : (s.rounds.log.find? fun r => r.data.firstSeg == first && r.data.lastSeg == last) = none :=
    List.find?_eq_none.2 fun x hx => by simp only [hasSegments_false.2 (h x hx)]; decide
  rw [takeAck, hnone]

/-- The log without the only record of its kind. -/
theorem filter_others {α : Type} {p : α → Bool} {l before after : List α} {x : α} (h : l = before ++ x :: after)
    (hb : ∀ z ∈ before, p z = false) (hx : p x = true) (ha : ∀ z ∈ after, p z = false) :
    (l.filter fun z => !p z) = before ++ after := by
  have hbefore : before.filter (fun z => !p z) = before := List.filter_eq_self.2 fun z hz => by simp [hb z hz]
  have hafter : after.filter (fun z => !p z) = after := List.filter_eq_self.2 fun z hz => by simp [ha z hz]
  rw [h, List.filter_append, List.filter_cons_of_neg (by simp [hx]), hbefore, hafter]

theorem takeAck_held (h : s.rounds.log = before ++ r :: after) (h1 : r.data.firstSeg = first) (h2 : r.data.lastSeg = last)
    (hb : ∀ x ∈ before, x.data.firstSeg ≠ first ∨ x.data.lastSeg ≠ last)
    (ha : ∀ x ∈ after, x.data.firstSeg ≠ first ∨ x.data.lastSeg ≠ last) :
    takeAck sender first last s =
      postEvent (.collectionAcked first last r.data.totalValue sender)
        (clearJournalFull
          { s with
            cash := { s.cash with spans := s.cash.spans.filter fun sp => !(sp.firstSeg == first && sp.lastSeg == last) }
            rounds := { s.rounds with
              log := before ++ after
              ctx :=
                if s.rounds.ctx.state = .reported ∧ s.rounds.ctx.visitRecord = some first then
                  { s.rounds.ctx with state := .opened, visitRecord := none }
                else s.rounds.ctx } }) := by
  have hkey : (r.data.firstSeg == first && r.data.lastSeg == last) = true := by simp [h1, h2]
  have hbefore : ∀ x ∈ before, (x.data.firstSeg == first && x.data.lastSeg == last) = false := fun x hx =>
    hasSegments_false.2 (hb x hx)
  have hafter : ∀ x ∈ after, (x.data.firstSeg == first && x.data.lastSeg == last) = false := fun x hx =>
    hasSegments_false.2 (ha x hx)
  have hctx : ackCtx first s.rounds.ctx =
      if s.rounds.ctx.state = .reported ∧ s.rounds.ctx.visitRecord = some first then
        { s.rounds.ctx with state := .opened, visitRecord := none }
      else s.rounds.ctx :=
    if_congr (by rw [Bool.and_eq_true, beq_iff_eq, beq_iff_eq]) rfl rfl
  rw [takeAck, find?_first h hbefore hkey]
  dsimp only
  rw [filter_others h hbefore hkey hafter, hctx]
  rfl

end Ack

/-- Settles O47. -/
theorem removalRecorded : Obligations.RemovalRecorded := by
  refine ⟨?write, ?attended, fun s => ⟨fun hv hb => ?boxThere, fun hr => ⟨boxChange_removed hr, ?doorRemoved⟩,
      fun hv hr => ⟨fun hb => ?unattended, fun hb => ?boxBack, ?ctxKept, ?roundsKept, fun hd => ?tamper, fun hd => ?closed⟩,
      fun hv t ht => ⟨fun hw => ?visiting, fun hd hge => ?expires⟩⟩,
    fun s => ⟨judgeRemoved_not, fun hr hb hd => ⟨fun seg hseg hrec => ?reported, fun hno => ?opened⟩⟩,
    fun sender first last s => ⟨takeAck_unknown, fun before r after h h1 h2 hb ha => takeAck_held h h1 h2 hb ha⟩,
    fun s => ⟨fun h => if_pos h, fun h => if_neg (Nat.not_lt.2 h), fun h => if_neg (by simp [h]), fun h => if_pos h⟩⟩
  case write =>
    rintro attended s _ rfl
    have hcash := writeRemoval_cash attended s
    refine ⟨congrArg (·.counts) hcash, congrArg (·.coinTotal) hcash, congrArg (·.totalValue) hcash, congrArg (·.mixed) hcash,
      congrArg (·.openSeg) hcash, congrArg (·.journal) hcash, congrArg (·.nextSeq) hcash, congrArg (·.values) hcash,
      writeRemoval_log attended s, fun ho => ⟨?_, ?_, writeRemoval_noSegment ho⟩,
      fun o ho => ⟨?_, fun hl => ⟨⟨_, spans_newSpan ho hl, rfl, rfl, rfl, rfl⟩, _, _, writeRemoval_newSpan ho hl, rfl, rfl, rfl,
        rfl, rfl, rfl, rfl, rfl, rfl, rfl, rfl, rfl, rfl, rfl⟩,
        fun hl before r spans sp hlog hspans => ⟨spans_extend ho hl hspans, _, _, writeRemoval_extend ho hl hlog, rfl, rfl, rfl,
          rfl, rfl, rfl, rfl, rfl, rfl, rfl, mergedRound s r attended, fun j a b hja hjb hlt => addCounts_fit hja hjb hlt,
          fit32_of_lt, fit48_of_lt⟩⟩⟩
    · rw [hcash, ho]; rfl
    · rw [hcash, ho]; rfl
    · rw [hcash, ho]; rfl
  case attended =>
    rintro s _ rfl hv hb
    refine (boxChange_visited hv).trans ((if_pos hb).trans ?_)
    unfold attendedRemoval collectionEvent removedCtx snapData
    cases s.cash.openSeg <;> rfl
  case boxThere => exact (boxChange_visited hv).trans (if_neg (by simp [hb]))
  case doorRemoved =>
    rw [doorChange_attended (attended_iff.2 (.inr hr)), expireVisit_not (visitOver_false_of_state (by simp [hr]))]
  case unattended => exact (boxChange_unattended hv hr).trans (if_pos hb)
  case boxBack => exact (boxChange_unattended hv hr).trans (if_neg (by simp [hb]))
  case ctxKept =>
    rw [boxChange_unattended hv hr]
    split
    next => exact unattendedRemoval_ctx s
    next => rfl
  case roundsKept =>
    rw [doorChange_unattended (attended_false hv hr)]
    split
    next => exact raiseFault_rounds _ _ _
    next => rfl
  case tamper => exact (doorChange_unattended (attended_false hv hr)).trans (if_pos hd)
  case closed => exact (doorChange_unattended (attended_false hv hr)).trans (if_neg (by simp [hd]))
  case visiting =>
    have hover : s.visitOver = false := by
      rw [← Bool.not_eq_true, visitOver_iff]
      rintro ⟨-, hd, t', ht', hge⟩
      cases ht.symm.trans ht'
      exact hw.elim (fun ho => by simp [ho] at hd) (Nat.not_lt.2 hge)
    rw [doorChange_attended (attended_iff.2 (.inl hv)), expireVisit_not hover, judgeRemoved_not (.inl (by simp [hv]))]
  case expires =>
    have hexp : expireVisit s =
        postEvent (.visitExpired s.rounds.ctx.round)
          { s with rounds := { s.rounds with ctx := { s.rounds.ctx with state := .opened, visitStart := none } } } :=
      if_pos (visitOver_iff.2 ⟨hv, hd, t, ht, hge⟩)
    rw [doorChange_attended (attended_iff.2 (.inl hv)), hexp]
    exact judgeRemoved_not (.inl (by simp [postEvent]))
  case reported => exact (judgeRemoved_leaves hr hb hd).trans (leaveRemoved_reported hseg hrec)
  case opened =>
    refine (judgeRemoved_leaves hr hb hd).trans (leaveRemoved_opened fun seg hseg => ?_)
    obtain hno | ⟨seg', hseg', hno⟩ := hno
    · simp [hno] at hseg
    · cases hseg.symm.trans hseg'
      exact hno

end Sys2Proof.Machine

/-! The commands on faults, an own fault's changes, the entry that a full table displaces, and the observer (R157 to R170). -/

namespace Sys2Proof.Machine

/-! ### An own entry changes -/

section OwnChange

variable {s : State} {e e' : FaultEntry} {k : FaultKind} {j : Nat}

theorem changeOwn_eq (e : FaultEntry) (cause : FaultCause) (s : State) (he : e' = { e with change := nextChange s.faults.counter }) :
    changeOwn e cause s =
      postFault e' cause (some e')
        (place .other 0 (.faultReport (.single e'.change e'))
          { s with
            link := if e'.change = s.faults.counter then s.link else { s.link with changedAt := some s.clock.elapsed }
            faults := { s.faults with table := insertFault e' s.faults.table, counter := e'.change } }) := by
  subst he
  unfold changeOwn noteIf noteCounterChange
  by_cases h : nextChange s.faults.counter = s.faults.counter <;> simp [h]

/-- The change counter of the entry given does not matter: the change stamps it. -/
theorem changeOwn_stamped (e : FaultEntry) (cause : FaultCause) (n : Nat) (s : State) :
    changeOwn { e with change := n } cause s = changeOwn e cause s := rfl

theorem ownFault_key (h : s.ownFault k j = some e) : e.owner = s.own ∧ e.kind = k ∧ e.subject = j := findFault_key h

/-- After an own change the answer gives the entry as the change left it. -/
theorem faultAnswer_changed (cause : FaultCause) (he : e' = { e with change := nextChange s.faults.counter })
    (ho : e.owner = s.own) (hk : e.kind = k) (hj : e.subject = j) :
    faultAnswer k j (changeOwn e cause s) = (.ok, .fault e', changeOwn e' cause s) := by
  subst he hk hj
  have hown := changeOwn_ownFault (e := { e with change := nextChange s.faults.counter }) cause ho rfl
  rw [changeOwn_stamped] at hown
  rw [faultAnswer, hown]
  rfl

theorem faultAnswer_held (h : s.ownFault k j = some e) : faultAnswer k j s = (.ok, .fault e, s) := by
  rw [faultAnswer, h]
  rfl

end OwnChange

/-! ### A raise, an acknowledgement, a clear -/

section Raise

variable {s : State} {e x : FaultEntry} {k : FaultKind} {j : Nat}

theorem tryRaise_new (h : s.ownFault k j = none) :
    tryRaise k j s = (makeRoom true s).map (changeOwn (freshFault k j s) .raise) := by
  rw [tryRaise, h]

theorem tryRaise_cleared (h : s.ownFault k j = some e) (hc : e.state = .cleared) :
    tryRaise k j s = some (changeOwn (freshFault k j s) .raise s) := by
  rw [tryRaise, h]
  dsimp only
  rw [hc]

theorem tryRaise_stands (h : s.ownFault k j = some e) (hc : e.state ≠ .cleared) :
    tryRaise k j s =
      some (changeOwn { e with occurrences := min (e.occurrences + 1) 255, lastRaised := s.zoneSec } .raise s) := by
  rw [tryRaise, h]
  dsimp only
  cases hs : e.state with
  | cleared => exact absurd hs hc
  | raised => rfl
  | acknowledged => rfl

theorem tryRaise_room (h : s.ownFault k j = none) (hl : s.faults.table.length < 64) :
    tryRaise k j s = some (changeOwn (freshFault k j s) .raise s) := by
  rw [tryRaise_new h, makeRoom_room hl]
  rfl

theorem tryRaise_noRoom (h : s.ownFault k j = none) (hl : 64 ≤ s.faults.table.length)
    (hv : evictee s.own true s.faults.table = none) : tryRaise k j s = none := by
  rw [tryRaise_new h, makeRoom_full hl, hv]
  rfl

theorem tryRaise_evicts (h : s.ownFault k j = none) (hl : 64 ≤ s.faults.table.length)
    (hv : evictee s.own true s.faults.table = some x) :
    tryRaise k j s = some (changeOwn (freshFault k j s) .raise (evict x s)) := by
  rw [tryRaise_new h, makeRoom_full hl, hv]
  rfl

theorem clearFault_none (h : s.ownFault k j = none) : clearFault k j s = s := by
  rw [clearFault, h]

theorem clearFault_held (h : s.ownFault k j = some e) :
    clearFault k j s = if e.state = .cleared then s else changeOwn { e with state := .cleared } .clear s := by
  rw [clearFault, h]
  exact if_congr beq_iff_eq rfl rfl

theorem ackFault_none (h : s.ownFault k j = none) : ackFault k j s = s := by
  rw [ackFault, h]

theorem ackFault_held (h : s.ownFault k j = some e) :
    ackFault k j s = if e.state = .raised then changeOwn { e with state := .acknowledged } .ack s else s := by
  rw [ackFault, h]
  exact if_congr beq_iff_eq rfl rfl

theorem evict_leaves (x : FaultEntry) (s : State) : (evict x s).own = s.own ∧ (evict x s).faults.counter = s.faults.counter := by
  rw [evict, postFault_own, postFault_faults]
  exact ⟨rfl, rfl⟩

theorem postFault_posted (cause : FaultCause) (after : Option FaultEntry)
    (h : s.isRole .gateway = true ∨ s.isRole .engineer = true ∨ e.owner = s.own) :
    postFault e cause after s = postEvent (.faultChanged e.owner e.kind e.subject cause (after.map faultFigures)) s :=
  if_pos (by rw [Bool.or_eq_true, Bool.or_eq_true, beq_iff_eq, or_assoc]; exact h)

theorem postFault_silent (cause : FaultCause) (after : Option FaultEntry) (hg : s.isRole .gateway = false)
    (he : s.isRole .engineer = false) (ho : e.owner ≠ s.own) : postFault e cause after s = s :=
  if_neg (by simp [hg, he, ho])

end Raise

/-! ### The bodies of the commands -/

section Bodies

variable {s : State} {e : FaultEntry} {k : FaultKind} {owner code subject target n : Nat}

theorem hostKind_none (h : code = 0 ∨ 8 < code) : hostKind code = none := by
  obtain rfl | h := h
  · rfl
  · exact if_neg (Nat.not_le.2 h)

theorem raiseFaultBody_raised {t : State} (hk : hostKind code = some k) (ht : tryRaise k 0 s = some t) :
    raiseFaultBody code s = faultAnswer k 0 t := by
  rw [raiseFaultBody, hk]
  dsimp only
  rw [ht]

theorem raiseFaultBody_full (hk : hostKind code = some k) (ht : tryRaise k 0 s = none) :
    raiseFaultBody code s = refuse .tableFull s := by
  rw [raiseFaultBody, hk]
  dsimp only
  rw [ht]

theorem keyKind_none
    (h : owner < 1 ∨ 32 < owner ∨ 32 < subject ∨ (code ≤ 16 ∧ subject ≠ 0) ∨ faultKindOf code = none) :
    keyKind owner code subject = none := by
  unfold keyKind
  split
  next hc =>
    simp only [Bool.and_eq_true, Bool.or_eq_true, decide_eq_true_eq, beq_iff_eq, stationOk_iff] at hc
    obtain h | h | h | ⟨h, h'⟩ | h := h
    · omega
    · omega
    · omega
    · omega
    · exact h
  next => rfl

theorem keyKind_some (h1 : 1 ≤ owner) (h2 : owner ≤ 32) (hs : subject ≤ 32) (hc : 16 < code ∨ subject = 0) :
    keyKind owner code subject = faultKindOf code :=
  if_pos (by simp only [Bool.and_eq_true, Bool.or_eq_true, decide_eq_true_eq, beq_iff_eq, stationOk_iff]; exact ⟨⟨⟨h1, h2⟩, hs⟩, hc⟩)

theorem ackFaultBody_eq (hk : keyKind owner code subject = some k) :
    ackFaultBody owner code subject s =
      if (findFault owner k subject s.faults.table).isNone then refuse .notFound s
      else if owner = s.own then faultAnswer k subject (ackFault k subject s)
      else placed owner (.faultAck k subject) s := by
  rw [ackFaultBody, hk]

theorem clearFaultBody_eq (hk : keyKind owner code subject = some k) :
    clearFaultBody owner code subject s =
      if owner = s.own then
        if (s.ownFault k subject).isNone then refuse .notFound s else faultAnswer k subject (clearFault k subject s)
      else placed owner (.faultClear k subject) s := by
  rw [clearFaultBody, hk]

theorem targetOk_iff : targetOk s target = true ↔ 1 ≤ target ∧ target ≤ 32 ∧ target ≠ s.own := by
  rw [targetOk, Bool.and_eq_true, stationOk_iff, bne_iff_ne, and_assoc]

theorem targetOk_false (h : target < 1 ∨ 32 < target ∨ target = s.own) : targetOk s target = false := by
  rw [← Bool.not_eq_true, targetOk_iff]
  omega

end Bodies

/-- The table keeps every entry of another key. -/
theorem insertFault_keeps {e y : FaultEntry} {t : List FaultEntry} (hy : y ∈ t) (hne : sameFault e y = false) :
    y ∈ insertFault e t := by
  induction t with
  | nil => cases hy
  | cons x xs ih =>
    rw [insertFault]
    split
    next => exact List.mem_cons_of_mem e hy
    next =>
      split
      next hsame =>
        refine List.mem_cons_of_mem e ((List.mem_cons.1 hy).resolve_left ?_)
        rintro rfl
        simp [hne] at hsame
      next =>
        obtain rfl | hy := List.mem_cons.1 hy
        · exact List.mem_cons_self
        · exact List.mem_cons_of_mem x (ih hy)

/-! ### The entry displaced from a full table (R166) -/

section Evictee

variable {t : List FaultEntry} {p : FaultEntry → Bool} {x : FaultEntry} {own n : Nat} {raise : Bool}

/-- The entries that step `n` of R166 considers; the fourth is for an own raise only. -/
def evictStep (own : Nat) (raise : Bool) (n : Nat) (e : FaultEntry) : Bool :=
  match n with
  | 1 => e.owner != own && e.state == .cleared
  | 2 => e.owner == own && e.state == .cleared
  | 3 => e.owner != own && e.state == .acknowledged
  | 4 => raise && (e.owner != own && e.state == .raised)
  | _ => false

theorem evictStep_iff {e : FaultEntry} :
    evictStep own raise n e = true ↔
      (n = 1 ∧ e.owner ≠ own ∧ e.state = .cleared) ∨ (n = 2 ∧ e.owner = own ∧ e.state = .cleared)
        ∨ (n = 3 ∧ e.owner ≠ own ∧ e.state = .acknowledged)
        ∨ (n = 4 ∧ raise = true ∧ e.owner ≠ own ∧ e.state = .raised) := by
  match n with
  | 0 => simp [evictStep]
  | 1 => simp [evictStep]
  | 2 => simp [evictStep]
  | 3 => simp [evictStep]
  | 4 => simp [evictStep]
  | m + 5 => simp [evictStep]

/-- The four steps of R166, each where the ones before it find no entry. -/
theorem evictee_steps (own : Nat) (raise : Bool) (t : List FaultEntry) :
    evictee own raise t =
      (firstEvicted (t.filter (evictStep own raise 1))).or
        ((firstEvicted (t.filter (evictStep own raise 2))).or
          ((firstEvicted (t.filter (evictStep own raise 3))).or (firstEvicted (t.filter (evictStep own raise 4))))) := by
  cases raise with
  | true => rfl
  | false =>
    have hfour : t.filter (evictStep own false 4) = [] := List.filter_eq_nil_iff.2 fun _ _ => Bool.false_ne_true
    rw [hfour]
    rfl

theorem firstEvicted_filter_none : firstEvicted (t.filter p) = none ↔ ∀ e ∈ t, p e = false := by
  rw [firstEvicted_none, List.filter_eq_nil_iff]
  simp

theorem firstEvicted_filter_some (h : firstEvicted (t.filter p) = some x) :
    x ∈ t ∧ p x = true ∧ ∀ e ∈ t, p e = true → evictBefore e x = false := by
  obtain ⟨hmem, hfirst⟩ := firstEvicted_spec h
  obtain ⟨hx, hp⟩ := List.mem_filter.1 hmem
  exact ⟨hx, hp, fun e he hpe => hfirst e (List.mem_filter.2 ⟨he, hpe⟩)⟩

theorem evictStep_range {e : FaultEntry} (h : evictStep own raise n e = true) : n = 1 ∨ n = 2 ∨ n = 3 ∨ n = 4 := by
  obtain ⟨h, -⟩ | ⟨h, -⟩ | ⟨h, -⟩ | ⟨h, -⟩ := evictStep_iff.1 h <;> simp [h]

theorem evictee_none_iff : evictee own raise t = none ↔ ∀ n, ∀ e ∈ t, evictStep own raise n e = false := by
  simp only [evictee_steps, Option.or_eq_none_iff, firstEvicted_filter_none]
  refine ⟨fun ⟨h1, h2, h3, h4⟩ n e he => Bool.eq_false_iff.2 fun hs => ?_, fun h => ⟨h 1, h 2, h 3, h 4⟩⟩
  obtain rfl | rfl | rfl | rfl := evictStep_range hs
  · simp [h1 e he] at hs
  · simp [h2 e he] at hs
  · simp [h3 e he] at hs
  · simp [h4 e he] at hs

/-- The displaced entry is one of the first step that considers any, and none of that step goes before it. -/
theorem evictee_some (h : evictee own raise t = some x) :
    x ∈ t ∧ ∃ n, evictStep own raise n x = true ∧ (∀ m, ∀ e ∈ t, evictStep own raise m e = true → n ≤ m)
      ∧ ∀ e ∈ t, evictStep own raise n e = true → evictBefore e x = false := by
  simp only [evictee_steps, Option.or_eq_some_iff, firstEvicted_filter_none] at h
  have hleast : ∀ n, (∀ m, 1 ≤ m → m < n → ∀ e ∈ t, evictStep own raise m e = false) →
      ∀ m, ∀ e ∈ t, evictStep own raise m e = true → n ≤ m := by
    intro n hn m e he hs
    by_contra hlt
    have hm : 1 ≤ m := by have := evictStep_range hs; omega
    simp [hn m hm (Nat.not_le.1 hlt) e he] at hs
  obtain h | ⟨h1, h | ⟨h2, h | ⟨h3, h⟩⟩⟩ := h
  all_goals obtain ⟨hx, hs, hfirst⟩ := firstEvicted_filter_some h
  · exact ⟨hx, 1, hs, hleast 1 (by omega), hfirst⟩
  · exact ⟨hx, 2, hs, hleast 2 (fun m hm hlt => by obtain rfl : m = 1 := by omega
                                                   exact h1), hfirst⟩
  · refine ⟨hx, 3, hs, hleast 3 fun m hm hlt => ?_, hfirst⟩
    obtain rfl | rfl : m = 1 ∨ m = 2 := by omega
    · exact h1
    · exact h2
  · refine ⟨hx, 4, hs, hleast 4 fun m hm hlt => ?_, hfirst⟩
    obtain rfl | rfl | rfl : m = 1 ∨ m = 2 ∨ m = 3 := by omega
    · exact h1
    · exact h2
    · exact h3

end Evictee

/-! ### The observer (R163, R164) -/

section Observer

variable {s : State} {subject : Nat}

theorem observes_iff :
    s.observes subject = true ↔
      (∃ p ∈ s.link.peers, p.station = subject)
        ∧ ∀ p ∈ s.link.peers, p.station < s.own → p.station ≠ subject → p.status ≠ .live := by
  have hlower : ∀ p : PeerEntry,
      (!(decide (p.station < s.own) && p.station != subject && p.status == .live)) = true ↔
        (p.station < s.own → p.station ≠ subject → p.status ≠ .live) := fun p => by
    simp only [Bool.not_eq_true', Bool.and_eq_false_iff, decide_eq_false_iff_not, bne_eq_false_iff_eq, beq_eq_false_iff_ne]
    tauto
  rw [State.observes, observedNow, List.contains_iff_mem, List.mem_filter, List.mem_map, noLowerLive, List.all_eq_true]
  exact and_congr_right' (forall₂_congr fun p _ => hlower p)

theorem observeNewly_eq (s : State) :
    observeNewly s =
      { (s.link.peers.filter fun p => s.observes p.station && !s.faults.observed.contains p.station).foldl
          (fun t p => raiseMatching p t) s with
        faults :=
          { ((s.link.peers.filter fun p => s.observes p.station && !s.faults.observed.contains p.station).foldl
              (fun t p => raiseMatching p t) s).faults with
            observed := observedNow s } } := rfl

theorem raiseMatching_kind {p : PeerEntry} {k : FaultKind} (h : matchingKind p.status = some k) :
    raiseMatching p s = if s.faultStands k p.station then s else raiseFault k p.station s := by
  rw [raiseMatching, h]

end Observer

/-- Settles O48. -/
theorem faultsCommanded : Obligations.FaultsCommanded := by
  refine ⟨fun code s h => ⟨fun hc => ?badKind, fun k new h1 h8 hk hnew => ⟨fun e he => ⟨fun hc => ?cleared, fun hc e' he' => ?stands⟩,
      fun he => ⟨fun hl => ?room, fun hl => ⟨fun hv => ?full, fun x hv => ?evicts⟩⟩⟩⟩,
    fun owner code subject s hbad => ⟨fun h => ?ackBad, fun h => ?clearBad⟩,
    fun owner code subject k s h1 h2 hs hc hk => ⟨fun h => ⟨fun hf => ?ackUnknown, fun e hf => ⟨fun ho => ?ackSent, fun ho hr => ?ackNot,
        fun ho hr e' he' => ?acked⟩⟩,
      fun h => ⟨fun ho => ?clearSent, fun ho hf => ?clearUnknown, fun e ho hf => ⟨fun hcl => ?clearNot, fun hcl e' he' => ?clears⟩⟩⟩,
    fun target n s => ⟨fun h => ⟨fun hbad => ?restartBad, fun h1 h2 ho hn => ?restart⟩,
      fun h => ⟨fun hbad => ?pageBad, fun h1 h2 ho hn => ?page⟩⟩,
    fun e e' cause s he' => changeOwn_eq e cause s he',
    fun e x cause after s => ⟨postFault_posted cause after, postFault_silent cause after, rfl⟩,
    fun k j new s hnew => ⟨fun he => ⟨fun hl => ?raiseRoom, fun hl => ⟨fun hv => ?raiseLost, fun x hv => ?raiseEvicts⟩, clearFault_none he,
        ackFault_none he⟩,
      fun e he => ⟨fun hc => ⟨?raiseCleared, (clearFault_held he).trans (if_pos hc)⟩,
        fun hc => ⟨?raiseStands, (clearFault_held he).trans (if_neg hc)⟩,
        fun hr => (ackFault_held he).trans (if_pos hr), fun hr => (ackFault_held he).trans (if_neg hr)⟩⟩,
    fun own raise t step hstep => ?evictee, fun a b => ⟨fun ha hb => ?absentOldest, fun x y hx hy hlt => ?older⟩, fun a b hab => ?ties,
    fun subject s => ⟨observes_iff, fun ho => ?silentObserved, fun st hst => ?silentNot, fun ho hf => ?dormantObserved,
      fun ho => ?dormantNot, rfl⟩,
    fun s u hu => ⟨?observedFaults, ?observedRest, fun n => (List.contains_iff_mem).symm⟩,
    fun p s => ⟨fun hp => ?liveNone, fun k hk => ?matching⟩,
    fun e x t counter owner s => ⟨rfl, ?sameKey, findFault_insertFault e t, fun y hy hne => ?others, fun y hy => mem_insertFault hy,
      clearRole_iff owner s, pagerRole_iff s⟩⟩
  case badKind =>
    refine answers_of_host rfl h (body := raiseFaultBody code) ?_
    rw [raiseFaultBody, hostKind_none hc]
    rfl
  case cleared =>
    subst hnew
    refine answers_of_host rfl h (body := raiseFaultBody code) ((raiseFaultBody_raised ?_ (tryRaise_cleared he hc)).trans ?_)
    · exact (if_pos h8).trans hk
    · exact faultAnswer_changed .raise rfl rfl rfl rfl
  case stands =>
    subst he'
    obtain ⟨ho, hkind, hsub⟩ := ownFault_key he
    refine answers_of_host rfl h (body := raiseFaultBody code) ((raiseFaultBody_raised ?_ (tryRaise_stands he hc)).trans ?_)
    · exact (if_pos h8).trans hk
    · exact faultAnswer_changed .raise rfl ho hkind hsub
  case room =>
    subst hnew
    refine answers_of_host rfl h (body := raiseFaultBody code) ((raiseFaultBody_raised ?_ (tryRaise_room he hl)).trans ?_)
    · exact (if_pos h8).trans hk
    · exact faultAnswer_changed .raise rfl rfl rfl rfl
  case full =>
    refine answers_of_host rfl h (body := raiseFaultBody code) (raiseFaultBody_full ?_ (tryRaise_noRoom he hl hv))
    exact (if_pos h8).trans hk
  case evicts =>
    subst hnew
    obtain ⟨hown, hctr⟩ := evict_leaves x s
    refine answers_of_host rfl h (body := raiseFaultBody code) ((raiseFaultBody_raised ?_ (tryRaise_evicts he hl hv)).trans ?_)
    · exact (if_pos h8).trans hk
    · exact faultAnswer_changed .raise (by rw [hctr]; rfl) hown.symm rfl rfl
  case ackBad =>
    refine answers_of_host rfl h (body := ackFaultBody owner code subject) ?_
    rw [ackFaultBody, keyKind_none hbad]
    rfl
  case clearBad =>
    refine answers_of_host rfl h (body := clearFaultBody owner code subject) ?_
    rw [clearFaultBody, keyKind_none hbad]
    rfl
  case ackUnknown =>
    refine answers_of_host rfl h (body := ackFaultBody owner code subject) ((ackFaultBody_eq ((keyKind_some h1 h2 hs hc).trans hk)).trans (if_pos ?_))
    rw [hf]; rfl
  case ackSent =>
    refine answers_of_host rfl h (body := ackFaultBody owner code subject)
      ((ackFaultBody_eq ((keyKind_some h1 h2 hs hc).trans hk)).trans ((if_neg ?_).trans (if_neg ho)))
    simp [hf]
  case ackNot =>
    have hown : findFault s.own k subject s.faults.table = some e := ho ▸ hf
    refine answers_of_host rfl h (body := ackFaultBody owner code subject)
      ((ackFaultBody_eq ((keyKind_some h1 h2 hs hc).trans hk)).trans ((if_neg ?_).trans ((if_pos ho).trans ?_)))
    · simp [hf]
    · rw [ackFault_held hown, if_neg hr, faultAnswer_held hown]
  case acked =>
    have hown : findFault s.own k subject s.faults.table = some e := ho ▸ hf
    obtain ⟨heo, hkind, hsub⟩ := ownFault_key hown
    refine answers_of_host rfl h (body := ackFaultBody owner code subject)
      ((ackFaultBody_eq ((keyKind_some h1 h2 hs hc).trans hk)).trans ((if_neg ?_).trans ((if_pos ho).trans ?_)))
    · simp [hf]
    · rw [ackFault_held hown, if_pos hr]
      exact faultAnswer_changed .ack he' heo hkind hsub
  case clearSent =>
    refine answers_of_host rfl h (body := clearFaultBody owner code subject) ((clearFaultBody_eq ((keyKind_some h1 h2 hs hc).trans hk)).trans (if_neg ho))
  case clearUnknown =>
    have hown : findFault s.own k subject s.faults.table = none := ho ▸ hf
    refine answers_of_host rfl h (body := clearFaultBody owner code subject)
      ((clearFaultBody_eq ((keyKind_some h1 h2 hs hc).trans hk)).trans ((if_pos ho).trans (if_pos ?_)))
    rw [State.ownFault, hown]; rfl
  case clearNot =>
    have hown : findFault s.own k subject s.faults.table = some e := ho ▸ hf
    refine answers_of_host rfl h (body := clearFaultBody owner code subject)
      ((clearFaultBody_eq ((keyKind_some h1 h2 hs hc).trans hk)).trans ((if_pos ho).trans ((if_neg ?_).trans ?_)))
    · simp [State.ownFault, hown]
    · rw [clearFault_held hown, if_pos hcl, faultAnswer_held hown]
  case clears =>
    have hown : findFault s.own k subject s.faults.table = some e := ho ▸ hf
    obtain ⟨heo, hkind, hsub⟩ := ownFault_key hown
    refine answers_of_host rfl h (body := clearFaultBody owner code subject)
      ((clearFaultBody_eq ((keyKind_some h1 h2 hs hc).trans hk)).trans ((if_pos ho).trans ((if_neg ?_).trans ?_)))
    · simp [State.ownFault, hown]
    · rw [clearFault_held hown, if_neg hcl]
      exact faultAnswer_changed .clear he' heo hkind hsub
  case restartBad =>
    refine answers_of_host rfl h (body := restartStationBody target n) (if_pos ?_)
    rw [Bool.or_eq_true, Bool.not_eq_true', decide_eq_true_eq]
    obtain hb | hb | hb | hb := hbad
    · exact .inl (targetOk_false (.inl hb))
    · exact .inl (targetOk_false (.inr (.inl hb)))
    · exact .inl (targetOk_false (.inr (.inr hb)))
    · exact .inr hb
  case restart =>
    exact answers_of_host rfl h (body := restartStationBody target n)
      (if_neg (by simp [targetOk_iff.2 ⟨h1, h2, ho⟩, hn]))
  case pageBad =>
    refine answers_of_host rfl h (body := pageStationBody target n) (if_pos ?_)
    rw [Bool.or_eq_true, Bool.not_eq_true', decide_eq_true_eq]
    obtain hb | hb | hb | hb := hbad
    · exact .inl (targetOk_false (.inl hb))
    · exact .inl (targetOk_false (.inr (.inl hb)))
    · exact .inl (targetOk_false (.inr (.inr hb)))
    · exact .inr hb
  case page =>
    exact answers_of_host rfl h (body := pageStationBody target n)
      (if_neg (by simp [targetOk_iff.2 ⟨h1, h2, ho⟩, hn]))
  case raiseRoom => rw [raiseFault, tryRaise_room he hl, hnew]; rfl
  case raiseLost => rw [raiseFault, tryRaise_noRoom he hl hv]; rfl
  case raiseEvicts => rw [raiseFault, tryRaise_evicts he hl hv, hnew]; rfl
  case raiseCleared => rw [raiseFault, tryRaise_cleared he hc, hnew]; rfl
  case raiseStands => rw [raiseFault, tryRaise_stands he hc]; rfl
  case evictee =>
    have hstep' : ∀ n e, step n e ↔ evictStep own raise n e = true := fun n e => (hstep n e).trans evictStep_iff.symm
    simp only [hstep', Bool.not_eq_true]
    exact ⟨evictee_none_iff, fun x hx => evictee_some hx⟩
  case absentOldest =>
    obtain ⟨y, hy⟩ := Option.isSome_iff_exists.1 hb
    exact ⟨(evictBefore_iff a b).2 (.inl ⟨ha, hb⟩), by rw [evictBefore, ha, hy]⟩
  case older =>
    refine ⟨(evictBefore_iff a b).2 (.inr (.inl ⟨x, y, hx, hy, hlt⟩)), ?_⟩
    rw [evictBefore, hx, hy]
    simp only [Bool.or_eq_false_iff, Bool.and_eq_false_iff, decide_eq_false_iff_not, beq_eq_false_iff_ne]
    exact ⟨Nat.not_lt.2 hlt.le, .inl (Nat.ne_of_gt hlt)⟩
  case ties =>
    rw [evictBefore_iff, ← faultBefore_iff]
    refine ⟨?_, fun hf => .inr (.inr ⟨hab, hf⟩)⟩
    rintro (⟨ha, hb⟩ | ⟨x, y, hx, hy, hlt⟩ | ⟨-, hf⟩)
    · simp [← hab, ha] at hb
    · cases hx.symm.trans (hab.trans hy)
      exact absurd hlt (lt_irrefl _)
    · exact hf
  case silentObserved => exact congrArg observeNewly (if_pos (by simp [ho]))
  case silentNot =>
    refine congrArg observeNewly (if_neg ?_)
    rw [Bool.and_eq_true, beq_iff_eq]
    rintro ⟨hs, ho⟩
    exact hst.elim (· hs) fun hno => by simp [hno] at ho
  case dormantObserved => exact congrArg observeNewly ((if_pos rfl).trans (if_pos (by simp [ho, hf])))
  case dormantNot =>
    refine congrArg observeNewly ((if_pos rfl).trans (if_neg ?_))
    obtain ho | hf := ho
    · simp [ho]
    · simp [hf]
  case observedFaults => rw [hu]; exact congrArg (·.faults) (observeNewly_eq s)
  case observedRest => rw [hu]; exact observeNewly_eq s
  case liveNone => rw [raiseMatching, hp]; rfl
  case matching =>
    have hm : matchingKind p.status = some k := by
      obtain ⟨hp, rfl⟩ | ⟨hp, rfl⟩ := hk
      · rw [hp]; rfl
      · rw [hp]; rfl
    exact ⟨fun hf => (raiseMatching_kind hm).trans (if_pos hf), fun hf => (raiseMatching_kind hm).trans (if_neg (by simp [hf]))⟩
  case sameKey =>
    rw [sameFault, isFaultKey, Bool.and_eq_true, Bool.and_eq_true, beq_iff_eq, beq_iff_eq, beq_iff_eq, and_assoc,
      @eq_comm _ x.owner, @eq_comm _ x.kind, @eq_comm _ x.subject]
  case others => exact insertFault_keeps hy hne

end Sys2Proof.Machine

/-! The sense groups: samples, the first settling, and the changes that are handed on (R171 to R174). -/

namespace Sys2Proof.Machine

section SenseGroups

variable {s : State} {x : SenseGroup} {g : Nat} {c : Settled}

theorem sampleDue_iff :
    s.sampleDue g = true ↔
      (s.groupAt g).settled ≠ .disabled ∧ (s.groupAt g).lastSample + periodMs (s.groupAt g) ≤ s.clock.elapsed := by
  rw [State.sampleDue, Bool.and_eq_true, isEnabled, bne_iff_ne, State.hasRun, decide_eq_true_eq]

theorem takeSample_eq (g : Nat) (level : Bool) (s : State) :
    takeSample g level s =
      { s with sense :=
        { groups := s.sense.groups.set g
            { s.groupAt g with
              runLevel := level, lastSample := (s.groupAt g).lastSample + periodMs (s.groupAt g)
              runCount :=
                if (s.groupAt g).runCount ≠ 0 ∧ (s.groupAt g).runLevel = level then
                  min ((s.groupAt g).runCount + 1) (settingsOf (s.groupAt g)).debounce
                else 1 }
          pins := s.sense.pins.set (3 * g + (settingsOf (s.groupAt g)).input) level } } := by
  have hrun : ((s.groupAt g).runCount != 0 && (s.groupAt g).runLevel == level) = true ↔
      (s.groupAt g).runCount ≠ 0 ∧ (s.groupAt g).runLevel = level := by
    rw [Bool.and_eq_true, bne_iff_ne, beq_iff_eq]
  rw [← if_congr hrun rfl rfl]
  rfl

theorem runCondition_none (h : ¬runComplete x) : runCondition x = none := by
  cases hr : runCondition x with
  | none => rfl
  | some c => exact absurd ((runCondition_eq x c).1 hr).1 h

theorem runComplete_not (h : x.settled = .disabled ∨ x.runCount = 0 ∨ x.runCount < (settingsOf x).debounce) :
    ¬runComplete x := by
  rintro ⟨hd, hc, hle⟩
  obtain h | h | h := h
  · exact hd h
  · exact hc h
  · exact Nat.not_lt.2 hle h

theorem firstCondition_unsettled (h : x.settled = .unsettled) : firstCondition x = runCondition x := if_pos (beq_iff_eq.2 h)

theorem firstCondition_settled (h : x.settled ≠ .unsettled) : firstCondition x = none := if_neg (by simpa using h)

theorem changedCondition_unsettled (h : x.settled = .unsettled) : changedCondition x = none := if_pos (beq_iff_eq.2 h)

theorem changedCondition_settled (h : x.settled ≠ .unsettled) :
    changedCondition x = (runCondition x).filter (fun c => c != x.settled) := if_neg (by simpa using h)

/-! ### The two rows of a group, where they act and where they do not -/

theorem acts_firstSettled_none (hh : s.port.resetHigh = true) (h : firstCondition (s.groupAt g) = none) :
    acts (.firstSettled g) s s := acts_of_act (exec_firstSettled s g) hh (by rw [h])

theorem acts_firstSettled_some (hh : s.port.resetHigh = true) (h : firstCondition (s.groupAt g) = some c) :
    acts (.firstSettled g) s (firstSettle g c s) := acts_of_act (exec_firstSettled s g) hh (by rw [h])

theorem acts_change_none (hh : s.port.resetHigh = true) (h : changedCondition (s.groupAt g) = none) :
    acts (.senseGroupChange g) s s := acts_of_act (exec_senseGroupChange s g) hh (by rw [h])

theorem acts_change_some (hh : s.port.resetHigh = true) (h : changedCondition (s.groupAt g) = some c) :
    acts (.senseGroupChange g) s (changeGroup g c s) := acts_of_act (exec_senseGroupChange s g) hh (by rw [h])

/-! ### What the first settling hands on -/

theorem roundFirstSettled_iff :
    (decide (g ≤ 1) && s.isMachine && s.groupKnown 0 && s.groupKnown 1) = true ↔
      g ≤ 1 ∧ s.isMachine = true ∧ s.groupKnown 0 = true ∧ s.groupKnown 1 = true := by
  rw [Bool.and_eq_true, Bool.and_eq_true, Bool.and_eq_true, decide_eq_true_eq, and_assoc, and_assoc]

theorem roundFirstSettled_judges (h1 : g ≤ 1) (hm : s.isMachine = true) (h0 : s.groupKnown 0 = true)
    (hk : s.groupKnown 1 = true) : roundFirstSettled g s = judgeRemoved s :=
  if_pos (roundFirstSettled_iff.2 ⟨h1, hm, h0, hk⟩)

theorem roundFirstSettled_not
    (h : 2 ≤ g ∨ s.isMachine = false ∨ s.groupKnown 0 = false ∨ s.groupKnown 1 = false) : roundFirstSettled g s = s := by
  refine if_neg ?_
  rw [roundFirstSettled_iff]
  rintro ⟨h1, hm, h0, hk⟩
  obtain h | h | h | h := h
  · omega
  · simp [hm] at h
  · simp [h0] at h
  · simp [hk] at h

theorem firstSettle_upright (g : Nat) (c : Settled) (s : State) :
    firstSettle g c s =
      if g = 2 ∧ c = .inactive then
        clearFault .tilt 0 (roundFirstSettled g (setGroup g { s.groupAt g with settled := c } s))
      else roundFirstSettled g (setGroup g { s.groupAt g with settled := c } s) := rfl

end SenseGroups

/-- Settles O51. -/
theorem senseGroupsSettle : Obligations.SenseGroupsSettle := by
  rintro g _ s hh rfl
  refine ⟨fun hw level => ?notDue, fun hd hge level => ?sampled, fun hw => ?incomplete, fun c hd hc hle hs =>
    ⟨fun hu => ⟨acts_change_none hh (changedCondition_unsettled hu), fun u huu => ?first⟩, fun hu =>
      ⟨acts_firstSettled_none hh (firstCondition_settled hu), fun heq => ?same, fun hne u huu => ?changed⟩⟩⟩
  case notDue =>
    refine acts_of_act (exec_senseSample s g level) hh (if_neg ?_)
    rw [sampleDue_iff]
    rintro ⟨hd, hge⟩
    exact hw.elim hd (Nat.not_lt.2 hge)
  case sampled =>
    exact acts_of_act (exec_senseSample s g level) hh ((if_pos (sampleDue_iff.2 ⟨hd, hge⟩)).trans (takeSample_eq g level s))
  case incomplete =>
    have hrun := runCondition_none (runComplete_not hw)
    refine ⟨acts_firstSettled_none hh ?_, acts_change_none hh ?_⟩
    · rw [firstCondition, hrun, ite_self]
    · rw [changedCondition, hrun, Option.filter_none, ite_self]
  all_goals have hrun : runCondition (s.groupAt g) = some c := (runCondition_eq _ c).2 ⟨⟨hd, hc, hle⟩, hs⟩
  case first =>
    subst huu
    have hacts := acts_firstSettled_some hh ((firstCondition_unsettled hu).trans hrun)
    rw [firstSettle_upright] at hacts
    refine ⟨fun hg hci => ?upright, fun hg hm h0 h1 => ?judged, fun hno => ?quiet⟩
    case upright =>
      rw [if_pos ⟨hg, hci⟩, roundFirstSettled_not (.inl hg.ge)] at hacts
      exact hacts
    case judged =>
      have hjudges := roundFirstSettled_judges (s := setGroup g { s.groupAt g with settled := c } s) hg hm h0 h1
      rw [if_neg (fun h => by omega), hjudges] at hacts
      exact hacts
    case quiet =>
      have hskip : 2 ≤ g ∨ (setGroup g { s.groupAt g with settled := c } s).isMachine = false
          ∨ (setGroup g { s.groupAt g with settled := c } s).groupKnown 0 = false
          ∨ (setGroup g { s.groupAt g with settled := c } s).groupKnown 1 = false := by
        obtain h | ⟨h, -⟩ | ⟨-, h⟩ | ⟨-, h⟩ := hno
        · exact .inl (by omega)
        · exact .inl h.ge
        · exact .inr (.inl h)
        · exact .inr (.inr h)
      have hup : ¬(g = 2 ∧ c = .inactive) := by
        rintro ⟨hg, hci⟩
        obtain h | ⟨-, h⟩ | ⟨h, -⟩ | ⟨h, -⟩ := hno
        · omega
        · simp [hci] at h
        · omega
        · omega
      rw [if_neg hup, roundFirstSettled_not hskip] at hacts
      exact hacts
  case same =>
    refine acts_change_none hh ?_
    rw [changedCondition_settled hu, hrun, heq]
    simp
  case changed =>
    subst huu
    have hchanged : changedCondition (s.groupAt g) = some c := by
      rw [changedCondition_settled hu, hrun]
      simp [Ne.symm hne]
    have hacts := acts_change_some hh hchanged
    refine ⟨?door, ?box, ?tilted, ?upright, fun hg => ?other⟩
    case door => rintro rfl; exact hacts
    case box => rintro rfl; exact hacts
    case tilted => rintro rfl rfl; exact hacts
    case upright => rintro rfl rfl; exact hacts
    case other =>
      match g, hg with
      | n + 3, _ => exact hacts

end Sys2Proof.Machine

/-! The pins of the power unit and their samples, the wake button, the supply warning, and the entry to and the exit from DORMANT
(R29, R34, R177 to R181). -/

namespace Sys2Proof.Machine

/-! ### Samples of the two pins -/

section Pins

theorem sampleSupply_eq (p : Power) :
    sampleSupply p =
      { p with
        supplyRunLevel := p.supplyPin
        supplyRunCount :=
          if p.supplyRunCount ≠ 0 ∧ p.supplyRunLevel = p.supplyPin then min (p.supplyRunCount + 1) 16 else 1 } := by
  have hrun : (p.supplyRunCount != 0 && p.supplyRunLevel == p.supplyPin) = true ↔
      p.supplyRunCount ≠ 0 ∧ p.supplyRunLevel = p.supplyPin := by rw [Bool.and_eq_true, bne_iff_ne, beq_iff_eq]
  rw [sampleSupply, if_congr hrun rfl rfl]

theorem sampleButton_released {run : ButtonRun} (h : run ≠ .press) : sampleButton false run = .released := by
  cases run with
  | press => exact absurd rfl h
  | waiting => rfl
  | released => rfl
  | once => rfl

end Pins

/-! ### The supply level taken, and the warning -/

section Supply

variable {s : State} {level : Bool}

theorem supplyDue_iff :
    s.supplyDue level = true ↔
      s.power.supplyRunCount = 16 ∧ s.power.supplyRunLevel = level ∧ s.power.supply ≠ some level := by
  rw [State.supplyDue, Bool.and_eq_true, Bool.and_eq_true, beq_iff_eq, beq_iff_eq, bne_iff_ne, and_assoc]

theorem assertSupply_due (h : s.supplyDue true = true) : assertSupply s = supplyAsserted (setSupplyLevel true s) := if_pos h

theorem supplyAsserted_awake (h : s.power.state = .awake) :
    supplyAsserted s =
      postEvent (.supplyLow .warning) { s with power := { s.power with warning := some s.clock.elapsed } } := by
  rw [supplyAsserted, h]

theorem supplyAsserted_listening (h : s.power.state = .listening) : supplyAsserted s = setDormantDue s := by
  rw [supplyAsserted, h]

theorem supplyAsserted_dormant (h : s.power.state = .dormant) : supplyAsserted s = s := by
  rw [supplyAsserted, h]

theorem deassertSupply_settled (h : s.supplyDue false = true) (hs : s.power.supply = some true) :
    deassertSupply s = supplyDeasserted (setSupplyLevel false s) :=
  (if_pos h).trans (if_pos (beq_iff_eq.2 hs))

theorem deassertSupply_first (h : s.supplyDue false = true) (hs : s.power.supply = none) :
    deassertSupply s = setSupplyLevel false s :=
  (if_pos h).trans (if_neg (by simp [hs]))

theorem supplyDeasserted_dormant (h : s.power.state = .dormant) : supplyDeasserted s = exitDormant s :=
  if_pos (beq_iff_eq.2 h)

theorem supplyDeasserted_calm (h : s.power.state ≠ .dormant) (hw : s.power.warning = none) (hd : s.power.dormantDue = false) :
    supplyDeasserted s = s :=
  (if_neg (by simpa using h)).trans (if_neg (by simp [hw, hd]))

theorem supplyDeasserted_withdraws (h : s.power.state ≠ .dormant)
    (hw : s.power.warning.isSome = true ∨ s.power.dormantDue = true) : supplyDeasserted s = withdrawSupply s :=
  (if_neg (by simpa using h)).trans (if_pos (Bool.or_eq_true _ _ ▸ hw))

theorem graceOver_iff {t : Nat} (h : s.power.warning = some t) : s.graceOver = true ↔ t + 60000 ≤ s.clock.elapsed := by
  rw [State.graceOver, h]
  exact decide_eq_true_iff

theorem graceOver_none (h : s.power.warning = none) : s.graceOver = false := by
  rw [State.graceOver, h]

end Supply

/-! ### The entry to DORMANT -/

section Entry

variable {s : State} {start : Nat} {a : AnnounceBody}

theorem announceOut_announce (h : s.link.line = some (.announce start a)) :
    s.announceOut = true ↔ start + announceMs ≤ s.clock.elapsed := by
  rw [State.announceOut, h]
  exact decide_eq_true_iff

theorem announceOut_other (h : ∀ start a, s.link.line ≠ some (.announce start a)) : s.announceOut = false := by
  unfold State.announceOut
  split
  next hl => exact absurd hl (h _ _)
  next => rfl

theorem farewell_announce (h : s.link.line = some (.announce start a)) : s.farewell = a.dormant := by
  rw [State.farewell, h]

theorem entryDue_iff :
    s.entryDue = true ↔
      s.power.dormantDue = true
        ∧ ((s.announceOut = true ∧ s.farewell = true) ∨ s.clock.zone = none ∨ s.setupDone = false) := by
  rw [State.entryDue, Bool.and_eq_true, Bool.or_eq_true, Bool.or_eq_true, Bool.and_eq_true, Bool.not_eq_true',
    Option.isNone_iff_eq_none, or_assoc]

theorem setDormantDue_waits (hz : s.clock.zone.isSome = true) (hs : s.setupDone = true) :
    setDormantDue s = { s with power := { s.power with warning := none, dormantDue := true } } :=
  if_neg (by simp [hs, Option.isSome_iff_ne_none.1 hz])

theorem setDormantDue_enters (h : s.clock.zone = none ∨ s.setupDone = false) :
    setDormantDue s = enterDormant { s with power := { s.power with warning := none, dormantDue := true } } :=
  if_pos (by rw [Bool.or_eq_true, Bool.not_eq_true', Option.isNone_iff_eq_none]; exact h)

/-- The rows of DORMANT_ENTRY where the entry is due, and where it is not. -/
theorem acts_dormantEntry (hh : s.port.resetHigh = true) (h : s.entryDue = true) :
    acts .dormantEntry s (enterDormant (if s.announceOut then endAnnounce s else s)) :=
  acts_of_act (exec_dormantEntry s) hh (if_pos h)

theorem acts_dormantEntry_not (hh : s.port.resetHigh = true) (h : s.entryDue = false) : acts .dormantEntry s s :=
  acts_of_act (exec_dormantEntry s) hh (if_neg (by simp [h]))

theorem abandonSale_none (cause : AbandonCause) (h : s.sales.sale = none) : abandonSale cause s = s := by
  rw [abandonSale, h]

end Entry

/-! ### The exit from DORMANT -/

section Exit

variable {s : State} {period : Option Nat × Nat}

theorem exitPower_notSetUp (h : s.setupDone = false) :
    exitPower s period =
      { s.power with
        recorded := none, dormantSince := none, lastPeriod := some period, state := .awake
        wakeCause := .supplyRestored } := if_pos (by simp [h])

theorem exitPower_event {n : EventName} (h : s.setupDone = true) (hn : wakeName s = some n) :
    exitPower s period =
      { s.power with
        recorded := none, dormantSince := none, lastPeriod := some period, state := .awake, wakeCause := .event n } := by
  refine (if_neg (by simp [h])).trans ?_
  rw [hn]

theorem exitPower_quiet (h : s.setupDone = true) (hn : wakeName s = none) :
    exitPower s period =
      { s.power with recorded := none, dormantSince := none, lastPeriod := some period, state := .listening } := by
  refine (if_neg (by simp [h])).trans ?_
  rw [hn]

theorem wakeName_none (h : ∀ e ∈ s.port.events, wakeClass e.event = false) : wakeName s = s.power.recorded := by
  have hnone : (s.port.events.find? fun e => wakeClass e.event) = none := List.find?_eq_none.2 fun e he => by simp [h e he]
  rw [wakeName, hnone]
  rfl

theorem inWindow_iff : s.inWindow = true ↔ ∃ z, s.clock.zone = some z ∧ z % 32000 < 4000 := by
  unfold State.inWindow cyclePos
  cases s.clock.zone <;> simp

end Exit

/-- Settles O52. -/
theorem supplyAndWake : Obligations.SupplyAndWake := by
  refine ⟨fun p => ⟨sampleSupply_eq _, fun run => sampleButton_released, rfl, rfl, rfl, fun level => rfl⟩,
    fun s hh => ⟨fun hb => ?noPress, fun hb => ⟨fun hl hd => ?wakes, fun hno => ?pressTaken⟩⟩,
    fun level s => supplyDue_iff,
    fun s hh => ⟨fun hn => acts_of_act rfl hh (f := assertSupply) (if_neg (by simp [hn])),
      fun hn => acts_of_act rfl hh (f := deassertSupply) (if_neg (by simp [hn])),
      fun hdue => ⟨fun ha => ?warns, fun hl => ?due, fun hd => ?inDormant⟩,
      fun hdue hs => acts_of_act rfl hh (f := deassertSupply) (deassertSupply_first hdue hs),
      fun hdue hs => ⟨fun hd => ?restored, fun hd hw hdd => ?calm, fun hw u hu => ⟨fun ha => ?withdrawn, fun hl => ?withdrawnSilently⟩⟩,
      fun t ht => ⟨fun hge => ?grace, fun hlt => ?noGrace⟩, fun hw => ?noWarning, fun hdd => ?notDue,
      fun hdd => ⟨fun start a hline => ⟨fun hge hcan => ?announced, fun hlt hno => ?unannounced, fun hlt hz hs => ?announcing⟩,
        fun hline => ⟨fun hno => ?enters, fun hz hs => ?waits⟩⟩⟩,
    fun s => ⟨setDormantDue_waits, setDormantDue_enters⟩, ?enterDormant,
    fun start tx => ⟨rfl, rfl, fun a => rfl⟩, ?exitDormant,
    fun s => ⟨wakeName_none, fun before e after h hb he => ?wakeName, inWindow_iff⟩⟩
  case noPress => exact acts_of_act (exec_wakeButtonPress s) hh (if_neg (by simpa [State.pressDue] using hb))
  case wakes =>
    exact acts_of_act (exec_wakeButtonPress s) hh ((if_pos (beq_iff_eq.2 hb)).trans (if_pos (by simp [hl, hd])))
  case pressTaken =>
    refine acts_of_act (exec_wakeButtonPress s) hh ((if_pos (beq_iff_eq.2 hb)).trans (if_neg ?_))
    rw [Bool.and_eq_true, beq_iff_eq, Bool.not_eq_true']
    rintro ⟨hl, hd⟩
    exact hno.elim (· hl) fun hdd => by simp [hdd] at hd
  case warns =>
    exact acts_of_act rfl hh (f := assertSupply) ((assertSupply_due hdue).trans (supplyAsserted_awake (by exact ha)))
  case due =>
    exact acts_of_act rfl hh (f := assertSupply) ((assertSupply_due hdue).trans (supplyAsserted_listening (by exact hl)))
  case inDormant =>
    exact acts_of_act rfl hh (f := assertSupply) ((assertSupply_due hdue).trans (supplyAsserted_dormant (by exact hd)))
  case restored =>
    exact acts_of_act rfl hh (f := deassertSupply)
      ((deassertSupply_settled hdue hs).trans (supplyDeasserted_dormant (by exact hd)))
  case calm =>
    exact acts_of_act rfl hh (f := deassertSupply)
      ((deassertSupply_settled hdue hs).trans (supplyDeasserted_calm (by exact hd) (by exact hw) (by exact hdd)))
  case withdrawn =>
    subst hu
    refine acts_of_act rfl hh (f := deassertSupply)
      ((deassertSupply_settled hdue hs).trans ((supplyDeasserted_withdraws ?_ (by exact hw)).trans (if_pos ?_)))
    · exact fun hd : s.power.state = .dormant => by simp [ha] at hd
    · exact beq_iff_eq.2 ha
  case withdrawnSilently =>
    subst hu
    refine acts_of_act rfl hh (f := deassertSupply)
      ((deassertSupply_settled hdue hs).trans ((supplyDeasserted_withdraws ?_ (by exact hw)).trans (if_neg ?_)))
    · exact fun hd : s.power.state = .dormant => by simp [hl] at hd
    · exact fun ha => by simp [setSupplyLevel, hl] at ha
  case grace => exact acts_of_act (exec_awakeGraceExpiry s) hh (if_pos ((graceOver_iff ht).2 hge))
  case noGrace =>
    exact acts_of_act (exec_awakeGraceExpiry s) hh (if_neg fun h => Nat.not_lt.2 ((graceOver_iff ht).1 h) hlt)
  case noWarning => exact acts_of_act (exec_awakeGraceExpiry s) hh (if_neg (by simp [graceOver_none hw]))
  case notDue => exact acts_dormantEntry_not hh (Bool.eq_false_iff.2 fun h => by simp [(entryDue_iff.1 h).1] at hdd)
  case announced =>
    have hout := (announceOut_announce hline).2 hge
    have hacts := acts_dormantEntry hh
      (entryDue_iff.2 ⟨hdd, hcan.imp_left fun ha => ⟨hout, (farewell_announce hline).trans ha⟩⟩)
    rwa [if_pos hout] at hacts
  case unannounced =>
    have hacts := acts_dormantEntry hh (entryDue_iff.2 ⟨hdd, .inr hno⟩)
    rwa [if_neg fun h => Nat.not_lt.2 ((announceOut_announce hline).1 h) hlt] at hacts
  case announcing =>
    refine acts_dormantEntry_not hh (Bool.eq_false_iff.2 fun h => ?_)
    obtain ⟨-, ⟨hout, hfare⟩ | hz' | hs'⟩ := entryDue_iff.1 h
    · rw [farewell_announce hline] at hfare
      exact hlt.elim (Nat.not_lt.2 ((announceOut_announce hline).1 hout)) fun hn => by simp [hfare] at hn
    · simp [hz'] at hz
    · simp [hs] at hs'
  case enters =>
    have hacts := acts_dormantEntry hh (entryDue_iff.2 ⟨hdd, .inr hno⟩)
    rwa [if_neg (by simp [announceOut_other hline])] at hacts
  case waits =>
    refine acts_dormantEntry_not hh (Bool.eq_false_iff.2 fun h => ?_)
    obtain ⟨-, ⟨hout, -⟩ | hz' | hs'⟩ := entryDue_iff.1 h
    · simp [announceOut_other hline] at hout
    · simp [hz'] at hz
    · simp [hs] at hs'
  case enterDormant =>
    rintro s d v rfl hnone hsome
    have hv : abandonSale .dormant { s with power := dormantPower s.clock.elapsed s.zoneSec s.power } = v := by
      cases hs : s.sales.sale with
      | none => exact (abandonSale_none .dormant (by exact hs)).trans (hnone hs).symm
      | some r =>
        obtain ⟨hfree, hretired⟩ := hsome r _ hs rfl
        refine (abandonSale_open (by exact hs) .dormant).trans ((endSale_eq _).trans ?_)
        cases ht : s.tariff.retired with
        | none => exact (if_neg (by simp [postEvent, ht])).trans (hfree ht).symm
        | some t => exact (if_pos (by simp [postEvent, ht])).trans (hretired (by simp [ht])).symm
    rw [enterDormant, hv]
    rfl
  case exitDormant =>
    rintro s u t since zone seconds hsince rfl rfl rfl
    have hexit : exitDormant s =
        let seconds := (s.clock.elapsed - since) / 1000
        let u := postEvent (.supplyLow (.restored zone seconds)) s
        { u with
          power := exitPower u (zone, seconds)
          link := { u.link with
            peers := u.link.peers.map fun p =>
              if p.status == .silent then p else { p with lastHeard := s.clock.elapsed }
            heldOn := s.inWindow } } := by
      rw [exitDormant, hsince]
      rfl
    refine ⟨fun hs => ?_, fun hs => ⟨fun n hn => ?_, fun hn => ?_⟩⟩
    · rw [hexit]
      dsimp only
      rw [exitPower_notSetUp (by exact hs)]
    · rw [hexit]
      dsimp only
      rw [exitPower_event (by exact hs) hn]
    · rw [hexit]
      dsimp only
      rw [exitPower_quiet (by exact hs) hn]
  case wakeName =>
    rw [wakeName, find?_first h hb he]
    rfl

end Sys2Proof.Machine

/-! CHECK_PERMIT: the result, the treatment and the allowance that it reports, and the figures of the usage table (R111, R112, R119,
R123). -/

namespace Sys2Proof.Machine

/-! ### Which result a held record gives (Table 6.2) -/

section CheckResult

variable {s : State} {n today : Nat} {r : PermitRec} {c : CheckResult}

theorem check_revoked (hf : findPermit n (s.sectionAt (n % 8)).records = some r) (h : r.status = .revoked) :
    (permitCheck s today n).1 = .revoked := by
  rw [permitCheck_held hf]
  exact if_pos h

theorem check_suspended (hf : findPermit n (s.sectionAt (n % 8)).records = some r) (h : r.status = .suspended) :
    (permitCheck s today n).1 = .suspended := by
  rw [permitCheck_held hf]
  exact (if_neg (by simp [h])).trans (if_pos h)

theorem check_valid (hf : findPermit n (s.sectionAt (n % 8)).records = some r) (h : r.status = .valid) :
    (permitCheck s today n).1 =
      if today < r.validFrom then .notYetValid
      else if r.validTo < today then .expired
      else if s.zoneNo ∉ r.zones then .wrongZone
      else if s.isBehind (n % 8) = true then .staleValid
      else .valid := by
  rw [permitCheck_held hf]
  exact (if_neg (by simp [h])).trans (if_neg (by simp [h]))

theorem check_inPeriod (hf : findPermit n (s.sectionAt (n % 8)).records = some r) (h : r.status = .valid)
    (h1 : r.validFrom ≤ today) (h2 : today ≤ r.validTo) :
    (permitCheck s today n).1 =
      if s.zoneNo ∉ r.zones then .wrongZone else if s.isBehind (n % 8) = true then .staleValid else .valid :=
  (check_valid hf h).trans ((if_neg (Nat.not_lt.2 h1)).trans (if_neg (Nat.not_lt.2 h2)))

theorem permitCheck_record (hf : findPermit n (s.sectionAt (n % 8)).records = some r) : (permitCheck s today n).2 = some r := by
  rw [permitCheck_held hf]

end CheckResult

/-! ### The treatment and the allowance reported -/

section Reported

variable {s : State} {n today : Nat} {r : PermitRec} {c : CheckResult} {t : TariffSet} {treat : Option ClassEntry}

theorem checkTreat_noActive (p : Option PermitRec) (h : s.tariff.active = none) : checkTreat s c p = none := by
  unfold checkTreat
  rw [h]
  cases p <;> rfl

theorem checkTreat_active (h : s.tariff.active = some t) :
    checkTreat s c (some r) = if checkApplies c then some (classEntry t r.cls) else none := by
  unfold checkTreat
  rw [h]

theorem checkTreat_notApplied (h1 : c ≠ .valid) (h2 : c ≠ .staleValid) (p : Option PermitRec) : checkTreat s c p = none := by
  have hno : ¬checkApplies c = true := fun h => ((checkApplies_iff c).1 h).elim h1 h2
  cases ha : s.tariff.active with
  | none => exact checkTreat_noActive p ha
  | some t =>
    cases p with
    | none => rfl
    | some r => exact (checkTreat_active ha).trans (if_neg hno)

theorem checkAllowance_allowance {e : ClassEntry} (he : treat = some e) (hk : e.kind = .allowance) :
    checkAllowance s today (some r) treat =
      some
        (r.allowance.getD 0,
          if s.unavailable.isSome then none
          else
            some
              (s.knownUsage r.number today (r.allowance.getD 0),
                r.allowance.getD 0 - s.knownUsage r.number today (r.allowance.getD 0))) := by
  rw [he, checkAllowance]
  exact if_pos (beq_iff_eq.2 hk)

theorem checkAllowance_other (h : ∀ e, treat = some e → e.kind ≠ .allowance) : checkAllowance s today (some r) treat = none := by
  cases treat with
  | none => rfl
  | some e => exact if_neg (by simpa using h e rfl)

theorem checkPermitBody_zone (hn : permitNumberOk n = true) (ht : s.today = some today) :
    checkPermitBody n s =
      (.ok,
        .permit (permitCheck s today n).1 (n % 8) (s.sectionKey (n % 8)) (s.isBehind (n % 8))
          ((permitCheck s today n).2.map permitBytes) (checkTreat s (permitCheck s today n).1 (permitCheck s today n).2)
          (checkAllowance s today (permitCheck s today n).2
            (checkTreat s (permitCheck s today n).1 (permitCheck s today n).2)),
        s) := by
  refine (if_neg (by simp [hn])).trans ?_
  rw [ht]
  rfl

theorem permit_number (h : findPermit n (s.sectionAt (n % 8)).records = some r) : r.number = n := by
  simpa using List.find?_some h

end Reported

/-! ### The usage table -/

section Usage

variable {s : State} {n d a : Nat} {e : UsageEntry}

theorem unavailable_day (h : s.today ≠ some s.permits.ownDay) : s.unavailable = some .clockOrDay :=
  if_pos (bne_iff_ne.2 h)

theorem unavailable_today (h : s.today = some s.permits.ownDay) :
    s.unavailable =
      if 65535 ≤ s.permits.ownCtr then some .counterFull else if !s.permits.settled then some .unsettled else none :=
  if_neg (by simp [h])

theorem knownUsage_none (h : s.usageOf n d = none) : s.knownUsage n d a = 0 := by
  rw [State.knownUsage, h]

theorem knownUsage_some (h : s.usageOf n d = some e) :
    s.knownUsage n d a = if e.saturated then a else (e.contribs.map (·.2)).sum := by
  rw [State.knownUsage, h]
  rfl

end Usage

/-- Settles O40. -/
theorem permitChecked : Obligations.PermitChecked := by
  refine ⟨fun n s h => ⟨fun hn => ?badNumber, fun h1 h2 => ⟨fun hz => ?unset, fun today ht => ⟨fun hf => ⟨fun hb => ?unverified,
      fun hb => ?notFound⟩, fun r hf => ⟨(permitCheck s today n).1, checkTreat s (permitCheck s today n).1 (some r), ?answered,
        check_revoked hf, check_suspended hf, fun hv => ⟨fun hlt => ?notYet, fun hge hlt => ?expired, fun hge hle =>
          ⟨fun hz => ?wrongZone, fun hz hb => ?stale, fun hz hb => ?valid⟩⟩,
        fun c1 c2 => checkTreat_notApplied c1 c2 _, fun ha => checkTreat_noActive _ ha, fun e he hk m hm => ?allowance,
        checkAllowance_other, fun t ha hc => ?treated⟩⟩⟩⟩,
    fun s => ⟨unavailable_day, fun ht => ⟨fun hc => ?counterFull, fun hc => ⟨fun hs => ?unsettled, fun hs => ?available⟩⟩⟩,
    fun n d a s => ⟨rfl, knownUsage_none, fun e he => ⟨fun hs => (knownUsage_some he).trans (if_pos hs),
      fun hs => (knownUsage_some he).trans (if_neg (by simp [hs]))⟩⟩⟩
  case badNumber =>
    refine answers_of_host rfl h (body := checkPermitBody n) (if_pos ?_)
    rw [Bool.not_eq_true', ← Bool.not_eq_true, permitNumberOk_iff]
    omega
  case counterFull => exact (unavailable_today ht).trans (if_pos hc)
  case unsettled => exact (unavailable_today ht).trans ((if_neg (Nat.not_le.2 hc)).trans (if_pos (by simp [hs])))
  case available => exact (unavailable_today ht).trans ((if_neg (Nat.not_le.2 hc)).trans (if_neg (by simp [hs])))
  all_goals have hn : permitNumberOk n = true := (permitNumberOk_iff n).2 ⟨h1, h2⟩
  case unset =>
    refine answers_of_host rfl h (body := checkPermitBody n) ((if_neg (by simp [hn])).trans ?_)
    rw [show s.today = none by rw [State.today, hz]; rfl]
    rfl
  case unverified =>
    refine answers_of_host rfl h (body := checkPermitBody n) ((checkPermitBody_zone hn ht).trans ?_)
    rw [permitCheck_absent hf, hb]
    rfl
  case notFound =>
    refine answers_of_host rfl h (body := checkPermitBody n) ((checkPermitBody_zone hn ht).trans ?_)
    rw [permitCheck_absent hf, hb]
    rfl
  case answered =>
    refine answers_of_host rfl h (body := checkPermitBody n) ((checkPermitBody_zone hn ht).trans ?_)
    rw [permitCheck_record hf]
    rfl
  case notYet => exact (check_valid hf hv).trans (if_pos hlt)
  case expired => exact (check_valid hf hv).trans ((if_neg (Nat.not_lt.2 hge)).trans (if_pos hlt))
  case wrongZone => exact (check_inPeriod hf hv hge hle).trans (if_pos hz)
  case stale => exact (check_inPeriod hf hv hge hle).trans ((if_neg (not_not.2 hz)).trans (if_pos hb))
  case valid => exact (check_inPeriod hf hv hge hle).trans ((if_neg (not_not.2 hz)).trans (if_neg (by simp [hb])))
  case allowance =>
    rw [checkAllowance_allowance he hk, permit_number hf, hm]
  case treated => exact (checkTreat_active ha).trans (if_pos ((checkApplies_iff _).2 hc))

end Sys2Proof.Machine

/-! Changes to a permit section: amendments of the gateway and from frames, fetched images, and when a section is behind (R107 to
R110, R113 to R115). -/

namespace Sys2Proof.Machine

/-! ### The records of a section -/

section Records

variable {r h x : PermitRec} {rs : List PermitRec} {n : Nat}

theorem findPermit_number (hf : findPermit n rs = some h) : h.number = n := by
  simpa using List.find?_some hf

theorem ascending_of_pairwise (h : rs.Pairwise fun x y => x.number < y.number) : ascending rs = true := by
  induction rs with
  | nil => rfl
  | cons a as ih =>
    cases as with
    | nil => rfl
    | cons b bs =>
      obtain ⟨ha, hp⟩ := List.pairwise_cons.1 h
      rw [ascending, ih hp, decide_eq_true (ha b List.mem_cons_self)]
      rfl

theorem ascending_iff (rs : List PermitRec) : ascending rs = true ↔ rs.Pairwise fun x y => x.number < y.number :=
  ⟨pairwise_of_ascending, ascending_of_pairwise⟩

theorem insertPermit_new (hf : findPermit r.number rs = none) : (insertPermit r rs).length = rs.length + 1 := by
  induction rs with
  | nil => rfl
  | cons y ys ih =>
    have hy : y.number ≠ r.number := by simpa using List.find?_eq_none.1 hf y List.mem_cons_self
    have hys : findPermit r.number ys = none :=
      List.find?_eq_none.2 fun z hz => List.find?_eq_none.1 hf z (List.mem_cons_of_mem y hz)
    rw [insertPermit]
    split
    next => rfl
    next =>
      rw [if_neg (Ne.symm hy), List.length_cons, ih hys, List.length_cons]

end Records

/-! ### A change to a held section -/

section Change

variable {p p' : PermitSection} {c : AmendChange} {r h : PermitRec} {n : Nat} {st : PermitStatus}

theorem applyChange_add (hc : p.closed = false) (hf : findPermit r.number p.records = none) :
    applyChange p (.add r) =
      if 160 ≤ p.records.length then .error .sectionFull else .ok { p with records := insertPermit r p.records } :=
  (if_neg (by simp [hc])).trans (if_neg (by simp [hf]))

theorem applyChange_replace (hf : findPermit r.number p.records = some h) :
    applyChange p (.replace r) =
      if h.status = .revoked ∧ r.status ≠ .revoked then .error .revokedFinal
      else if p.closed = true ∧ { r with status := h.status } ≠ h then .error .sectionClosed
      else .ok { p with records := insertPermit r p.records } := by
  rw [applyChange, hf]
  refine if_congr ?_ rfl (if_congr ?_ rfl rfl)
  · rw [Bool.and_eq_true, beq_iff_eq, bne_iff_ne]
  · rw [Bool.and_eq_true, bne_iff_ne]

theorem applyChange_status (hf : findPermit n p.records = some h) :
    applyChange p (.status n st) =
      if h.status = .revoked ∧ st ≠ .revoked then .error .revokedFinal
      else .ok { p with records := insertPermit { h with status := st } p.records } := by
  rw [applyChange, hf]
  refine if_congr ?_ rfl rfl
  rw [Bool.and_eq_true, beq_iff_eq, bne_iff_ne]

/-- A change that is taken, case by case: what it found, and the records it leaves (R113, R115). -/
theorem applyChange_ok (h : applyChange p c = .ok p') :
    (∃ r, c = .add r ∧ findPermit r.number p.records = none ∧ p.records.length < 160
        ∧ p' = { p with records := insertPermit r p.records })
      ∨ (∃ r held, c = .replace r ∧ findPermit r.number p.records = some held
          ∧ ¬(held.status = .revoked ∧ r.status ≠ .revoked) ∧ p' = { p with records := insertPermit r p.records })
      ∨ (∃ n st held, c = .status n st ∧ findPermit n p.records = some held ∧ ¬(held.status = .revoked ∧ st ≠ .revoked)
          ∧ p' = { p with records := insertPermit { held with status := st } p.records })
      ∨ (c = .close ∧ p' = { p with closed := true }) := by
  cases c with
  | add r =>
    by_cases hc : p.closed = true
    · simp [applyChange, hc] at h
    · cases hf : findPermit r.number p.records with
      | some x => simp [applyChange, hc, hf] at h
      | none =>
        rw [applyChange_add (Bool.eq_false_iff.2 hc) hf] at h
        split at h
        next => cases h
        next hl => cases h; exact .inl ⟨r, rfl, hf, Nat.not_le.1 hl, rfl⟩
  | replace r =>
    cases hf : findPermit r.number p.records with
    | none => simp [applyChange, hf] at h
    | some held =>
      rw [applyChange_replace hf] at h
      split at h
      next => cases h
      next hrev =>
        split at h
        next => cases h
        next => cases h; exact .inr (.inl ⟨r, held, rfl, hf, hrev, rfl⟩)
  | status n st =>
    cases hf : findPermit n p.records with
    | none => simp [applyChange, hf] at h
    | some held =>
      rw [applyChange_status hf] at h
      split at h
      next => cases h
      next hrev => cases h; exact .inr (.inr (.inl ⟨n, st, held, rfl, hf, hrev, rfl⟩))
  | close =>
    rw [applyChange] at h
    split at h
    next => cases h
    next => cases h; exact .inr (.inr (.inr ⟨rfl, rfl⟩))

theorem insert_keeps_revoked {r held : PermitRec} {rs : List PermitRec} (hf : findPermit r.number rs = some held)
    (hrev : ¬(held.status = .revoked ∧ r.status ≠ .revoked)) (hn : findPermit n rs = some h) (hs : h.status = .revoked) :
    ∃ r', findPermit n (insertPermit r rs) = some r' ∧ r'.status = .revoked := by
  rw [findPermit_insertPermit]
  by_cases heq : n = r.number
  · subst heq
    cases hf.symm.trans hn
    exact ⟨r, if_pos rfl, not_not.1 fun hne => hrev ⟨hs, hne⟩⟩
  · exact ⟨h, (if_neg heq).trans hn, hs⟩

theorem applyChange_keeps_revoked (hc : applyChange p c = .ok p') (hn : findPermit n p.records = some h)
    (hs : h.status = .revoked) : ∃ r', findPermit n p'.records = some r' ∧ r'.status = .revoked := by
  obtain ⟨r, -, hf, -, rfl⟩ | ⟨r, held, -, hf, hrev, rfl⟩ | ⟨m, st, held, -, hf, hrev, rfl⟩ | ⟨-, rfl⟩ := applyChange_ok hc
  · refine ⟨h, ?_, hs⟩
    rw [findPermit_insertPermit, if_neg (fun heq => by simp [← heq, hn] at hf), hn]
  · exact insert_keeps_revoked hf hrev hn hs
  · have hm := findPermit_number hf
    exact insert_keeps_revoked (r := { held with status := st }) (by rw [hm]; exact hf) hrev hn hs
  · exact ⟨h, hn, hs⟩

theorem applyChange_keeps_order (hc : applyChange p c = .ok p') (ha : ascending p.records = true) :
    ascending p'.records = true := by
  rw [ascending_iff] at ha ⊢
  obtain ⟨r, -, -, -, rfl⟩ | ⟨r, held, -, -, -, rfl⟩ | ⟨m, st, held, -, -, -, rfl⟩ | ⟨-, rfl⟩ := applyChange_ok hc
  · exact insertPermit_sorted r ha
  · exact insertPermit_sorted r ha
  · exact insertPermit_sorted _ ha
  · exact ha

theorem applyChange_keeps_places (hc : applyChange p c = .ok p') (ha : ascending p.records = true)
    (hl : p.records.length ≤ 160) : p'.records.length ≤ 160 :=
  (applyChange_records hc ⟨hl, pairwise_of_ascending ha⟩).1

end Change

/-! ### A section written, and its state judged -/

section Sections

variable {s t : State} {i n : Nat} {k key old new : Key} {c : AmendChange} {p : PermitSection}

theorem sectionAt_set (hi : i < s.permits.sections.length) (p : PermitSection) : (setSection i p s).sectionAt i = p := by
  simp [State.sectionAt, setSection, hi]

theorem postSection_key (h : s.sectionKey i = some k) (previous : Option Key) (byAmendment : Bool) (supplier : Nat) :
    postSection i previous byAmendment supplier s =
      postEvent (.sectionUpdated i k previous byAmendment (s.sectionAt i).closed (s.sectionAt i).records.length supplier) s := by
  rw [postSection, h]

theorem isBehind_iff :
    s.isBehind i = true ↔
      s.sectionKey i = none
        ∨ ∃ k a p, s.sectionKey i = some k ∧ p ∈ s.link.peers ∧ peerSection i p = some a ∧ Key.higher a k = true := by
  unfold State.isBehind
  cases hk : s.sectionKey i with
  | none => simp
  | some k =>
    have hpeer : ∀ p : PeerEntry, (match peerSection i p with | some a => Key.higher a k | none => false) = true ↔
        ∃ a, peerSection i p = some a ∧ Key.higher a k = true := fun p => by cases peerSection i p <;> simp
    rw [List.any_eq_true]
    refine ⟨fun ⟨p, hp, hb⟩ => ?_, ?_⟩
    · obtain ⟨a, ha, hhigh⟩ := (hpeer p).1 hb
      exact .inr ⟨k, a, p, rfl, hp, ha, hhigh⟩
    · rintro (hn | ⟨k', a, p, hk', hp, ha, hhigh⟩)
      · cases hn
      · cases hk'
        exact ⟨p, hp, (hpeer p).2 ⟨a, ha, hhigh⟩⟩

theorem judgeSection_falls (hb : s.isBehind i = true) (hs : (s.sectionAt i).behindSince = none) :
    judgeSection s i =
      { s with permits := { s.permits with
        sections := s.permits.sections.set i
          { s.sectionAt i with behindSince := some s.clock.elapsed, staleRaised := false } } } := by
  rw [judgeSection, hb, hs]
  rfl

theorem judgeSection_catchesUp (hb : s.isBehind i = false) (hs : (s.sectionAt i).behindSince.isSome = true) :
    judgeSection s i =
      { s with permits := { s.permits with
        sections := s.permits.sections.set i { s.sectionAt i with behindSince := none, staleRaised := false } } } := by
  obtain ⟨t, ht⟩ := Option.isSome_iff_exists.1 hs
  rw [judgeSection, hb, ht]
  rfl

theorem judgeSection_stays (h : s.isBehind i = (s.sectionAt i).behindSince.isSome) : judgeSection s i = s := by
  rw [judgeSection, h]
  cases (s.sectionAt i).behindSince <;> rfl

theorem judgeList_one (i : Nat) (s : State) :
    judgeList [i] s = if (judgeSection s i).behindMap = s.behindMap then judgeSection s i else clearStale (judgeSection s i) :=
  if_congr beq_iff_eq rfl rfl

theorem clearStale_behind (h : ∃ p ∈ s.permits.sections, p.behindSince.isSome = true) : clearStale s = s :=
  if_pos (List.any_eq_true.2 h)

theorem clearStale_none (h : ∀ p ∈ s.permits.sections, p.behindSince = none) : clearStale s = clearFault .permitStale 0 s := by
  refine if_neg fun hb => ?_
  obtain ⟨p, hp, hs⟩ := List.any_eq_true.1 hb
  simp [h p hp] at hs

/-! ### Amendments and images -/

theorem amendSection_key (hk : s.sectionKey i = some k) (hg : k.gen < 65535) :
    amendSection i c s =
      match applyChange (s.sectionAt i) c with
      | .error st => refuse st s
      | .ok p => okay (.sectionKey { gen := k.gen + 1, pub := s.own } p.records.length) (amendOwn i k c p s) := by
  rw [amendSection, hk]
  exact if_neg (Nat.not_le.2 hg)

theorem amendFromFrame_fits (h1 : new.gen = old.gen + 1) (h2 : new.pub = n) (h3 : s.sectionKey i = some old)
    (h4 : changeFits i c = true) (hp : applyChange (s.sectionAt i) c = .ok p) :
    amendFromFrame n i old new c s =
      postSection i (some old) true n (sectionNotice i (writeSection i new p.closed p.records s)) := by
  refine (if_pos ⟨h1, h2, h3, h4⟩).trans ?_
  rw [hp]

theorem amendFromFrame_not
    (h : new.gen ≠ old.gen + 1 ∨ new.pub ≠ n ∨ s.sectionKey i ≠ some old ∨ changeFits i c = false
      ∨ (∃ st, applyChange (s.sectionAt i) c = .error st)) : amendFromFrame n i old new c s = s := by
  unfold amendFromFrame
  split
  next hfits =>
    obtain ⟨h1, h2, h3, h4⟩ := hfits
    obtain h | h | h | h | ⟨st, h⟩ := h
    · exact absurd h1 h
    · exact absurd h2 h
    · exact absurd h3 h
    · simp [h] at h4
    · rw [h]
  next => rfl

variable {bytes : List Byte} {supplier : Nat} {r : Nat × Option Key × Bool × List PermitRec}

theorem sectionImageIn_invalid
    (h : sectionOf bytes = none ∨ (∃ r, sectionOf bytes = some r ∧ sectionImageOk i key r = false)) :
    sectionImageIn i key bytes supplier s = (s, .invalid) := by
  obtain h | ⟨r, h, hr⟩ := h
  · rw [sectionImageIn, h]
  · rw [sectionImageIn, h]
    exact if_pos (by simp [hr])

theorem sectionImageIn_valid (h : sectionOf bytes = some r) (hr : sectionImageOk i key r = true) :
    sectionImageIn i key bytes supplier s =
      if !Key.higherOpt key (s.sectionKey i) then (s, .declined)
      else
        (sectionNotice i (postSection i (s.sectionKey i) false supplier (writeSection i key r.2.2.1 r.2.2.2 s)), .installed) := by
  rw [sectionImageIn, h]
  exact if_neg (by simp [hr])

theorem postSection_written (hi : i < s.permits.sections.length) (previous : Option Key) (byAmendment closed : Bool)
    (rs : List PermitRec) :
    postSection i previous byAmendment supplier (writeSection i key closed rs s) =
      postEvent (.sectionUpdated i key previous byAmendment closed rs.length supplier) (writeSection i key closed rs s) := by
  have hat : (writeSection i key closed rs s).sectionAt i = { s.sectionAt i with key := some key, closed := closed, records := rs } :=
    sectionAt_set hi _
  rw [postSection_key (k := key) (by rw [State.sectionKey, hat]), hat]

theorem sectionImageOk_iff {j : Nat} {h : Option Key} {closed : Bool} {rs : List PermitRec} :
    sectionImageOk i key (j, h, closed, rs) = true ↔
      j = i ∧ h = some key ∧ rs.length ≤ 160 ∧ ascending rs = true ∧ ∀ r ∈ rs, permitWf r = true ∧ r.number % 8 = i := by
  simp only [sectionImageOk, Bool.and_eq_true, beq_iff_eq, decide_eq_true_eq, List.all_eq_true]
  exact ⟨fun ⟨⟨⟨⟨⟨h1, h2⟩, h3⟩, h4⟩, h5⟩, h6⟩ => ⟨h1, h2, h3, h5, fun r hr => ⟨h4 r hr, h6 r hr⟩⟩,
    fun ⟨h1, h2, h3, h4, h5⟩ => ⟨⟨⟨⟨⟨h1, h2⟩, h3⟩, fun r hr => (h5 r hr).1⟩, h4⟩, fun r hr => (h5 r hr).2⟩⟩

end Sections

/-! ### The changes that a command names -/

section Named

variable {bs : List Byte} {c : AmendChange} {n : Nat}

theorem wellFormed_iff {f : PermitRec → AmendChange} :
    ((permitOf bs).filter permitWf).map f = some c ↔ ∃ r, permitOf bs = some r ∧ permitWf r = true ∧ c = f r := by
  simp [Option.map_eq_some_iff, Option.filter_eq_some_iff, and_assoc, @eq_comm _ c]

theorem amendChange_status_iff {o : Option PermitStatus} :
    amendChange (.status n o) = some c ↔ ∃ st, o = some st ∧ 1 ≤ n ∧ n ≤ 999999 ∧ c = .status n st := by
  cases o with
  | none => simp [amendChange]
  | some st =>
    rw [amendChange]
    split
    next h => simp [(permitNumberOk_iff n).1 h, @eq_comm _ c]
    next h =>
      rw [permitNumberOk_iff] at h
      simp only [reduceCtorEq, false_iff, not_exists]
      rintro st' ⟨-, h1, h2, -⟩
      exact h ⟨h1, h2⟩

end Named

/-- Settles O41. -/
theorem sectionsAmended : Obligations.SectionsAmended := by
  refine ⟨fun s h => ⟨fun op hop => ?badChange, fun i hi => ?badSection, fun cmd code i c hcmd => ?amends⟩,
    fun p p' c hc ha => ⟨applyChange_keeps_order hc ha, applyChange_keeps_places hc ha, fun n r hn hs =>
      applyChange_keeps_revoked hc hn hs⟩,
    fun p r => ⟨fun hc => if_pos hc, fun hc => ⟨fun hf => ?addHeld, fun hf => ⟨fun hl => ?addFull, fun hl => ?added⟩⟩,
      fun hf => ?replaceUnknown, fun h hf => ⟨fun h1 h2 => ?replaceRevoked, fun hrev => ⟨fun hc hne => ?replaceClosed, fun hc =>
        ?replaced⟩⟩⟩,
    fun p n st => ⟨fun hf => ?statusUnknown, fun h hf => ⟨fun h1 h2 => ?statusRevoked, fun hrev => ?statusSet⟩, fun hc => if_pos hc,
      fun hc => if_neg (by simp [hc])⟩,
    fun r rs => ⟨?found, fun n hn => ?others, insertPermit_new⟩,
    fun i key bytes supplier s => ⟨sectionImageIn_invalid, fun c rs hb hok => ⟨fun hh => ?declined, fun hh hi => ?installed⟩⟩,
    fun n i old new c s => ⟨amendFromFrame_not, fun p h1 h2 h3 h4 hp => amendFromFrame_fits h1 h2 h3 h4 hp⟩,
    fun i s t ht => ⟨isBehind_iff, fun hb hs => ht.trans (judgeSection_falls hb hs), fun hb hs =>
      ht.trans (judgeSection_catchesUp hb hs), fun hb => ht.trans (judgeSection_stays hb), fun hm => ?sameMap, fun hm =>
        ⟨fun hb => ?stillBehind, fun hb => ?noneBehind⟩⟩,
    fun i key h j c rs => ⟨sectionImageOk_iff, ascending_iff rs⟩,
    fun i n r st => ⟨?fitsAdd, ?fitsReplace, ?fitsStatus, rfl, rfl, rfl, rfl, rfl⟩,
    fun bs n o c => ⟨wellFormed_iff, wellFormed_iff, amendChange_status_iff, rfl⟩,
    fun i supplier previous byAmendment k s hk => postSection_key hk previous byAmendment supplier⟩
  case badChange =>
    refine answers_of_host rfl h (body := amendPermitBody op) ?_
    rw [amendPermitBody, hop]
    rfl
  case badSection => exact answers_of_host rfl h (body := closeSectionBody i) (if_pos hi)
  case amends =>
    have hanswers : ∀ {st r u}, amendSection i c s = (st, r, u) → answers cmd s code st r u := by
      intro st r u hb
      obtain ⟨op, rfl, rfl, hop, rfl⟩ | ⟨rfl, rfl, hi, rfl⟩ := hcmd
      · refine answers_of_host rfl h (body := amendPermitBody op) ?_
        rw [amendPermitBody, hop]
        exact hb
      · exact answers_of_host rfl h (body := closeSectionBody i) ((if_neg (Nat.not_lt.2 hi)).trans hb)
    refine ⟨fun hk => hanswers ?_, fun k hk => ⟨fun hg => hanswers ?_, fun hg => ⟨fun st hc => hanswers ?_, fun p hp =>
      hanswers ?_⟩⟩⟩
    · rw [amendSection, hk]
      rfl
    · rw [amendSection, hk]
      exact if_pos hg
    · rw [amendSection_key hk hg, hc]
      rfl
    · rw [amendSection_key hk hg, hp]
      rfl
  case addHeld => exact (if_neg (by simp [hc])).trans (if_pos hf)
  case addFull => exact (applyChange_add hc hf).trans (if_pos hl)
  case added => exact (applyChange_add hc hf).trans (if_neg (Nat.not_le.2 hl))
  case replaceUnknown => rw [applyChange, hf]
  case replaceRevoked => exact (applyChange_replace hf).trans (if_pos ⟨h1, h2⟩)
  case replaceClosed =>
    exact (applyChange_replace hf).trans ((if_neg (by tauto)).trans (if_pos ⟨hc, hne⟩))
  case replaced =>
    refine (applyChange_replace hf).trans ((if_neg (by tauto)).trans (if_neg ?_))
    rintro ⟨ho, hne⟩
    exact hc.elim (fun hn => by simp [ho] at hn) hne
  case statusUnknown => rw [applyChange, hf]
  case statusRevoked => exact (applyChange_status hf).trans (if_pos ⟨h1, h2⟩)
  case statusSet => exact (applyChange_status hf).trans (if_neg (by tauto))
  case found => rw [findPermit_insertPermit, if_pos rfl]
  case others => rw [findPermit_insertPermit, if_neg hn]
  case declined => exact (sectionImageIn_valid hb hok).trans (if_pos (by simp [hh]))
  case installed =>
    refine (sectionImageIn_valid hb hok).trans ((if_neg (by simp [hh])).trans ?_)
    rw [postSection_written hi]
    rfl
  case sameMap => rw [judgeList_one, ← ht, if_pos hm]
  case stillBehind => rw [judgeList_one, ← ht, if_neg hm, clearStale_behind hb]
  case noneBehind => rw [judgeList_one, ← ht, if_neg hm, clearStale_none hb]
  case fitsAdd => simp [changeFits, changeNumber]
  case fitsReplace => simp [changeFits, changeNumber]
  case fitsStatus => simp [changeFits, changeNumber]

end Sys2Proof.Machine

/-! A section loaded whole: the draft, its records and its end, and what makes a permit record well formed (R106, R116, R117). -/

namespace Sys2Proof.Machine

/-! ### A well-formed record (R106) -/

section WellFormed

theorem vehicleChar_iff (b : Byte) :
    vehicleChar b = true ↔ (65 ≤ b.toNat ∧ b.toNat ≤ 90) ∨ (48 ≤ b.toNat ∧ b.toNat ≤ 57) := by
  simp [vehicleChar]

theorem vehicleOk_iff (o : Option (List Byte)) (c : PermitClass) :
    (match o with
      | none => true
      | some v => 1 ≤ v.length && v.length ≤ 8 && v.all vehicleChar && c != .visitor) = true ↔
      ∀ v, o = some v → 1 ≤ v.length ∧ v.length ≤ 8 ∧ c ≠ .visitor
        ∧ ∀ b ∈ v, (65 ≤ b.toNat ∧ b.toNat ≤ 90) ∨ (48 ≤ b.toNat ∧ b.toNat ≤ 57) := by
  cases o with
  | none => simp
  | some v =>
    simp only [Bool.and_eq_true, decide_eq_true_eq, bne_iff_ne, List.all_eq_true, vehicleChar_iff, Option.some.injEq,
      forall_eq']
    tauto

theorem permitWf_iff (r : PermitRec) :
    permitWf r = true ↔
      1 ≤ r.number ∧ r.number ≤ 999999 ∧ 1 ≤ r.zones.length ∧ r.zones.length ≤ 3
        ∧ (∀ z ∈ r.zones, 1 ≤ z ∧ z ≤ 4095) ∧ r.zones.Nodup
        ∧ (∀ v, r.vehicle = some v → 1 ≤ v.length ∧ v.length ≤ 8 ∧ r.cls ≠ .visitor
            ∧ ∀ b ∈ v, (65 ≤ b.toNat ∧ b.toNat ≤ 90) ∨ (48 ≤ b.toNat ∧ b.toNat ≤ 57))
        ∧ r.validFrom ≤ r.validTo ∧ r.validTo ≤ 65535 ∧ ∀ a, r.allowance = some a → a ≤ 1440 := by
  rw [← vehicleOk_iff, ← noRepeat_iff, ← and_assoc (a := 1 ≤ r.number), ← permitNumberOk_iff]
  have hzones : r.zones.all (fun z => 1 ≤ z && z ≤ 4095) = true ↔ ∀ z ∈ r.zones, 1 ≤ z ∧ z ≤ 4095 := by simp
  rw [← hzones]
  unfold permitWf
  cases r.allowance <;> cases r.vehicle <;> simp [and_assoc]

end WellFormed

/-! ### The draft -/

section Draft

variable {s : State} {d : SectionDraft} {r : PermitRec} {bs : List Byte} {i n : Nat}

theorem lastNumber_concat (r : PermitRec) (rs : List PermitRec) : lastNumber (rs ++ [r]) = r.number := by
  simp [lastNumber]

theorem loadFits_iff :
    loadFits d r = true ↔
      permitWf r = true ∧ r.number % 8 = d.index ∧ lastNumber d.records < r.number ∧ d.records.length < 160 := by
  simp only [loadFits, Bool.and_eq_true, beq_iff_eq, decide_eq_true_eq, and_assoc]

theorem loadRecordBody_draft (h : s.permits.draft = some d) :
    loadRecordBody bs s =
      match (permitOf bs).filter (loadFits d) with
      | none => refuse .badParameter s
      | some r =>
        okay (.sectionCount (d.records.length + 1)) (setSectionDraft (some { d with records := d.records ++ [r] }) s) := by
  rw [loadRecordBody, h] <;> rfl

theorem loadEndBody_draft (closed : Bool) (h : s.permits.draft = some d) :
    loadEndBody closed s =
      if 65535 ≤ highestSectionGen s d.index then refuse .badParameter s
      else
        okay (.sectionKey { gen := highestSectionGen s d.index + 1, pub := s.own } d.records.length)
          (sectionNotice d.index
            (writeSection d.index { gen := highestSectionGen s d.index + 1, pub := s.own } closed d.records
              (setSectionDraft none s))) := by
  rw [loadEndBody, h]

theorem genOf_le (o : Option Key) : genOf o ≤ n ↔ ∀ k, o = some k → k.gen ≤ n := by
  cases o <;> simp [genOf]

theorem highestSectionGen_le :
    highestSectionGen s i ≤ n ↔
      (∀ k, s.sectionKey i = some k → k.gen ≤ n) ∧ ∀ p ∈ s.link.peers, ∀ k, peerSection i p = some k → k.gen ≤ n := by
  simp only [highestSectionGen, maxOf_le, List.forall_mem_cons, List.forall_mem_map, genOf_le]

end Draft

/-- Settles O42. -/
theorem sectionLoaded : Obligations.SectionLoaded := by
  refine ⟨fun s h => ⟨fun i hi => ?badSection, fun i hi => ?begins, fun hd => ⟨fun bs => ?noDraft, fun closed => ?noEnd⟩,
      fun d hd => ⟨fun bs hbs => ?noRecord, fun bs r hbs => ⟨fun hno => ?unfit, fun h1 h2 h3 h4 => ?appended⟩,
        fun closed => ⟨fun hg => ?lastKey, fun hg => ?written⟩⟩⟩,
    permitWf_iff, fun r rs => ⟨rfl, lastNumber_concat r rs⟩, fun i n s => highestSectionGen_le⟩
  case badSection => exact answers_of_host rfl h (body := loadBeginBody i) (if_pos hi)
  case begins => exact answers_of_host rfl h (body := loadBeginBody i) (if_neg (Nat.not_lt.2 hi))
  case noDraft =>
    refine answers_of_host rfl h (body := loadRecordBody bs) ?_
    rw [loadRecordBody, hd]
    rfl
  case noEnd =>
    refine answers_of_host rfl h (body := loadEndBody closed) ?_
    rw [loadEndBody, hd]
    rfl
  case noRecord =>
    refine answers_of_host rfl h (body := loadRecordBody bs) ?_
    rw [loadRecordBody_draft hd, hbs]
    rfl
  case unfit =>
    have hfit : ¬loadFits d r = true := by
      rw [loadFits_iff]
      rintro ⟨h1, h2, h3, h4⟩
      obtain hno | hno | hno | hno := hno
      · simp [h1] at hno
      · exact hno h2
      · exact Nat.not_lt.2 hno h3
      · exact Nat.not_lt.2 hno h4
    refine answers_of_host rfl h (body := loadRecordBody bs) ?_
    rw [loadRecordBody_draft hd, hbs, Option.filter_some_neg (Bool.eq_false_iff.2 hfit)]
    rfl
  case appended =>
    refine answers_of_host rfl h (body := loadRecordBody bs) ?_
    rw [loadRecordBody_draft hd, hbs, Option.filter_some_pos (loadFits_iff.2 ⟨h1, h2, h3, h4⟩)]
    rfl
  case lastKey => exact answers_of_host rfl h (body := loadEndBody closed) ((loadEndBody_draft closed hd).trans (if_pos hg))
  case written =>
    exact answers_of_host rfl h (body := loadEndBody closed) ((loadEndBody_draft closed hd).trans (if_neg (Nat.not_le.2 hg)))

end Sys2Proof.Machine

/-! READ_SECTION, READ_USAGE, READ_TALLY and READ_JOURNAL with their figures, and what a USAGE frame does (R57, R118, R121, R124,
R127, R132, R135 to R137). -/

namespace Sys2Proof.Machine

/-! ### The figures of the accounts -/

section Figures

variable {s : State} {c : Cash} {o : OpenSeg} {i n : Nat}

theorem protectedCount_open (h : c.openSeg = some o) :
    protectedCount c = o.count + (c.spans.map fun sp => sp.lastSeq - sp.firstSeq + 1).sum := by
  rw [protectedCount, h]
  rfl

theorem protectedCount_closed (h : c.openSeg = none) :
    protectedCount c = (c.spans.map fun sp => sp.lastSeq - sp.firstSeq + 1).sum := by
  rw [protectedCount, h]
  exact Nat.zero_add _

theorem advertisedSection_none (h : ∀ p ∈ s.link.peers, peerSection i p = none) : advertisedSection s i = none := by
  have hnone : highestKey (s.link.peers.map (peerSection i)) = none := by
    rw [highestKey_none]
    intro k hk
    obtain ⟨p, hp, hpk⟩ := List.mem_map.1 hk
    simp [h p hp] at hpk
  rw [advertisedSection, hnone]

theorem advertisedSection_some {before after : List PeerEntry} {p : PeerEntry} {k : Key}
    (h : s.link.peers = before ++ p :: after) (hk : peerSection i p = some k)
    (hmax : ∀ q ∈ s.link.peers, ∀ h, peerSection i q = some h → Key.higher h k = false)
    (hb : ∀ q ∈ before, peerSection i q ≠ some k) : advertisedSection s i = some (k, p.station) := by
  have hp : p ∈ s.link.peers := h ▸ List.mem_append_right before List.mem_cons_self
  have hhigh : highestKey (s.link.peers.map (peerSection i)) = some k := by
    refine highestKey_some (List.mem_map.2 ⟨p, hp, hk⟩) fun x hx => ?_
    obtain ⟨q, hq, hqx⟩ := List.mem_map.1 hx
    exact hmax q hq x hqx
  have hfirst : (s.link.peers.find? fun p => peerSection i p == some k) = some p :=
    find?_first h (fun q hq => beq_eq_false_iff_ne.2 (hb q hq)) (beq_iff_eq.2 hk)
  rw [advertisedSection, hhigh]
  dsimp only
  rw [hfirst]
  rfl

theorem heldAllowance_held {r : PermitRec} (h : findPermit n (s.sectionAt (n % 8)).records = some r) :
    heldAllowance s n = r.allowance.getD 0 := by
  rw [heldAllowance, h]

theorem today_none (h : s.clock.zone = none) : s.today = none := by
  rw [State.today, h]
  rfl

theorem permitNumberOk_false (h : n < 1 ∨ 999999 < n) : permitNumberOk n = false := by
  rw [← Bool.not_eq_true, permitNumberOk_iff]
  omega

end Figures

/-! ### The usage table and a peer's contribution -/

section Contributions

variable {s : State} {e e' : UsageEntry} {t : List UsageEntry} {n m k day minutes permit today : Nat}

theorem find?_insertContrib (n m k : Nat) (l : List (Nat × Nat)) :
    ((insertContrib n m l).find? fun x => x.1 == k) = if k = n then some (n, m) else l.find? fun x => x.1 == k := by
  induction l with
  | nil =>
    by_cases hk : k = n
    · simp [insertContrib, hk]
    · simp [insertContrib, hk, Ne.symm hk]
  | cons x xs ih =>
    rw [insertContrib]
    split
    next =>
      by_cases hk : k = n
      · simp [hk]
      · simp [List.find?_cons, hk, Ne.symm hk]
    next =>
      split
      next hx =>
        by_cases hk : k = n
        · simp [hk]
        · simp [hk, Ne.symm hk, ← hx]
      next hx =>
        by_cases hk : k = n
        · rw [List.find?_cons_of_neg (by simpa [hk] using Ne.symm hx), ih]
          simp [hk]
        · rw [List.find?_cons, ih, List.find?_cons]
          simp [hk]

theorem isUsage_iff {x : UsageEntry} : isUsage permit day x = true ↔ x.permit = permit ∧ x.day = day := by
  rw [isUsage, Bool.and_eq_true, beq_iff_eq, beq_iff_eq]

theorem putUsage_replaces (h : ∃ x ∈ t, x.permit = e.permit ∧ x.day = e.day) :
    putUsage e t = t.map fun x => if x.permit == e.permit && x.day == e.day then e else x := by
  obtain ⟨x, hx, hkey⟩ := h
  exact if_pos (List.any_eq_true.2 ⟨x, hx, isUsage_iff.2 hkey⟩)

theorem putUsage_adds (h : ∀ x ∈ t, x.permit ≠ e.permit ∨ x.day ≠ e.day) : putUsage e t = t ++ [e] := by
  refine if_neg fun hany => ?_
  obtain ⟨x, hx, hu⟩ := List.any_eq_true.1 hany
  obtain ⟨hp, hd⟩ := isUsage_iff.1 hu
  exact (h x hx).elim (· hp) (· hd)

/-- An entry with a peer's contribution raised to what the peer reports (R121). -/
def raisePeer (n minutes : Nat) (e : UsageEntry) : UsageEntry :=
  match contribOf n e with
  | some m => { e with contribs := insertContrib n (max m minutes) e.contribs }
  | none => if 6 ≤ e.contribs.length then { e with saturated := true } else { e with contribs := insertContrib n minutes e.contribs }

theorem raisePeer_cases
    (hheld : ∀ m, contribOf n e = some m → e' = { e with contribs := insertContrib n (max m minutes) e.contribs })
    (hroom : contribOf n e = none → e.contribs.length < 6 → e' = { e with contribs := insertContrib n minutes e.contribs })
    (hfull : contribOf n e = none → 6 ≤ e.contribs.length → e' = { e with saturated := true }) :
    e' = raisePeer n minutes e := by
  unfold raisePeer
  split
  next m hm => exact hheld m hm
  next hn =>
    split
    next hl => exact hfull hn hl
    next hl => exact hroom hn (Nat.not_le.1 hl)

theorem applyContrib_not
    (h : s.today = none ∨ (∃ d, s.today = some d ∧ day < d) ∨ minutes < 1 ∨ 1440 < minutes) :
    applyContrib n day s (permit, minutes) = s := by
  rw [applyContrib]
  split
  next => rfl
  next d hd =>
    refine if_pos ?_
    obtain h | ⟨d', hd', hlt⟩ | h | h := h
    · simp [h] at hd
    · cases hd.symm.trans hd'
      exact .inl hlt
    · exact .inr (.inl h)
    · exact .inr (.inr h)

theorem applyContrib_held (ht : s.today = some today) (hd : today ≤ day) (h1 : 1 ≤ minutes) (h2 : minutes ≤ 1440)
    (he : s.usageOf permit day = some e) :
    applyContrib n day s (permit, minutes) =
      { s with permits := { s.permits with usage := putUsage (raisePeer n minutes e) s.permits.usage } } := by
  rw [applyContrib, ht]
  refine (if_neg (by dsimp only; omega)).trans ?_
  rw [he]
  rfl

theorem applyContrib_new (ht : s.today = some today) (hd : today ≤ day) (h1 : 1 ≤ minutes) (h2 : minutes ≤ 1440)
    (he : s.usageOf permit day = none) :
    applyContrib n day s (permit, minutes) =
      if s.permits.usage.length < 96 then
        { s with permits := { s.permits with
          usage := s.permits.usage ++ [{ permit := permit, day := day, contribs := [(n, minutes)], saturated := false }] } }
      else { s with permits := { s.permits with lostDay := some day } } := by
  rw [applyContrib, ht]
  refine (if_neg (by dsimp only; omega)).trans ?_
  rw [he]

end Contributions

/-! ### The usage position -/

section Position

variable {h : UsagePos} {old new : UsagePos} {s : State} {ser : Series} {part now day n d c : Nat}

theorem moveUsagePos_moves (hp : new.pos ≠ old.pos) : moveUsagePos old new s = judgeSettled (setUsagePos new s) := if_neg hp

theorem moveUsagePos_stays (hp : new.pos = old.pos) : moveUsagePos old new s = setUsagePos new s := if_pos hp

theorem usageAfterPart_waits (hc : seriesComplete (joinSeries h.series ser part now) = false) :
    usageAfterPart h ser part now = { h with series := some (joinSeries h.series ser part now) } := if_neg (by simp [hc])

theorem usageAfterPart_complete (hc : seriesComplete (joinSeries h.series ser part now) = true) :
    usageAfterPart h ser part now = { h with series := none, pos := usageComplete h.pos ser } := if_pos hc

theorem usageAfterSingle_unheld (hp : h.pos = none) :
    usageAfterSingle h day n = if n = 1 then { h with pos := some (day, 1) } else h := by
  rw [usageAfterSingle, hp]

theorem usageAfterSingle_held (hp : h.pos = some (d, c)) :
    usageAfterSingle h day n =
      if d = day then (if n = c + 1 then { h with pos := some (d, n) } else h)
      else if d < day ∧ n = 1 then { h with pos := some (day, 1) }
      else h := by
  rw [usageAfterSingle, hp]

end Position

/-- Settles O43. -/
theorem permitAndAccountReads : Obligations.PermitAndAccountReads := by
  refine ⟨fun s h => ⟨fun i n hbad => ?badSection, fun i n hi hn => ?sectionRead, fun n hn => ?badUsage, fun n h1 h2 hz => ?unset,
      fun n today h1 h2 ht => ?usageRead, answers_of_host rfl h rfl, fun q hq => ?badSeq, fun q hq => ⟨fun hf => ?noRecord,
        fun r hf => ?journalRead⟩⟩,
    fun c => ⟨protectedCount_closed, fun o => protectedCount_open, ?full, fun hf => if_pos hf, fun hf => if_neg (by simp [hf]),
      fun hn => if_pos hn, fun hn => if_neg (Nat.not_le.2 hn)⟩,
    fun s => ⟨fun hm => if_pos hm, fun hm => if_neg (by simp [hm])⟩,
    fun i n s => ⟨advertisedSection_none, fun before p after k hl hk hmax hb => advertisedSection_some hl hk hmax hb,
      fun r => heldAllowance_held⟩,
    fun n m k cs e t => ⟨rfl, ?own, fun hk => ?others, fun ho => (insertContrib_ordered n m ho).2, putUsage_replaces,
      putUsage_adds⟩,
    fun n s v => ⟨?series, ?single⟩,
    fun n day permit minutes s => ⟨applyContrib_not, fun d ht hd h1 h2 => ⟨fun e he e' ⟨hheld, hroom, hfull⟩ => ?raised, fun he =>
      ⟨fun hl => (applyContrib_new ht hd h1 h2 he).trans (if_pos hl),
        fun hl => (applyContrib_new ht hd h1 h2 he).trans (if_neg (Nat.not_lt.2 hl))⟩⟩⟩,
    ?afterPart, fun day n p => ⟨usageAfterSingle_unheld, fun d c hp => ⟨fun hd => ?sameDay, fun hd => ?laterDay, fun hd => ?earlierDay⟩⟩⟩
  case badSection => exact answers_of_host rfl h (body := readSectionBody i n) (if_pos hbad)
  case sectionRead => exact answers_of_host rfl h (body := readSectionBody i n) (if_neg (by omega))
  case badUsage => exact answers_of_host rfl h (body := readUsageBody n) (if_pos (by simp [permitNumberOk_false hn]))
  case unset =>
    refine answers_of_host rfl h (body := readUsageBody n) ((if_neg (by simp [(permitNumberOk_iff n).2 ⟨h1, h2⟩])).trans ?_)
    rw [today_none hz]
    rfl
  case usageRead =>
    refine answers_of_host rfl h (body := readUsageBody n) ((if_neg (by simp [(permitNumberOk_iff n).2 ⟨h1, h2⟩])).trans ?_)
    rw [ht]
    rfl
  case badSeq => exact answers_of_host rfl h (body := readJournalBody q) (if_pos hq)
  case noRecord =>
    have hrec : findRecord s.cash (askedSeq s.cash q) = none := hf
    refine answers_of_host rfl h (body := readJournalBody q) ((if_neg (Nat.not_lt.2 hq)).trans ?_)
    rw [hrec]
    rfl
  case journalRead =>
    have hrec : findRecord s.cash (askedSeq s.cash q) = some r := hf
    refine answers_of_host rfl h (body := readJournalBody q) ((if_neg (Nat.not_lt.2 hq)).trans ?_)
    rw [hrec]
    rfl
  case full => rw [journalFull_iff, isProtected_iff]
  case own => rw [find?_insertContrib, if_pos rfl]
  case others => rw [find?_insertContrib, if_neg hk]
  case series =>
    rintro ser part es _ rfl rfl
    exact ⟨moveUsagePos_moves, moveUsagePos_stays⟩
  case single =>
    rintro day counter permit minutes _ rfl rfl
    exact ⟨moveUsagePos_moves, moveUsagePos_stays⟩
  case raised =>
    rw [applyContrib_held ht hd h1 h2 he, raisePeer_cases hheld hroom hfull]
  case afterPart =>
    rintro rx ser part now _ rfl p rfl
    refine ⟨usageAfterPart_waits, fun hc => ⟨fun hp => ?_, fun d c hp => ⟨fun hlt => ?_, fun hge => ?_⟩⟩⟩
    · rw [usageAfterPart_complete hc, hp, usageComplete, ← hp]
    · rw [usageAfterPart_complete hc, hp, usageComplete, if_pos hlt]
    · rw [usageAfterPart_complete hc, hp, usageComplete, if_neg (by omega), ← hp]
  case sameDay => exact (usageAfterSingle_held hp).trans (if_pos hd)
  case laterDay =>
    refine (usageAfterSingle_held hp).trans ((if_neg hd.ne).trans (if_congr ?_ rfl rfl))
    exact and_iff_right hd
  case earlierDay => exact (usageAfterSingle_held hp).trans ((if_neg hd.ne').trans (if_neg fun hn => Nat.lt_asymm hd hn.1))

end Sys2Proof.Machine

/-! The filters of a received frame: the step at which each is discarded, the ranges of the bodies, the sender's role, and the
waiting place (R17, R20 to R23, R192). -/

namespace Sys2Proof.Machine

/-! ### The columns of Table 2.2 and the ranges of the fields -/

section Ranges

variable {obj : ImageObj} {k : Key} {dest : Nat}

theorem Key.ok_iff : Key.ok k = true ↔ 1 ≤ k.gen ∧ k.gen ≤ 65535 ∧ 1 ≤ k.pub ∧ k.pub ≤ 32 := by
  rw [Key.ok, Bool.and_eq_true, Bool.and_eq_true, decide_eq_true_eq, decide_eq_true_eq, stationOk_iff, and_assoc]

theorem objOk_iff : objOk obj = true ↔ ∀ i, obj = .sect i → i ≤ 7 := by
  cases obj <;> simp [objOk]

theorem subjectOk_iff (k : FaultKind) (subject : Nat) :
    subjectOk k subject = true ↔ (faultCode k ≤ 16 ∧ subject = 0) ∨ (16 < faultCode k ∧ 1 ≤ subject ∧ subject ≤ 32) := by
  unfold subjectOk
  split
  next h => simp [h, Nat.not_lt.2 h]
  next h => simp [h, Nat.not_le.1 h, stationOk_iff]

theorem faultEntryOk_iff (e : FaultEntry) :
    faultEntryOk e = true ↔
      1 ≤ e.owner ∧ e.owner ≤ 32 ∧ subjectOk e.kind e.subject = true ∧ e.subject ≠ e.owner ∧ 1 ≤ e.occurrences
        ∧ e.occurrences ≤ 255 := by
  simp only [faultEntryOk, Bool.and_eq_true, stationOk_iff, bne_iff_ne, decide_eq_true_eq, and_assoc]

theorem broadcastOrStation_iff : (dest == 0 || stationOk dest) = true ↔ dest ≤ 32 := by
  rw [Bool.or_eq_true, beq_iff_eq, stationOk_iff]
  omega

theorem destFits_iff (body : FrameBody) (dest : Nat) :
    destFits body dest = true ↔
      match body with
      | .announce _ | .amendment _ _ _ _ | .roundOpen _ | .roundClose _ => dest = 0
      | .usage _ | .faultReport _ => dest ≤ 32
      | _ => 1 ≤ dest ∧ dest ≤ 32 := by
  cases body with
  | announce | amendment | roundOpen | roundClose => exact beq_iff_eq
  | usage | faultReport => exact broadcastOrStation_iff
  | request | fragment | notHeld | superseded | faultAck | faultClear | roundVisit | collectionReport | collectionAck | restart
  | page => exact stationOk_iff

theorem senderTrusted_iff (body : FrameBody) (role : Role) :
    senderTrusted body role = true ↔
      match body with
      | .amendment _ _ _ _ | .faultAck _ _ => role = .gateway
      | .faultClear _ _ | .restart _ => role = .engineer
      | .roundOpen _ | .roundVisit _ | .roundClose _ | .collectionAck _ _ => role = .collector
      | .collectionReport _ => role = .fixed ∨ role = .gateway
      | .page _ => role = .engineer ∨ role = .collector
      | _ => True := by
  cases body with
  | amendment | faultAck | faultClear | restart | roundOpen | roundVisit | roundClose | collectionAck => exact beq_iff_eq
  | collectionReport | page => simp [senderTrusted]
  | announce | request | fragment | notHeld | superseded | usage | faultReport => exact iff_of_true rfl trivial

theorem announceOk_iff (a : AnnounceBody) :
    bodyOk (.announce a) = true ↔
      a.due ≤ 100 ∧ Key.okOpt a.active = true ∧ Key.okOpt a.pending = true ∧ a.sections.length = 8
        ∧ (∀ k ∈ a.sections, Key.okOpt k = true) ∧ ∀ c, a.collector = some c → 1 ≤ c ∧ c ≤ 32 := by
  have hcol : (match a.collector with | none => true | some c => stationOk c) = true ↔
      ∀ c, a.collector = some c → 1 ≤ c ∧ c ≤ 32 := by cases a.collector <;> simp [stationOk_iff]
  rw [← hcol]
  simp only [bodyOk, Bool.and_eq_true, decide_eq_true_eq, beq_iff_eq, List.all_eq_true, and_assoc] <;> rfl

/-- A fragment carries 96 bytes, the last one what is left (R43). -/
theorem fragmentOk_iff (f : FragmentBody) :
    bodyOk (.fragment f) = true ↔
      objOk f.obj = true ∧ Key.ok f.key = true ∧ 1 ≤ f.count ∧ f.count ≤ 41 ∧ 1 ≤ f.data.length ∧ f.data.length ≤ 96
        ∧ (f.index + 1 = f.count → f.data.length = f.length - 96 * (f.count - 1))
        ∧ (f.index + 1 ≠ f.count → f.data.length = 96) := by
  have hbytes : f.data.length = fragmentBytes f.length f.count f.index ↔
      (f.index + 1 = f.count → f.data.length = f.length - 96 * (f.count - 1))
        ∧ (f.index + 1 ≠ f.count → f.data.length = 96) := by
    unfold fragmentBytes
    split
    next h => simp [h]
    next h => simp [h]
  rw [← hbytes]
  simp only [bodyOk, Bool.and_eq_true, decide_eq_true_eq, beq_iff_eq]
  tauto

theorem amendChangeOk_iff (c : AmendChange) :
    amendChangeOk c = true ↔ ∀ r, c = .add r ∨ c = .replace r → ∀ z ∈ r.zones, z ≤ 4095 := by
  cases c <;> simp [amendChangeOk]

theorem bodyOk_iff (body : FrameBody) :
    bodyOk body = true ↔
      match body with
      | .announce a =>
        a.due ≤ 100 ∧ Key.okOpt a.active = true ∧ Key.okOpt a.pending = true ∧ a.sections.length = 8
          ∧ (∀ k ∈ a.sections, Key.okOpt k = true) ∧ ∀ c, a.collector = some c → 1 ≤ c ∧ c ≤ 32
      | .request (.image obj key _) | .notHeld obj key | .superseded obj key => objOk obj = true ∧ Key.ok key = true
      | .fragment f =>
        objOk f.obj = true ∧ Key.ok f.key = true ∧ 1 ≤ f.count ∧ f.count ≤ 41 ∧ 1 ≤ f.data.length ∧ f.data.length ≤ 96
          ∧ (f.index + 1 = f.count → f.data.length = f.length - 96 * (f.count - 1))
          ∧ (f.index + 1 ≠ f.count → f.data.length = 96)
      | .amendment i old new change =>
        i ≤ 7 ∧ Key.ok old = true ∧ Key.ok new = true
          ∧ ∀ r, change = .add r ∨ change = .replace r → ∀ z ∈ r.zones, z ≤ 4095
      | .usage (.series ser _ entries) => 1 ≤ ser.parts ∧ entries.length ≤ 8
      | .faultReport (.series ser _ entries) =>
        1 ≤ ser.parts ∧ entries.length ≤ 4 ∧ ∀ e ∈ entries, faultEntryOk e = true
      | .faultReport (.single _ e) => faultEntryOk e = true
      | .faultAck k subject | .faultClear k subject => subjectOk k subject = true
      | .collectionReport d => d.counts.length = 8
      | _ => True := by
  cases body with
  | announce a => exact announceOk_iff a
  | request r => cases r <;> simp [bodyOk]
  | fragment f => exact fragmentOk_iff f
  | notHeld | superseded => simp [bodyOk]
  | amendment i old new c => simp only [bodyOk, Bool.and_eq_true, decide_eq_true_eq, amendChangeOk_iff, and_assoc]
  | usage u => cases u <;> simp [bodyOk]
  | faultReport r => cases r <;> simp [bodyOk, and_assoc]
  | faultAck | faultClear => exact Iff.rfl
  | collectionReport d => simp [bodyOk]
  | roundOpen | roundVisit | roundClose | collectionAck | restart | page => exact iff_of_true rfl trivial

end Ranges

/-! ### The step at which a frame is discarded -/

section Steps

variable {zone own : Nat} {h : FrameHeader} {body : FrameBody}

theorem headerOk_iff :
    (stationOk h.sender && destFits body h.dest && bodyOk body) = true ↔
      1 ≤ h.sender ∧ h.sender ≤ 32 ∧ destFits body h.dest = true ∧ bodyOk body = true := by
  rw [Bool.and_eq_true, Bool.and_eq_true, stationOk_iff, and_assoc, and_assoc]

/-- The four filters in their order (R20, R21). -/
theorem filterStep_cases {inRange : Prop}
    (hr : inRange ↔ 1 ≤ h.sender ∧ h.sender ≤ 32 ∧ destFits body h.dest = true ∧ bodyOk body = true) :
    (h.zone ≠ zone ∧ filterStep zone own h body = some .zone)
      ∨ (h.zone = zone ∧ ¬inRange ∧ filterStep zone own h body = some .header)
      ∨ (h.zone = zone ∧ inRange ∧ ¬(h.dest = 0 ∨ h.dest = own) ∧ filterStep zone own h body = some .dest)
      ∨ (h.zone = zone ∧ inRange ∧ (h.dest = 0 ∨ h.dest = own) ∧ h.sender = own
          ∧ filterStep zone own h body = some .sender)
      ∨ (h.zone = zone ∧ inRange ∧ (h.dest = 0 ∨ h.dest = own) ∧ h.sender ≠ own
          ∧ filterStep zone own h body = none) := by
  rw [← headerOk_iff] at hr
  by_cases hz : h.zone ≠ zone
  · exact .inl ⟨hz, if_pos hz⟩
  by_cases hin : inRange
  · have hok : ¬(!(stationOk h.sender && destFits body h.dest && bodyOk body)) = true := by simp [hr.1 hin]
    by_cases hd : h.dest ≠ 0 ∧ h.dest ≠ own
    · exact .inr (.inr (.inl ⟨not_not.1 hz, hin, not_or.2 hd, (if_neg hz).trans ((if_neg hok).trans (if_pos hd))⟩))
    · have hdest : h.dest = 0 ∨ h.dest = own := by tauto
      by_cases hs : h.sender = own
      · exact .inr (.inr (.inr (.inl ⟨not_not.1 hz, hin, hdest, hs,
          (if_neg hz).trans ((if_neg hok).trans ((if_neg hd).trans (if_pos hs)))⟩)))
      · exact .inr (.inr (.inr (.inr ⟨not_not.1 hz, hin, hdest, hs,
          (if_neg hz).trans ((if_neg hok).trans ((if_neg hd).trans (if_neg hs)))⟩)))
  · have hbad : (!(stationOk h.sender && destFits body h.dest && bodyOk body)) = true := by
      rw [Bool.not_eq_true', Bool.eq_false_iff]
      exact mt hr.2 hin
    exact .inr (.inl ⟨not_not.1 hz, hin, (if_neg hz).trans (if_pos hbad)⟩)

end Steps

/-! ### What a frame does at the link -/

section Link

variable {s : State} {h : FrameHeader} {body : FrameBody} {accept f : State → State} {st : FilterStep} {i : Instr}

/-- A frame given by its content goes through the filters; one that is no announce then meets its sender's role. -/
theorem exec_carried (hc : carriedFrame i = some (h, body)) :
    ∃ accept, (∀ s, exec i s = act (filterFrame h body accept) s)
      ∧ (isAnnounce body = false → ∃ f, accept = trustFrame h body f) := by
  cases i <;> cases hc
  case announce => exact ⟨_, fun _ => rfl, fun ha => by cases ha⟩
  all_goals exact ⟨_, fun _ => rfl, fun _ => ⟨_, rfl⟩⟩

theorem filterFrame_off (hr : s.canReceive = false) : filterFrame h body accept s = s := if_neg (by simp [hr])

theorem filterFrame_stopped (hr : s.canReceive = true) (hf : filterStep s.zoneNo s.own h body = some st) (hs : st ≠ .sender) :
    filterFrame h body accept s = s := by
  refine (if_pos hr).trans ?_
  rw [hf]
  cases st with
  | sender => exact absurd rfl hs
  | zone | check | header | dest => rfl

theorem filterFrame_ownNumber (hr : s.canReceive = true) (hf : filterStep s.zoneNo s.own h body = some .sender) :
    filterFrame h body accept s = ownNumberHeard s := by
  refine (if_pos hr).trans ?_
  rw [hf]

theorem filterFrame_passed (hr : s.canReceive = true) (hf : filterStep s.zoneNo s.own h body = none) :
    filterFrame h body accept s = if s.hasPlace then accept (noteAddressed h s) else noteAddressed h s := by
  refine (if_pos hr).trans ?_
  rw [hf]

theorem noteAddressed_peer (h : FrameHeader) (n : Nat) (s : State) : (noteAddressed h s).peer n = s.peer n := by
  unfold noteAddressed
  split <;> rfl

theorem trustFrame_stranger (hp : s.peer h.sender = none) : trustFrame h body f (noteAddressed h s) = noteAddressed h s := by
  rw [trustFrame, noteAddressed_peer, hp]

theorem trustFrame_distrusted {p : PeerEntry} (hp : s.peer h.sender = some p) (ht : senderTrusted body p.role = false) :
    trustFrame h body f (noteAddressed h s) = heard h s := by
  rw [trustFrame, noteAddressed_peer, hp]
  exact if_neg (by simp [ht])

theorem discardFrame_ownNumber {bytes : List Byte} (hr : s.canReceive = true)
    (hf : filterBytes s.zoneNo s.own bytes = .inl .sender) : discardFrame bytes s = ownNumberHeard s := by
  refine (if_pos hr).trans ?_
  rw [hf]

theorem discardFrame_other {bytes : List Byte} (hf : filterBytes s.zoneNo s.own bytes ≠ .inl .sender) :
    discardFrame bytes s = s := by
  unfold discardFrame
  split
  next =>
    split
    next hs => exact absurd hs hf
    next => rfl
  next => rfl

theorem duplicateDue_iff :
    s.duplicateDue = true ↔ ∀ t, s.link.lastDuplicate = some t → t + 32000 ≤ s.clock.elapsed := by
  unfold State.duplicateDue
  cases s.link.lastDuplicate <;> simp [State.hasRun]

theorem noteAddressed_own (hd : h.dest = s.own) (hh : s.link.handing = false) :
    noteAddressed h s = { s with link := { s.link with addressedAt := some s.clock.elapsed } } := if_pos ⟨hd, hh⟩

theorem noteAddressed_other (hd : h.dest ≠ s.own ∨ s.link.handing = true) : noteAddressed h s = s :=
  if_neg fun ⟨h1, h2⟩ => hd.elim (· h1) fun hh => by simp [hh] at h2

theorem hasPlace_iff : s.hasPlace = true ↔ s.link.handing = true ∨ s.link.waiting = none := by
  rw [State.hasPlace, Bool.or_eq_true, Option.isNone_iff_eq_none]

end Link

/-- Settles O53. -/
theorem framesFiltered : Obligations.FramesFiltered := by
  refine ⟨fun i h body s hh hc => ?carried, fun bytes s hh => ⟨fun hr => ?discardOff, fun hr =>
      ⟨fun hf => acts_of_act rfl hh (discardFrame_ownNumber hr hf), fun hf => acts_of_act rfl hh (discardFrame_other hf)⟩⟩,
    fun s => ⟨fun t ht hlt => ?recent, fun hd => ?raised⟩,
    fun h s => ⟨noteAddressed_own, noteAddressed_other, hasPlace_iff⟩,
    fun zone own h body => ?passes, fun zone own h body inRange hr => ?steps, destFits_iff, senderTrusted_iff, bodyOk_iff,
    fun k obj => ⟨Key.ok_iff, rfl, rfl, objOk_iff⟩, subjectOk_iff, faultEntryOk_iff, rfl⟩
  case carried =>
    obtain ⟨accept, hexec, htrust⟩ := exec_carried hc
    refine ⟨fun hr => ?_, fun hr => ⟨fun st hf hs => ?_, fun hf => ?_, fun hf hp => ?_, fun hf hp ha => ?_⟩⟩
    · exact acts_of_act (hexec s) hh (filterFrame_off hr)
    · exact acts_of_act (hexec s) hh (filterFrame_stopped hr hf hs)
    · exact acts_of_act (hexec s) hh (filterFrame_ownNumber hr hf)
    · exact acts_of_act (hexec s) hh ((filterFrame_passed hr hf).trans (if_neg (by simp [hp])))
    · obtain ⟨f, rfl⟩ := htrust ha
      refine ⟨fun hn => ?_, fun p hpeer ht => ?_⟩
      · exact acts_of_act (hexec s) hh ((filterFrame_passed hr hf).trans ((if_pos hp).trans (trustFrame_stranger hn)))
      · exact acts_of_act (hexec s) hh ((filterFrame_passed hr hf).trans ((if_pos hp).trans (trustFrame_distrusted hpeer ht)))
  case discardOff => exact acts_of_act rfl hh (f := discardFrame bytes) (if_neg (by simp [hr]))
  case recent => exact if_neg fun hd => Nat.not_lt.2 (duplicateDue_iff.1 hd t ht) hlt
  case raised =>
    refine if_pos (duplicateDue_iff.2 fun t ht => ?_)
    obtain hn | ⟨t', ht', hge⟩ := hd
    · simp [hn] at ht
    · cases ht.symm.trans ht'
      exact hge
  case passes =>
    obtain ⟨hz, hf⟩ | ⟨hz, hr, hf⟩ | ⟨hz, hr, hd, hf⟩ | ⟨hz, hr, hd, hs, hf⟩ | ⟨hz, hr, hd, hs, hf⟩ :=
      filterStep_cases (zone := zone) (own := own) (h := h) (body := body) Iff.rfl
    all_goals rw [hf]; simp only [reduceCtorEq, false_iff, true_iff]; tauto
  case steps =>
    obtain ⟨hz, hf⟩ | ⟨hz, hin, hf⟩ | ⟨hz, hin, hd, hf⟩ | ⟨hz, hin, hd, hs, hf⟩ | ⟨hz, hin, hd, hs, hf⟩ :=
      filterStep_cases (zone := zone) (own := own) hr
    all_goals rw [hf]; simp only [reduceCtorEq, Option.some.injEq, false_iff, true_iff, ne_eq, not_false_eq_true, true_and]; tauto

end Sys2Proof.Machine

/-! Each honoured frame is handed to the unit that owns it: the fragments that the intake accepts, the answers of its provider, the
rounds, the restart and the page (R43, R45, R143 to R145, R169, R170). -/

namespace Sys2Proof.Machine

/-! ### The state in which the owning unit takes a frame -/

section Heard

variable {h : FrameHeader} {s : State}

/-- A peer entry with its last-heard time at `now`, where it is the sender's (R22). -/
def hearPeer (sender now : Nat) (p : PeerEntry) : PeerEntry := if p.station == sender then { p with lastHeard := now } else p

theorem hearPeer_reads (sender now : Nat) (p : PeerEntry) :
    (hearPeer sender now p).station = p.station ∧ (hearPeer sender now p).status = p.status
      ∧ (hearPeer sender now p).active = p.active ∧ (hearPeer sender now p).pending = p.pending
      ∧ (hearPeer sender now p).sections = p.sections := by
  unfold hearPeer
  split <;> exact ⟨rfl, rfl, rfl, rfl, rfl⟩

theorem advertises_hear (obj : ImageObj) (key : Key) (sender now : Nat) (p : PeerEntry) :
    advertises obj key (hearPeer sender now p) = advertises obj key p := by
  obtain ⟨-, -, hactive, hpending, hsections⟩ := hearPeer_reads sender now p
  cases obj with
  | tariff => rw [advertises, hactive, hpending]; rfl
  | sect i => rw [advertises, peerSection, hsections]; rfl

/-- A frame heard leaves its mark in the link alone. -/
theorem heard_link (h : FrameHeader) (s : State) : heard h s = { s with link := (heard h s).link } := by
  unfold heard noteHeard noteAddressed
  split <;> rfl

theorem heard_peers (h : FrameHeader) (s : State) :
    (heard h s).link.peers = s.link.peers.map (hearPeer h.sender s.clock.elapsed) := by
  unfold heard noteHeard noteAddressed
  split <;> rfl

theorem heard_reads (h : FrameHeader) (s : State) :
    (heard h s).repl = s.repl ∧ (heard h s).rounds = s.rounds ∧ (heard h s).faults = s.faults ∧ (heard h s).port = s.port
      ∧ (heard h s).clock = s.clock ∧ (heard h s).tariff = s.tariff ∧ (heard h s).permits = s.permits := by
  rw [heard_link]
  exact ⟨rfl, rfl, rfl, rfl, rfl, rfl, rfl⟩

theorem heard_roles (h : FrameHeader) (s : State) : (heard h s).isMachine = s.isMachine ∧ (heard h s).isRole = s.isRole := by
  rw [heard_link]
  exact ⟨rfl, rfl⟩

theorem candidates_heard (obj : ImageObj) (key : Key) (excluded : List Nat) :
    (heard h s).candidates obj key excluded = s.candidates obj key excluded := by
  have hkept : ∀ p, ((hearPeer h.sender s.clock.elapsed p).status == .live
      && advertises obj key (hearPeer h.sender s.clock.elapsed p)
      && !excluded.contains (hearPeer h.sender s.clock.elapsed p).station) =
        (p.status == .live && advertises obj key p && !excluded.contains p.station) := by
    intro p
    obtain ⟨hstation, hstatus, -⟩ := hearPeer_reads h.sender s.clock.elapsed p
    rw [hstation, hstatus, advertises_hear]
  unfold State.candidates
  rw [heard_peers, List.filter_map, List.map_map]
  refine (List.map_congr_left fun p _ => (hearPeer_reads _ _ p).1).trans (congrArg _ (List.filter_congr fun p _ => hkept p))

theorem any_live_heard {q : PeerEntry → Bool} (hq : ∀ p, q (hearPeer h.sender s.clock.elapsed p) = q p) :
    ((heard h s).link.peers.filter (·.status == .live)).any q = (s.link.peers.filter (·.status == .live)).any q := by
  rw [heard_peers, List.filter_map, List.any_map]
  have hlive : (s.link.peers.filter ((·.status == .live) ∘ hearPeer h.sender s.clock.elapsed)) =
      s.link.peers.filter (·.status == .live) :=
    List.filter_congr fun p _ => congrArg (· == PeerStatus.live) (hearPeer_reads _ _ p).2.1
  rw [hlive, show q ∘ hearPeer h.sender s.clock.elapsed = q from funext hq]

theorem pendingOnly_heard (obj : ImageObj) (key : Key) (before : Bool) :
    (heard h s).pendingOnly obj key before = s.pendingOnly obj key before := by
  cases obj with
  | sect i => rfl
  | tariff =>
    unfold State.pendingOnly
    dsimp only
    rw [any_live_heard fun p => congrArg (· == some key) (hearPeer_reads _ _ p).2.2.1,
      any_live_heard fun p => congrArg (· == some key) (hearPeer_reads _ _ p).2.2.2.1]

theorem qualifies_heard (obj : ImageObj) (key : Key) : (heard h s).qualifies obj key = s.qualifies obj key := by
  rw [heard_link]
  rfl

end Heard

/-! ### The intake and its provider -/

section Intake

variable {i : Intake} {n : Nat} {f : FragmentBody} {s : State} {obj : ImageObj} {key : Key}

theorem infoFits_iff (obj : ImageObj) (length count : Nat) :
    infoFits obj length count = true ↔
      (obj = .tariff → length = 324 ∧ count = 4)
        ∧ ∀ j, obj = .sect j → ∃ r, r ≤ 160 ∧ length = 8 + 24 * r ∧ count = (length + 95) / 96 := by
  cases obj with
  | tariff => simp [infoFits]
  | sect j =>
    simp only [infoFits, fragmentCount, Bool.and_eq_true, decide_eq_true_eq, beq_iff_eq, reduceCtorEq, false_implies, true_and,
      ImageObj.sect.injEq, forall_eq']
    exact ⟨fun ⟨⟨⟨h1, h2⟩, h3⟩, h4⟩ => ⟨(length - 8) / 24, h3, by omega, h4⟩,
      fun ⟨r, hr, hl, hc⟩ => ⟨⟨⟨by omega, by omega⟩, by omega⟩, hc⟩⟩

theorem fragmentFits_iff :
    fragmentFits i f = true ↔
      (∀ x, i.info = some x → x = { count := f.count, length := f.length, check := f.check })
        ∧ (i.info = none → f.index = 0 ∧ (i.obj = .tariff → f.length = 324 ∧ f.count = 4)
            ∧ ∀ j, i.obj = .sect j → ∃ r, r ≤ 160 ∧ f.length = 8 + 24 * r ∧ f.count = (f.length + 95) / 96) := by
  rw [← infoFits_iff]
  unfold fragmentFits
  cases i.info <;> simp

theorem acceptsFragment_iff :
    acceptsFragment i n f = true ↔
      n = i.provider ∧ f.obj = i.obj ∧ f.key = i.key ∧ f.index = i.next
        ∧ f.data.length = (if f.index + 1 = f.count then f.length - 96 * (f.count - 1) else 96)
        ∧ (∀ x, i.info = some x → x = { count := f.count, length := f.length, check := f.check })
        ∧ (i.info = none → f.index = 0 ∧ (i.obj = .tariff → f.length = 324 ∧ f.count = 4)
            ∧ ∀ j, i.obj = .sect j → ∃ r, r ≤ 160 ∧ f.length = 8 + 24 * r ∧ f.count = (f.length + 95) / 96) := by
  rw [← fragmentFits_iff]
  simp only [acceptsFragment, Bool.and_eq_true, beq_iff_eq]
  exact ⟨fun ⟨⟨⟨⟨⟨h1, h2⟩, h3⟩, h4⟩, h5⟩, h6⟩ => ⟨h1, h2, h3, h4, h6, h5⟩,
    fun ⟨h1, h2, h3, h4, h6, h5⟩ => ⟨⟨⟨⟨⟨h1, h2⟩, h3⟩, h4⟩, h5⟩, h6⟩⟩

theorem judgeFragment_taken (hi : s.repl.intake = some i) (ha : acceptsFragment i n f = true) :
    judgeFragment n f s = takeFragment i f s := by
  rw [judgeFragment, hi]
  exact if_pos ha

theorem judgeFragment_not (h : s.repl.intake = none ∨ (∃ i, s.repl.intake = some i ∧ acceptsFragment i n f = false)) :
    judgeFragment n f s = s := by
  obtain h | ⟨i, h, ha⟩ := h
  · rw [judgeFragment, h]
  · rw [judgeFragment, h]
    exact if_neg (by simp [ha])

theorem takeNotHeld_provider (hi : s.repl.intake = some i) (h : i.provider = n ∧ i.obj = obj ∧ i.key = key) :
    takeNotHeld n obj key s = excludeProvider i s := by
  rw [takeNotHeld, hi]
  exact if_pos h

theorem takeNotHeld_other (h : ∀ i, s.repl.intake = some i → ¬(i.provider = n ∧ i.obj = obj ∧ i.key = key)) :
    takeNotHeld n obj key s = s := by
  unfold takeNotHeld
  cases hi : s.repl.intake with
  | none => rfl
  | some i => exact if_neg (h i hi)

theorem takeSuperseded_provider (hi : s.repl.intake = some i) (h : i.provider = n ∧ i.obj = obj) :
    takeSuperseded n obj key s =
      if Key.higher key i.key && s.qualifies obj key then updateIntake (mapWant obj (raisedWant s n obj key) s)
      else excludeProvider i s := by
  rw [takeSuperseded, hi]
  exact if_pos h

theorem takeSuperseded_other (h : ∀ i, s.repl.intake = some i → ¬(i.provider = n ∧ i.obj = obj)) :
    takeSuperseded n obj key s = s := by
  unfold takeSuperseded
  cases hi : s.repl.intake with
  | none => rfl
  | some i => exact if_neg (h i hi)

end Intake

/-! ### Rounds at a machine -/

section Rounds

variable {s : State} {n c : Nat} {f : State → State}

theorem atMachine_machine (h : s.isMachine = true) : atMachine f s = f s := if_pos h

theorem atMachine_other (h : s.isMachine = false) : atMachine f s = s := if_neg (by simp [h])

theorem takeRoundOpen_free (h : s.rounds.ctx.state = .idle ∨ s.rounds.ctx.state = .opened) :
    takeRoundOpen n c s = takeRound n c s := by
  obtain h | h := h <;> rw [takeRoundOpen, h]

theorem takeRoundOpen_held (h1 : s.rounds.ctx.state ≠ .idle) (h2 : s.rounds.ctx.state ≠ .opened) : takeRoundOpen n c s = s := by
  unfold takeRoundOpen
  split
  next h => exact absurd h h1
  next h => exact absurd h h2
  next => rfl
  next => rfl
  next => rfl

theorem takeVisit_free (h : s.rounds.ctx.state = .idle ∨ s.rounds.ctx.state = .opened) :
    takeVisit n c s = postEvent (.visit n c) (startVisit (takeRound n c s)) := by
  obtain h | h := h <;> rw [takeVisit, h]

theorem takeVisit_visited (h : s.rounds.ctx.state = .visited) :
    takeVisit n c s = if holdsRound s.rounds.ctx n c then startVisit s else s := by
  rw [takeVisit, h]

theorem takeVisit_reported (h : s.rounds.ctx.state = .reported) :
    takeVisit n c s = if holdsRound s.rounds.ctx n c then markAllDue s else s := by
  rw [takeVisit, h]

theorem takeVisit_removed (h : s.rounds.ctx.state = .removed) : takeVisit n c s = s := by
  rw [takeVisit, h]

/-- A visit taken again at a VISITED machine starts its period afresh. -/
theorem startVisit_visited {u : State} (hr : u.rounds = s.rounds) (hc : u.clock = s.clock) (h : s.rounds.ctx.state = .visited) :
    startVisit u =
      { u with rounds := { s.rounds with ctx := { s.rounds.ctx with visitStart := some s.clock.elapsed } } } := by
  rw [startVisit, setCtx, hr, hc, ← h]

end Rounds

/-- Settles O54. -/
theorem framesHonoured : Obligations.FramesHonoured := by
  refine ⟨fun h s => ?units, fun i n f => acceptsFragment_iff, fun i s => rfl, fun h s => ⟨rfl, rfl⟩⟩
  obtain ⟨hrepl, hrounds, hfaults, hport, hclock, -, -⟩ := heard_reads h s
  obtain ⟨hmachine, hrole⟩ := heard_roles h s
  refine ⟨fun r hh => acts_of_honoured rfl hh rfl, fun f hh => ⟨fun i hi ha => ?accepted, fun hno => ?notAccepted⟩,
    fun obj key hh => ⟨fun i hi h1 h2 h3 => ?notHeld, fun hno => ?otherNotHeld⟩,
    fun obj key hh => ⟨fun i hi h1 h2 => ⟨fun h3 h4 => ?superseded, fun hno => ?notNewer⟩, fun hno => ?otherSuperseded⟩,
    fun i old new c hh => acts_of_honoured rfl hh rfl, fun u hh => acts_of_honoured rfl hh rfl,
    fun r hh => acts_of_honoured rfl hh rfl, fun k j hh => acts_of_honoured rfl hh rfl,
    fun k j hh => acts_of_honoured rfl hh rfl, fun n hh => ⟨fun hm hs => ?roundTaken, fun hno => ?roundNot⟩,
    fun n hh => ⟨fun hm hs u hu => ?visitTaken, fun hm hs hn hc => ?visitAgain, fun hm hs hn hc => ?visitReported, fun hno => ?visitNot⟩,
    fun n hh => ⟨fun hm hn hc => ?closed, fun hno => ?closeNot⟩, fun d hh => ⟨fun hr => ?report, fun hr => ?reportNot⟩,
    fun f l hh => ⟨fun hm => acts_of_honoured rfl hh (atMachine_machine (hmachine.trans hm)),
      fun hm => acts_of_honoured rfl hh (atMachine_other (hmachine.trans hm))⟩,
    fun n hh => ⟨fun hn => ?restarts, fun hn => ?restartNot⟩, fun c hh => acts_of_honoured rfl hh rfl⟩
  case accepted => exact acts_of_honoured rfl hh (judgeFragment_taken (hrepl ▸ hi) ha)
  case notAccepted => exact acts_of_honoured rfl hh (judgeFragment_not (by rw [hrepl]; exact hno))
  case notHeld => exact acts_of_honoured rfl hh (takeNotHeld_provider (hrepl ▸ hi) ⟨h1, h2, h3⟩)
  case otherNotHeld => exact acts_of_honoured rfl hh (takeNotHeld_other (by rw [hrepl]; exact hno))
  case superseded =>
    refine acts_of_honoured rfl hh ((takeSuperseded_provider (hrepl ▸ hi) ⟨h1, h2⟩).trans ((if_pos ?_).trans ?_))
    · rw [qualifies_heard, h3, h4]; rfl
    · have hraised : raisedWant (heard h s) h.sender obj key = fun e =>
          { e with
            key := key, pendingOnly := s.pendingOnly obj key false
            cands := insertNat h.sender (s.candidates obj key []), excluded := [], timeouts := 0 } := by
        funext e
        rw [raisedWant, pendingOnly_heard, candidates_heard]
      rw [hraised, mapWant, hrepl]
  case notNewer =>
    refine acts_of_honoured rfl hh ((takeSuperseded_provider (hrepl ▸ hi) ⟨h1, h2⟩).trans (if_neg ?_))
    rw [qualifies_heard, Bool.and_eq_true]
    rintro ⟨h3, h4⟩
    exact hno.elim (fun hk => by simp [h3] at hk) (fun hq => by simp [h4] at hq)
  case otherSuperseded => exact acts_of_honoured rfl hh (takeSuperseded_other (by rw [hrepl]; exact hno))
  case roundTaken =>
    exact acts_of_honoured rfl hh
      ((atMachine_machine (hmachine.trans hm)).trans (takeRoundOpen_free (by rw [hrounds]; exact hs)))
  case roundNot =>
    obtain hm | ⟨h1, h2⟩ := hno
    · exact acts_of_honoured rfl hh (atMachine_other (hmachine.trans hm))
    · refine acts_of_honoured rfl hh ?_
      unfold atMachine
      rw [takeRoundOpen_held (by rw [hrounds]; exact h1) (by rw [hrounds]; exact h2), ite_self]
  case visitTaken =>
    subst hu
    have hclock' : (takeRound n h.sender (heard h s)).clock = s.clock := by simp [hclock]
    refine acts_of_honoured rfl hh ((atMachine_machine (hmachine.trans hm)).trans
      ((takeVisit_free (by rw [hrounds]; exact hs)).trans ?_))
    rw [startVisit, setCtx, hclock']
  case visitAgain =>
    refine acts_of_honoured rfl hh ((atMachine_machine (hmachine.trans hm)).trans
      ((takeVisit_visited (by rw [hrounds]; exact hs)).trans ((if_pos ?_).trans (startVisit_visited hrounds hclock hs))))
    rw [hrounds, holdsRound_iff]
    exact ⟨hn, hc⟩
  case visitReported =>
    refine acts_of_honoured rfl hh ((atMachine_machine (hmachine.trans hm)).trans
      ((takeVisit_reported (by rw [hrounds]; exact hs)).trans ((if_pos ?_).trans ?_)))
    · rw [hrounds, holdsRound_iff]
      exact ⟨hn, hc⟩
    · rw [markAllDue, setLog, hrounds]
  case visitNot =>
    obtain hm | hs | ⟨hs, hkey⟩ := hno
    · exact acts_of_honoured rfl hh (atMachine_other (hmachine.trans hm))
    · refine acts_of_honoured rfl hh ?_
      unfold atMachine
      rw [takeVisit_removed (by rw [hrounds]; exact hs), ite_self]
    · have hkeeps : takeVisit n h.sender (heard h s) = heard h s := by
        have hholds : ¬holdsRound (heard h s).rounds.ctx n h.sender = true := by
          rw [hrounds, holdsRound_iff]
          rintro ⟨hn, hc⟩
          exact hkey.elim (· hn) (· hc)
        obtain hs | hs := hs
        · exact (takeVisit_visited (by rw [hrounds]; exact hs)).trans (if_neg hholds)
        · exact (takeVisit_reported (by rw [hrounds]; exact hs)).trans (if_neg hholds)
      refine acts_of_honoured rfl hh ?_
      unfold atMachine
      rw [hkeeps, ite_self]
  case closed =>
    refine acts_of_honoured rfl hh ((atMachine_machine (hmachine.trans hm)).trans ((if_pos ?_).trans ?_))
    · rw [hrounds, holdsRound_iff]
      exact ⟨hn, hc⟩
    · rw [closeRound, setCtx, hrounds]
      rfl
  case closeNot =>
    obtain hm | hkey := hno
    · exact acts_of_honoured rfl hh (atMachine_other (hmachine.trans hm))
    · have hkeeps : takeClose n h.sender (heard h s) = heard h s := by
        refine if_neg ?_
        rw [hrounds, holdsRound_iff]
        rintro ⟨hn, hc⟩
        exact hkey.elim (· hn) (· hc)
      refine acts_of_honoured rfl hh ?_
      unfold atMachine
      rw [hkeeps, ite_self]
  case report => exact acts_of_honoured (exec_collectionReport s h d) hh (if_pos (by rw [hrole]; exact hr))
  case reportNot => exact acts_of_honoured (exec_collectionReport s h d) hh (if_neg (by rw [hrole]; simp [hr]))
  case restarts =>
    refine acts_of_honoured rfl hh ((if_pos ?_).trans ?_)
    · rw [restartNumber, hport]
      exact hn
    · rw [hfaults]
  case restartNot =>
    refine acts_of_honoured rfl hh (if_neg ?_)
    rw [restartNumber, hport]
    exact hn

end Sys2Proof.Machine

/-! An announce received: the peer entry, the status notice, the five notices in their order, and the owner streams that the
advertised counters ask for (R22, R26, R28, R36, R38, R55, R57, R108, R123; Table 3.6). -/

namespace Sys2Proof.Machine

/-! ### The peer entry of a station -/

section Entry

variable {s : State} {n m : Nat} {e : PeerEntry} {l : List PeerEntry}

theorem find?_insertPeer (e : PeerEntry) (m : Nat) (l : List PeerEntry) :
    ((insertPeer e l).find? fun p => p.station == m) = if m = e.station then some e else l.find? fun p => p.station == m := by
  induction l with
  | nil => by_cases hm : m = e.station <;> simp [insertPeer, hm, @eq_comm _ e.station m]
  | cons x xs ih =>
    rw [insertPeer]
    by_cases hm : m = e.station
    · subst hm
      rw [if_pos rfl] at ih ⊢
      split
      next => simp
      next =>
        split
        next => simp
        next hx => exact (List.find?_cons_of_neg (by simpa using Ne.symm hx)).trans ih
    · have he : ¬(e.station == m) = true := by simpa using Ne.symm hm
      rw [if_neg hm] at ih ⊢
      split
      next => exact List.find?_cons_of_neg (by exact he)
      next =>
        split
        next hx =>
          exact (List.find?_cons_of_neg (by exact he)).trans (List.find?_cons_of_neg (by rwa [← hx])).symm
        next => rw [List.find?_cons, ih, List.find?_cons]

end Entry

/-! ### An own fault's changes leave the peer table alone -/

section Peers

variable {s : State}

theorem postFault_peers (e : FaultEntry) (cause : FaultCause) (after : Option FaultEntry) (s : State) :
    (postFault e cause after s).link.peers = s.link.peers := by
  rw [postFault_link]

theorem place_peers (p : Placer) (dest : Nat) (body : FrameBody) (s : State) : (place p dest body s).link.peers = s.link.peers := by
  unfold place
  split <;> rfl

theorem changeOwn_peers (e : FaultEntry) (cause : FaultCause) (s : State) : (changeOwn e cause s).link.peers = s.link.peers := by
  rw [changeOwn_eq e cause s rfl, postFault_peers, place_peers]
  dsimp only
  split <;> rfl

theorem makeRoom_peers {b : Bool} {t : State} (h : makeRoom b s = some t) : t.link.peers = s.link.peers := by
  unfold makeRoom at h
  split at h
  next => cases h; rfl
  next =>
    obtain ⟨e, _, rfl⟩ := Option.map_eq_some_iff.1 h
    rw [evict, postFault_peers]

theorem raiseFault_peers (kind : FaultKind) (subject : Nat) (s : State) :
    (raiseFault kind subject s).link.peers = s.link.peers := by
  unfold raiseFault tryRaise
  split
  next =>
    cases hr : makeRoom true s with
    | none => rfl
    | some t => exact (changeOwn_peers _ _ t).trans (makeRoom_peers hr)
  next => split <;> exact changeOwn_peers _ _ s

theorem raiseMatching_peers (p : PeerEntry) (s : State) : (raiseMatching p s).link.peers = s.link.peers := by
  unfold raiseMatching
  split
  next => rfl
  next =>
    split
    next => rfl
    next => exact raiseFault_peers _ _ s

theorem foldl_raiseMatching_peers (l : List PeerEntry) (s : State) :
    (l.foldl (fun t p => raiseMatching p t) s).link.peers = s.link.peers := by
  induction l generalizing s with
  | nil => rfl
  | cons p ps ih => exact (ih _).trans (raiseMatching_peers p s)

theorem faultStatusNotice_peers (subject : Nat) (status : PeerStatus) (s : State) :
    (faultStatusNotice subject status s).link.peers = s.link.peers := by
  refine (foldl_raiseMatching_peers _ _).trans ?_
  split
  next => exact raiseFault_peers _ _ s
  next => rfl

end Peers

/-! ### The entry that an announce makes -/

section TakeEntry

variable {s : State} {n m : Nat} {a : AnnounceBody} {p : PeerEntry}

theorem takeEntry_peers (n : Nat) (a : AnnounceBody) (s : State) :
    (takeEntry n a s).link.peers = insertPeer (announcedEntry n s.clock.elapsed a (s.peer n)) s.link.peers := by
  unfold takeEntry
  dsimp only
  split
  next => rfl
  next =>
    split
    next => rfl
    next => exact faultStatusNotice_peers _ _ _

theorem takeEntry_peer (n m : Nat) (a : AnnounceBody) (s : State) :
    (takeEntry n a s).peer m =
      if m = n then some (announcedEntry n s.clock.elapsed a (s.peer n)) else s.peer m := by
  rw [State.peer, takeEntry_peers, find?_insertPeer]
  rfl

theorem takeEntry_new (h : s.peer n = none) :
    takeEntry n a s =
      { s with link := { s.link with
        peers := insertPeer (announcedEntry n s.clock.elapsed a (s.peer n)) s.link.peers } } := by
  rw [takeEntry]
  dsimp only
  rw [h]

theorem takeEntry_known (h : s.peer n = some p) :
    takeEntry n a s =
      if p.status = announcedStatus a then
        { s with link := { s.link with
          peers := insertPeer (announcedEntry n s.clock.elapsed a (s.peer n)) s.link.peers } }
      else
        faultStatusNotice n (announcedStatus a)
          { s with link := { s.link with
            peers := insertPeer (announcedEntry n s.clock.elapsed a (s.peer n)) s.link.peers } } := by
  rw [takeEntry]
  dsimp only
  rw [h]

end TakeEntry

/-! ### The announce and its notices -/

section Notices

variable {s u : State} {n : Nat} {p : PeerEntry}

theorem noteWindow_in (h : ∃ z, s.clock.zone = some z ∧ z % 32000 < 4000) :
    noteWindow n s = { s with link := { s.link with windowHeard := insertNat n s.link.windowHeard } } :=
  if_pos (inWindow_iff.2 h)

theorem noteWindow_out (h : s.clock.zone = none ∨ (∃ z, s.clock.zone = some z ∧ 4000 ≤ z % 32000)) : noteWindow n s = s := by
  refine if_neg fun hw => ?_
  obtain ⟨z, hz, hlt⟩ := inWindow_iff.1 hw
  obtain h | ⟨z', hz', hge⟩ := h
  · simp [h] at hz
  · cases hz.symm.trans hz'
    exact Nat.not_lt.2 hge hlt

theorem filterFrame_accepted {h : FrameHeader} {body : FrameBody} {accept : State → State} (ha : s.accepts h body = true) :
    filterFrame h body accept s = accept (noteAddressed h s) := by
  obtain ⟨hpasses, hplace⟩ := (Bool.and_eq_true _ _).mp ha
  rw [State.passes, Bool.and_eq_true, Bool.and_eq_true, Option.isNone_iff_eq_none] at hpasses
  exact (filterFrame_passed hpasses.1.2 hpasses.2).trans (if_pos hplace)

theorem replAnnounceNotice_gone (hu : u = updateIntake (judgeWant (some n) s)) (hp : u.peer n = none) :
    replAnnounceNotice n s = u := by
  subst hu
  rw [replAnnounceNotice, hp]

theorem replAnnounceNotice_peer (hu : u = updateIntake (judgeWant (some n) s)) (hp : u.peer n = some p) :
    replAnnounceNotice n s = judgeUsageStream p (judgeFaultStream p u) := by
  subst hu
  rw [replAnnounceNotice, hp]

end Notices

/-! ### The owner streams (Table 3.6) -/

section Streams

variable {s : State} {p : PeerEntry} {x : UsagePos} {q : FaultPos} {d c n owner : Nat} {r : RequestBody} {rx : Option SeriesRx}

theorem requestStream_recent (h : s.seriesRecent rx = true) : requestStream owner r rx s = s := if_pos h

theorem requestStream_asks (h : s.seriesRecent rx = false) : requestStream owner r rx s = place .other owner (.request r) s :=
  if_neg (by simp [h])

theorem judgeFaultStream_behind (h : (s.faultPosOf p.station).pos < p.faultCtr) :
    judgeFaultStream p s =
      requestStream p.station (.faults ((s.faultPosOf p.station).pos + 1)) (s.faultPosOf p.station).series s := if_pos h

theorem judgeFaultStream_level (h : (s.faultPosOf p.station).pos = p.faultCtr) : judgeFaultStream p s = s :=
  (if_neg (by omega)).trans (if_neg (by omega))

theorem judgeFaultStream_ahead (h : p.faultCtr < (s.faultPosOf p.station).pos) :
    judgeFaultStream p s =
      if 0 < p.faultCtr then
        requestStream p.station (.faults 1) (s.faultPosOf p.station).series
          (setFaultPos { s.faultPosOf p.station with pos := 0 } (dropCopies p.station s))
      else setFaultPos { s.faultPosOf p.station with pos := 0 } (dropCopies p.station s) :=
  (if_neg (by omega)).trans (if_pos h)

theorem judgeUsageStream_not (h : s.today = none ∨ (∃ d, s.today = some d ∧ p.usageDay < d)) : judgeUsageStream p s = s := by
  rw [judgeUsageStream]
  obtain h | ⟨d, h, hlt⟩ := h
  · rw [h]
  · rw [h]
    exact if_pos hlt

theorem judgeUsageStream_day (h : s.today = some d) (hd : d ≤ p.usageDay) :
    judgeUsageStream p s = compareUsage p (alignUsageDay p s) := by
  rw [judgeUsageStream, h]
  exact if_neg (Nat.not_lt.2 hd)

theorem alignUsageDay_unheld (h : (s.usagePosOf p.station).pos = none) :
    alignUsageDay p s = setUsagePos { s.usagePosOf p.station with pos := some (p.usageDay, 0) } s := by
  rw [alignUsageDay, h]

theorem alignUsageDay_held (h : (s.usagePosOf p.station).pos = some (d, c)) :
    alignUsageDay p s =
      if p.usageDay < d then
        setUsagePos { s.usagePosOf p.station with pos := some (p.usageDay, 0) }
          (dropUsage p.station (fun y => p.usageDay < y) s)
      else if d < p.usageDay then setUsagePos { s.usagePosOf p.station with pos := some (p.usageDay, 0) } s
      else s := by
  rw [alignUsageDay, h]

theorem compareUsage_held (h : (s.usagePosOf p.station).pos = some (d, c)) :
    compareUsage p s =
      if c < p.usageCtr then requestStream p.station .usage (s.usagePosOf p.station).series s
      else if p.usageCtr < c then
        if 0 < p.usageCtr then
          requestStream p.station .usage (s.usagePosOf p.station).series
            (setUsagePos { s.usagePosOf p.station with pos := some (d, 0) } (dropUsage p.station (fun y => y == d) s))
        else setUsagePos { s.usagePosOf p.station with pos := some (d, 0) } (dropUsage p.station (fun y => y == d) s)
      else s := by
  rw [compareUsage, h]

theorem faultPosOf_set (q : FaultPos) (n : Nat) (s : State) :
    (setFaultPos q s).faultPosOf n = if n = q.owner then q else s.faultPosOf n := by
  unfold State.faultPosOf setFaultPos
  by_cases hn : n = q.owner
  · simp [hn]
  · have hrest : ((s.faults.positions.filter (·.owner != q.owner)).find? (·.owner == n)) =
        s.faults.positions.find? (·.owner == n) := by
      rw [List.find?_filter]
      congr 1
      funext y
      by_cases hy : y.owner = n <;> simp [hy, hn]
    rw [if_neg hn]
    dsimp only
    rw [List.find?_cons_of_neg (by simpa using Ne.symm hn), hrest]

theorem usagePosOf_set (x : UsagePos) (n : Nat) (s : State) :
    (setUsagePos x s).usagePosOf n = if n = x.owner then x else s.usagePosOf n := by
  unfold State.usagePosOf setUsagePos
  by_cases hn : n = x.owner
  · simp [hn]
  · have hrest : ((s.permits.positions.filter (·.owner != x.owner)).find? (·.owner == n)) =
        s.permits.positions.find? (·.owner == n) := by
      rw [List.find?_filter]
      congr 1
      funext y
      by_cases hy : y.owner = n <;> simp [hy, hn]
    rw [if_neg hn]
    dsimp only
    rw [List.find?_cons_of_neg (by simpa using Ne.symm hn), hrest]

end Streams

/-! ### The settled usage table -/

section Settled

variable {s : State}

theorem peersHeld_iff :
    s.peersHeld = true ↔
      ∀ p ∈ s.link.peers, s.isToday p.usageDay = true → s.usagePos p.station = some (p.usageDay, p.usageCtr) := by
  simp only [State.peersHeld, List.all_eq_true, Bool.or_eq_true, Bool.not_eq_true', beq_iff_eq]
  exact forall₂_congr fun p _ => by cases s.isToday p.usageDay <;> simp

theorem judgeSettled_settles (h1 : 2 ≤ s.permits.cycleMarks)
    (h2 : ∀ p ∈ s.link.peers, s.isToday p.usageDay = true → s.usagePos p.station = some (p.usageDay, p.usageCtr)) :
    judgeSettled s = { s with permits := { s.permits with settled := true } } :=
  if_pos (by rw [peersHeld_iff.2 h2, decide_eq_true h1]; rfl)

theorem judgeSettled_not
    (h : s.permits.cycleMarks < 2
      ∨ (∃ p ∈ s.link.peers, s.isToday p.usageDay = true ∧ s.usagePos p.station ≠ some (p.usageDay, p.usageCtr))) :
    judgeSettled s = s := by
  refine if_neg ?_
  rw [Bool.and_eq_true, decide_eq_true_eq, peersHeld_iff]
  rintro ⟨h1, h2⟩
  obtain h | ⟨p, hp, ht, hne⟩ := h
  · exact Nat.not_lt.2 h1 h
  · exact hne (h2 p hp ht)

theorem judgeList_eq (is : List Nat) (s : State) :
    judgeList is s =
      if (is.foldl judgeSection s).behindMap = s.behindMap then is.foldl judgeSection s
      else clearStale (is.foldl judgeSection s) := if_congr beq_iff_eq rfl rfl

theorem judgeSections_eq (s : State) :
    judgeSections s =
      if ((List.range 8).foldl judgeSection s).behindMap = s.behindMap then (List.range 8).foldl judgeSection s
      else clearStale ((List.range 8).foldl judgeSection s) := judgeList_eq (List.range 8) s

end Settled

/-- Settles O55. -/
theorem announceTaken : Obligations.AnnounceTaken := by
  refine ⟨fun h ms a s u w ha hu hin hout => ?accepted, fun n a s u hu => ⟨fun hst => ?sameStatus, fun p hp hst => ?newStatus⟩,
    fun n a s => ⟨announcedEntry n s.clock.elapsed a (s.peer n), ?entry⟩, fun n m a s hm => ?others,
    fun n s u hu => ⟨replAnnounceNotice_gone hu, fun p => replAnnounceNotice_peer hu⟩,
    fun owner r rx s => ⟨seriesRecent_iff s rx, requestStream_recent, requestStream_asks⟩, ?faults,
    fun p s => ⟨judgeUsageStream_not, fun d => judgeUsageStream_day, ?usage⟩,
    fun q x n s => ⟨faultPosOf_set q n s, usagePosOf_set x n s, rfl, rfl, fun h => ?noFaultPos, fun h => ?noUsagePos⟩,
    fun owner s => rfl, fun station which l => rfl, fun s t => ⟨rfl, ?judged, judgeSettled_settles, judgeSettled_not⟩⟩
  case accepted =>
    have hhigh : s.port.resetHigh = true := by
      simp only [State.accepts, State.passes, Bool.and_eq_true] at ha
      exact ha.1.1.1
    have hw : noteWindow h.sender u = w := by
      by_cases hz : ∃ z, u.clock.zone = some z ∧ z % 32000 < 4000
      · obtain ⟨z, hz, hlt⟩ := hz
        exact (noteWindow_in ⟨z, hz, hlt⟩).trans (hin z hz hlt).symm
      · have hno : u.clock.zone = none ∨ (∃ z, u.clock.zone = some z ∧ 4000 ≤ z % 32000) := by
          cases hzone : u.clock.zone with
          | none => exact .inl rfl
          | some z => exact .inr ⟨z, rfl, Nat.not_lt.1 fun hlt => hz ⟨z, hzone, hlt⟩⟩
        exact (noteWindow_out hno).trans (hout hno).symm
    subst hw hu
    exact acts_of_act rfl hhigh (f := filterFrame h (.announce a) (takeAnnounce h.sender ms a)) (filterFrame_accepted ha)
  case sameStatus =>
    subst hu
    obtain hn | ⟨p, hp, hst⟩ := hst
    · exact takeEntry_new hn
    · exact (takeEntry_known hp).trans (if_pos hst)
  case newStatus =>
    subst hu
    exact (takeEntry_known hp).trans (if_neg hst)
  case entry =>
    rw [takeEntry_peer, if_pos rfl]
    refine ⟨rfl, rfl, rfl, rfl, rfl, rfl, rfl, rfl, rfl, rfl, rfl, rfl, rfl, rfl, rfl, rfl, rfl, rfl, rfl, fun q hq hle => ?_,
      fun q hq hlt => ?_, fun hq => ?_, fun hd => if_pos hd, fun hn hd => ?_, fun p hp hd => ?_⟩
    · simp [announcedEntry, recordedQuality, hq, hle]
    · simp [announcedEntry, recordedQuality, hq, hlt]
    · simp [announcedEntry, recordedQuality, hq]
    · simp [announcedEntry, hn, hd]
    · simp [announcedEntry, hp, hd]
  case others => rw [takeEntry_peer, if_neg hm]
  case faults =>
    rintro p q s rfl
    exact ⟨judgeFaultStream_level, judgeFaultStream_behind, fun hlt u hu => ⟨fun hz => hu ▸ (judgeFaultStream_ahead hlt).trans
      (if_neg (by omega)), fun hz => hu ▸ (judgeFaultStream_ahead hlt).trans (if_pos hz)⟩⟩
  case usage =>
    rintro x rfl
    refine ⟨alignUsageDay_unheld, fun d c hp => ⟨fun hd => ?_, fun hd => ?_, fun hd => ?_, fun hc => ?_, fun hc => ?_,
      fun hc u hu => ⟨fun hz => ?_, fun hz => ?_⟩⟩⟩
    · exact (alignUsageDay_held hp).trans ((if_neg (by omega)).trans (if_neg (by omega)))
    · exact (alignUsageDay_held hp).trans ((if_neg (by omega)).trans (if_pos hd))
    · exact (alignUsageDay_held hp).trans (if_pos hd)
    · exact (compareUsage_held hp).trans ((if_neg (by omega)).trans (if_neg (by omega)))
    · exact (compareUsage_held hp).trans (if_pos hc)
    · subst hu
      exact (compareUsage_held hp).trans ((if_neg (by omega)).trans ((if_pos hc).trans (if_neg (by omega))))
    · subst hu
      exact (compareUsage_held hp).trans ((if_neg (by omega)).trans ((if_pos hc).trans (if_pos hz)))
  case noFaultPos => rw [State.faultPosOf, h]; rfl
  case noUsagePos => rw [State.usagePosOf, h]; rfl
  case judged =>
    rintro rfl
    refine ⟨fun hm => (judgeSections_eq s).trans (if_pos hm), fun hm => ⟨fun hb => ?_, fun hb => ?_⟩⟩
    · exact (judgeSections_eq s).trans ((if_neg hm).trans (clearStale_behind hb))
    · exact (judgeSections_eq s).trans ((if_neg hm).trans (clearStale_none hb))

end Sys2Proof.Machine

/-! Medium access: the waits, the fit into the exchange period, the transmission and its end, the retries, and what the placing
unit of a frame is told (R15, R18, R31 to R33, R42, R50, R150). -/

namespace Sys2Proof.Machine

/-! ### When a frame fits, and when it has gone (R15, R31) -/

section Fit

variable {s : State} {f : TxFrame} {rest : List TxFrame} {start n ms : Nat}

theorem inExchange_iff : s.inExchange = true ↔ ∃ z, s.clock.zone = some z ∧ 4000 ≤ z % 32000 := by
  unfold State.inExchange cyclePos
  cases s.clock.zone <;> simp

theorem headFits_iff (f : TxFrame) (s : State) :
    s.headFits f = true ↔
      s.mayTransmit = true ∧ ∃ z, s.clock.zone = some z ∧ 4000 ≤ z % 32000
        ∧ (8 + (bodyBytes f.body).length) * 10 * 1000 ≤ (32000 - z % 32000) * 19200 := by
  rw [State.headFits, Bool.and_eq_true, Bool.and_eq_true, inExchange_iff, and_assoc]
  refine and_congr_right fun _ => ?_
  cases s.clock.zone with
  | none => simp
  | some z =>
    have hf : fits (frameLength f.body) (leftInCycle z) = true ↔
        (8 + (bodyBytes f.body).length) * 25 ≤ (32000 - z % 32000) * 48 := decide_eq_true_iff
    simp only [Option.some.injEq, exists_eq_left', hf]
    omega

theorem lineMs_covers (n : Nat) : n * 10 * 1000 ≤ lineMs n * 19200 := by
  rw [lineMs]
  omega

theorem lineMs_least (h : n * 10 * 1000 ≤ ms * 19200) : lineMs n ≤ ms := by
  rw [lineMs]
  omega

theorem backoffOver_backoff (ha : s.link.access = .backoff start) (ht : s.link.tx = f :: rest)
    (hd : start + ((s.own + f.attempt) % 8 + 1) * 20 ≤ s.clock.elapsed) : s.backoffOver = true := by
  rw [State.backoffOver, ha, ht]
  exact decide_eq_true hd

theorem frameOut_exchange (hl : s.link.line = some (.exchange start)) (ht : s.link.tx = f :: rest)
    (hd : start + lineMs (frameLength f.body) ≤ s.clock.elapsed) : s.frameOut = true := by
  rw [State.frameOut, hl, ht]
  exact decide_eq_true hd

theorem resumeAccess_other {elapsed : Nat} {lcd : Bool} {a : Access} (hp : ∀ ran, a ≠ .paused ran) (hw : a ≠ .waitIdle) :
    resumeAccess elapsed lcd a = a := by
  cases a with
  | paused ran => exact absurd rfl (hp ran)
  | waitIdle => exact absurd rfl hw
  | off | backoff | held => rfl

end Fit

/-! ### The expiry of a backoff wait, and the end of a frame -/

section Expiry

variable {s : State} {f : TxFrame} {rest : List TxFrame}

theorem expireBackoff_gathering (ht : s.link.tx = f :: rest) (hx : s.inExchange = false) :
    expireBackoff s = setAccess .held s := by
  rw [expireBackoff, ht]
  exact if_pos (by simp [hx])

theorem expireBackoff_busy (ht : s.link.tx = f :: rest) (hx : s.inExchange = true) (hl : s.link.lcd = true) :
    expireBackoff s =
      if f.attempt < 7 then
        setAccess .waitIdle { s with link := { s.link with tx := { f with attempt := f.attempt + 1 } :: rest } }
      else noticeDropped f { s with link := { s.link with tx := rest, access := .off } } := by
  rw [expireBackoff, ht]
  refine (if_neg (by simp [hx])).trans ((if_pos hl).trans ?_)
  rw [dropHead, popHead, ht]
  rfl

theorem expireBackoff_idle (ht : s.link.tx = f :: rest) (hx : s.inExchange = true) (hl : s.link.lcd = false) :
    expireBackoff s = if s.headFits f then startHead s else setAccess .held s := by
  rw [expireBackoff, ht]
  exact (if_neg (by simp [hx])).trans (if_neg (by simp [hl]))

theorem endFrame_head (ht : s.link.tx = f :: rest) :
    endFrame s =
      noticeSent f
        { s with link := { s.link with
          line := none, tx := rest, access := .off
          path := if s.link.lcd then .waitQuiet s.clock.elapsed else .idle } } := by
  rw [endFrame, ht]
  dsimp only
  rw [popHead, ht]
  rfl

theorem mediumIdleOp_waits (ha : s.link.access = .waitIdle) (hl : s.link.line = none) (hx : s.inExchange = true) :
    mediumIdleOp s = { s with link := { s.link with lcd := false, access := .backoff s.clock.elapsed } } := by
  refine if_pos ?_
  rw [Bool.and_eq_true, Bool.and_eq_true, beq_iff_eq, Option.isNone_iff_eq_none]
  exact ⟨⟨ha, hl⟩, hx⟩

theorem mediumIdleOp_not (h : s.link.access ≠ .waitIdle ∨ s.link.line.isSome = true ∨ s.inExchange = false) :
    mediumIdleOp s = { s with link := { s.link with lcd := false } } := by
  refine if_neg ?_
  rw [Bool.and_eq_true, Bool.and_eq_true, beq_iff_eq, Option.isNone_iff_eq_none]
  rintro ⟨⟨ha, hl⟩, hx⟩
  have hx' : s.inExchange = true := hx
  have hl' : s.link.line = none := hl
  obtain h | h | h := h
  · exact h ha
  · simp [hl'] at h
  · simp [hx'] at h

end Expiry

/-! ### What the placing unit is told -/

section Placers

variable {s : State} {f : TxFrame} {i : Intake} {e x : SupplyEntry} {rest more : List SupplyEntry}

theorem noticeSent_intake (h : f.placer = .intake) : noticeSent f s = serve (requestIntake (intakeSent s)) := by
  rw [noticeSent, h]
  rfl

theorem noticeDropped_intake (h : f.placer = .intake) : noticeDropped f s = intakeDropped s := by
  rw [noticeDropped, h]

theorem noticeSent_supply (h : f.placer = .supply) : noticeSent f s = serve (requestIntake (supplySent s)) := by
  rw [noticeSent, h]
  rfl

theorem noticeDropped_supply (h : f.placer = .supply) : noticeDropped f s = supplyDropped s := by
  rw [noticeDropped, h]

theorem intakeSent_placed (hi : s.repl.intake = some i) (hp : i.placed = true) :
    intakeSent s =
      { s with repl := { s.repl with
        intake := some { i with phase := .receiving, progress := s.clock.elapsed, placed := false } } } := by
  rw [intakeSent, hi]
  exact if_pos hp

theorem intakeDropped_placed (hi : s.repl.intake = some i) (hp : i.placed = true) :
    intakeDropped s = { s with repl := { s.repl with intake := some { i with placed := false } } } := by
  rw [intakeDropped, hi]
  exact if_pos hp

theorem intakeSent_stale (h : s.repl.intake = none ∨ (∃ i, s.repl.intake = some i ∧ i.placed = false)) :
    intakeSent s = s := by
  obtain h | ⟨i, h, hp⟩ := h
  · rw [intakeSent, h]
  · rw [intakeSent, h]
    exact if_neg (by simp [hp])

theorem intakeDropped_stale (h : s.repl.intake = none ∨ (∃ i, s.repl.intake = some i ∧ i.placed = false)) :
    intakeDropped s = requestIntake s := by
  obtain h | ⟨i, h, hp⟩ := h
  · rw [intakeDropped, h, requestIntake_not (.inl h)]
  · rw [intakeDropped, h]
    exact if_neg (by simp [hp])

theorem supplySent_empty (h : s.repl.supply = []) : supplySent s = s := by
  rw [supplySent, h]

theorem supplyDropped_empty (h : s.repl.supply = []) : supplyDropped s = s := by
  rw [supplyDropped, h]

theorem supplyDropped_head (h : s.repl.supply = e :: rest) :
    supplyDropped s = serve { s with repl := { s.repl with supply := { e with placed := false } :: rest } } := by
  rw [supplyDropped, h]
  rfl

theorem supplySent_notPlaced (h : s.repl.supply = e :: rest) (hp : e.placed = false) : supplySent s = s := by
  rw [supplySent, h]
  exact if_neg (by simp [hp])

theorem supplySent_placed (h : s.repl.supply = e :: rest) (hp : e.placed = true) :
    supplySent s =
      if s.framesOf e ≤ e.next + 1 then fixHead (setSupply rest s)
      else setSupply ({ e with next := e.next + 1, placed := false, sentHigh := e.placedHigh } :: rest) s := by
  rw [supplySent, h]
  exact if_pos hp

theorem framesOf_image {obj : ImageObj} {key : Key} {img : List Byte} (he : e.item = .image obj key)
    (hi : s.heldImage obj key = some img) : s.framesOf e = (img.length + 95) / 96 := by
  rw [State.framesOf, he]
  dsimp only
  rw [hi]
  rfl

theorem framesOf_series {ser : Series} (he : (∃ c, e.item = .faults c) ∨ e.item = .usage) (hs : e.series = some ser) :
    s.framesOf e = ser.parts := by
  obtain ⟨c, he⟩ | he := he
  · rw [State.framesOf, he, hs]
    rfl
  · rw [State.framesOf, he, hs]
    rfl

theorem noticeSent_report {first last : Nat} (h : f.placer = .report first last) :
    noticeSent f s = serve (requestIntake (reportSent first last s)) := by
  rw [noticeSent, h]
  rfl

theorem noticeDropped_report {first last : Nat} (h : f.placer = .report first last) :
    noticeDropped f s = reportDropped first last s := by
  rw [noticeDropped, h]

theorem noticeSent_other (h : f.placer = .other) : noticeSent f s = serve (requestIntake s) := by
  rw [noticeSent, h]
  rfl

theorem noticeDropped_other (h : f.placer = .other) : noticeDropped f s = s := by
  rw [noticeDropped, h]

end Placers

/-! ### The steps of medium access -/

section Steps

variable {s : State} {f : TxFrame} {rest : List TxFrame} {start : Nat} {lcd : Bool}

theorem backoffWaitExpiry_not (hh : s.port.resetHigh = true) (h : s.backoffOver = false) :
    acts (.backoffWaitExpiry lcd) s s :=
  acts_of_act (exec_backoffWaitExpiry s lcd) hh (if_neg (by simp [h]))

theorem backoffWaitExpiry_acts {u : State} (hh : s.port.resetHigh = true) (ha : s.link.access = .backoff start)
    (ht : s.link.tx = f :: rest) (hd : start + ((s.own + f.attempt) % 8 + 1) * 20 ≤ s.clock.elapsed)
    (hu : expireBackoff (setLcd lcd s) = u) : acts (.backoffWaitExpiry lcd) s u :=
  acts_of_act (exec_backoffWaitExpiry s lcd) hh ((if_pos (backoffOver_backoff ha ht hd)).trans hu)

theorem frameSent_acts (hh : s.port.resetHigh = true) (hl : s.link.line = some (.exchange start))
    (ht : s.link.tx = f :: rest) (hd : start + lineMs (frameLength f.body) ≤ s.clock.elapsed) :
    acts (.frameSent lcd) s
      (noticeSent f
        { s with link := { s.link with
          lcd := lcd, line := none, tx := rest, access := .off
          path := if lcd then .waitQuiet s.clock.elapsed else .idle } }) :=
  acts_of_act (exec_frameSent s lcd) hh
    ((if_pos (frameOut_exchange hl ht hd)).trans (endFrame_head (s := setLcd lcd s) ht))

theorem announceEnded_not (hh : s.port.resetHigh = true) (h : s.announceOut = false ∨ s.entryDue = true) :
    acts (.announceEnded lcd) s s := by
  refine acts_of_act (exec_announceEnded s lcd) hh (if_neg ?_)
  obtain h | h := h
  · simp [h]
  · simp [h]

theorem announceEnded_acts (hh : s.port.resetHigh = true) (ho : s.announceOut = true) (he : s.entryDue = false) :
    acts (.announceEnded lcd) s
      { s with link := { s.link with
        lcd := lcd, line := none, access := resumeAccess s.clock.elapsed lcd s.link.access
        path := if lcd then .waitQuiet s.clock.elapsed else .idle } } :=
  acts_of_act (exec_announceEnded s lcd) hh (if_pos (by simp [ho, he]))

end Steps

/-! ### O56 -/

/-- Settles O56. -/
theorem mediumAccess : Obligations.MediumAccess := by
  unfold Obligations.MediumAccess
  refine ⟨fun s hh => ⟨?idleWaits, ?idleNot, fun h lcd => backoffWaitExpiry_not hh h, ?wait, ?sentNot, ?sent,
      fun h lcd => announceEnded_not hh h, fun ho he lcd => announceEnded_acts hh ho he⟩,
    headFits_iff, fun f s => ⟨?intake, ?supply, ?report, ?other⟩, fun e s => ⟨?image, ?series⟩, ?line⟩
  case idleWaits => exact fun ha hl hx => acts_of_act rfl hh (f := mediumIdleOp) (mediumIdleOp_waits ha hl hx)
  case idleNot => exact fun h => acts_of_act rfl hh (f := mediumIdleOp) (mediumIdleOp_not h)
  case wait =>
    intro start f rest ha ht hd
    refine ⟨fun hx lcd => ?gathering, fun hx => ⟨fun hlt => ?retry, fun hge => ?drop, fun hf => ?hold, fun hf => ?start⟩⟩
    case gathering => exact backoffWaitExpiry_acts hh ha ht hd (expireBackoff_gathering (s := setLcd lcd s) ht hx)
    case retry =>
      exact backoffWaitExpiry_acts hh ha ht hd ((expireBackoff_busy (s := setLcd true s) ht hx rfl).trans (if_pos hlt))
    case drop =>
      exact backoffWaitExpiry_acts hh ha ht hd
        ((expireBackoff_busy (s := setLcd true s) ht hx rfl).trans (if_neg (Nat.not_lt.2 hge)))
    case hold =>
      exact backoffWaitExpiry_acts hh ha ht hd ((expireBackoff_idle (s := setLcd false s) ht hx rfl).trans
        (if_neg (Bool.eq_false_iff.1 hf)))
    case start =>
      exact backoffWaitExpiry_acts hh ha ht hd ((expireBackoff_idle (s := setLcd false s) ht hx rfl).trans (if_pos hf))
  case sentNot => exact fun h lcd => acts_of_act (exec_frameSent s lcd) hh (if_neg (by simp [h]))
  case sent => exact fun start f rest lcd hl ht hd => frameSent_acts hh hl ht hd
  case intake =>
    refine fun hp => ⟨fun i hi hi' => ⟨?_, ?_⟩, fun hs => ⟨?_, ?_⟩⟩
    · rw [noticeSent_intake hp, intakeSent_placed hi hi']
    · rw [noticeDropped_intake hp, intakeDropped_placed hi hi']
    · rw [noticeSent_intake hp, intakeSent_stale hs]
    · rw [noticeDropped_intake hp, intakeDropped_stale hs]
  case supply =>
    refine fun hp => ⟨fun hs => ⟨?_, ?_⟩, fun e rest hs => ⟨?_, fun he => ?_, fun he => ⟨fun hn => ?_, fun hn => ⟨fun hr => ?_,
      fun x more hr => ?_⟩⟩⟩⟩
    · rw [noticeSent_supply hp, supplySent_empty hs]
    · rw [noticeDropped_supply hp, supplyDropped_empty hs]
    · rw [noticeDropped_supply hp, supplyDropped_head hs]
    · rw [noticeSent_supply hp, supplySent_notPlaced hs he]
    · rw [noticeSent_supply hp, supplySent_placed hs he, if_neg (Nat.not_le.2 hn)]
      rfl
    · rw [noticeSent_supply hp, supplySent_placed hs he, if_pos hn, hr]
      rfl
    · rw [noticeSent_supply hp, supplySent_placed hs he, if_pos hn, hr]
      rfl
  case report => exact fun first last hp => ⟨noticeSent_report hp, noticeDropped_report hp⟩
  case other => exact fun hp => ⟨noticeSent_other hp, noticeDropped_other hp⟩
  case image => exact fun obj key img he hi => framesOf_image he hi
  case series => exact fun ser he hs => framesOf_series he hs
  case line =>
    exact fun body n elapsed lcd a => ⟨rfl, lineMs_covers n, fun ms h => lineMs_least h, fun _ => rfl, rfl, rfl,
      fun hp hw => resumeAccess_other hp hw⟩

end Sys2Proof.Machine

/-! The receive path: the bytes on LRX, the frames they make, the gap and the quiet line (R18 to R21, R23). -/

namespace Sys2Proof.Machine

/-! ### The bytes of a frame in collection (R19) -/

section Collection

variable {s : State} {b : Byte} {bs bytes : List Byte} {start last since : Nat} {ok : Bool}

theorem lengthBad_iff : lengthBad bs = true ↔ 6 ≤ bs.length ∧ 112 < fieldAt bs 5 1 := by
  rw [lengthBad, Bool.and_eq_true, decide_eq_true_iff, decide_eq_true_iff]

theorem allArrived_iff : allArrived bs = true ↔ 6 ≤ bs.length ∧ bs.length = 8 + fieldAt bs 5 1 := by
  rw [allArrived, Bool.and_eq_true, decide_eq_true_iff, beq_iff_eq]

theorem collectByte_bad (h : ok = false ∨ (6 ≤ bs.length ∧ 112 < fieldAt bs 5 1)) :
    collectByte bs start ok s = setPath (.waitQuiet s.clock.elapsed) s := by
  refine if_pos ?_
  rw [Bool.or_eq_true, lengthBad_iff, Bool.not_eq_true']
  exact h

theorem lengthBad_false (h : bs.length < 6 ∨ fieldAt bs 5 1 ≤ 112) : lengthBad bs = false := by
  rw [Bool.eq_false_iff, ne_eq, lengthBad_iff]
  omega

theorem collectByte_more (h : bs.length < 6 ∨ (fieldAt bs 5 1 ≤ 112 ∧ bs.length ≠ 8 + fieldAt bs 5 1)) :
    collectByte bs start true s = setPath (.collecting bs start s.clock.elapsed) s := by
  have hbad : lengthBad bs = false := lengthBad_false (h.imp_right And.left)
  have hall : ¬ allArrived bs = true := by
    rw [allArrived_iff]
    omega
  exact (if_neg (by simp [hbad])).trans (if_neg hall)

theorem collectByte_last (h6 : 6 ≤ bs.length) (hl : fieldAt bs 5 1 ≤ 112) (hall : bs.length = 8 + fieldAt bs 5 1) :
    collectByte bs start true s = frameComplete bs start s :=
  (if_neg (by simp [lengthBad_false (.inr hl)])).trans (if_pos (allArrived_iff.2 ⟨h6, hall⟩))

end Collection

/-! ### A complete frame (R20, R21, R23) -/

section Complete

variable {s : State} {bytes : List Byte} {start : Nat} {h : FrameHeader} {body : FrameBody}

theorem noteAddressed_eq (h : FrameHeader) (s : State) :
    noteAddressed h s =
      { s with link := { s.link with
        addressedAt :=
          if h.dest = s.own ∧ s.link.handing = false then some s.clock.elapsed else s.link.addressedAt } } := by
  unfold noteAddressed
  split <;> rfl

theorem frameComplete_ownNumber (hf : filterBytes s.zoneNo s.own bytes = .inl .sender) :
    frameComplete bytes start s = ownNumberHeard (setPath .idle s) := by
  rw [frameComplete, hf]

theorem frameComplete_filtered {st : FilterStep} (hf : filterBytes s.zoneNo s.own bytes = .inl st) (hs : st ≠ .sender) :
    frameComplete bytes start s = setPath .idle s := by
  rw [frameComplete, hf]
  cases st with
  | sender => exact absurd rfl hs
  | _ => rfl

theorem frameComplete_accepted (hf : filterBytes s.zoneNo s.own bytes = .inr (h, body)) :
    frameComplete bytes start s =
      putWaiting { bytes := bytes, start := start, finish := s.clock.elapsed } (noteAddressed h (setPath .idle s)) := by
  rw [frameComplete, hf]

theorem putWaiting_free {r : Received} (hw : s.link.waiting = none) :
    putWaiting r s = { s with link := { s.link with waiting := some r } } := by
  rw [putWaiting, hw]

theorem putWaiting_taken {r : Received} (hw : s.link.waiting.isSome = true) : putWaiting r s = s := by
  obtain ⟨w, hw⟩ := Option.isSome_iff_exists.1 hw
  rw [putWaiting, hw]

end Complete

/-! ### A byte on LRX, the gap, the quiet line (R18, R19) -/

section Receive

variable {s u : State} {b : Byte} {bytes : List Byte} {start last since : Nat} {ok : Bool}

theorem takeByte_fresh
    (h : s.link.path = .idle ∨ (∃ since, s.link.path = .waitQuiet since ∧ since + 3 ≤ s.clock.elapsed)
      ∨ (∃ bytes start last, s.link.path = .collecting bytes start last ∧ last + 4 ≤ s.clock.elapsed)) :
    takeByte b ok s = collectByte [b] (byteStart s.clock.elapsed) ok s := by
  obtain h | ⟨since, h, hd⟩ | ⟨bytes, start, last, h, hd⟩ := h
  · rw [takeByte, h]
  · rw [takeByte, h]
    exact if_pos (decide_eq_true hd)
  · rw [takeByte, h]
    exact if_pos (decide_eq_true hd)

theorem takeByte_unquiet (h : s.link.path = .waitQuiet since) (hd : s.clock.elapsed < since + 3) :
    takeByte b ok s = setPath (.waitQuiet s.clock.elapsed) s := by
  rw [takeByte, h]
  exact if_neg (by simpa [State.hasRun] using hd)

theorem takeByte_next (h : s.link.path = .collecting bytes start last) (hd : s.clock.elapsed < last + 4) :
    takeByte b ok s = collectByte (bytes ++ [b]) start ok s := by
  rw [takeByte, h]
  exact if_neg (by simpa [State.hasRun] using hd)

theorem byteReceived_transmitting (hh : s.port.resetHigh = true) (hl : s.link.line.isSome = true) :
    acts (.byteReceived b ok) s s :=
  acts_of_act rfl hh (f := byteIn b ok) (if_pos hl)

theorem byteReceived_off (hh : s.port.resetHigh = true) (hl : s.link.line = none)
    (h : s.setupDone = false ∨ s.link.receiver = false) :
    acts (.byteReceived b ok) s { s with link := { s.link with lcd := true } } := by
  refine acts_of_act rfl hh (f := byteIn b ok) ((if_neg (by simp [hl])).trans (if_neg ?_))
  obtain h | h := h
  · simp [h]
  · simp [h]

theorem byteReceived_takes (hh : s.port.resetHigh = true) (hl : s.link.line = none) (hs : s.setupDone = true)
    (hr : s.link.receiver = true) (hu : takeByte b ok (setLcd true s) = u) : acts (.byteReceived b ok) s u :=
  acts_of_act rfl hh (f := byteIn b ok) ((if_neg (by simp [hl])).trans ((if_pos (by simp [hs, hr])).trans hu))

theorem lineQuiet_quiet (hh : s.port.resetHigh = true) (h : s.quietOver = true) :
    acts .lineQuiet s { s with link := { s.link with path := .idle } } :=
  acts_of_act (exec_lineQuiet s) hh (if_pos h)

theorem lineQuiet_not (hh : s.port.resetHigh = true) (h : s.quietOver = false) : acts .lineQuiet s s :=
  acts_of_act (exec_lineQuiet s) hh (if_neg (by simp [h]))

theorem receiveGap_not (hh : s.port.resetHigh = true) (h : s.gapOver = false) : acts .receiveGapTimeout s s := by
  refine acts_of_act (exec_receiveGapTimeout s) hh ?_
  split
  · exact if_neg (by simp [h])
  · rfl

theorem receiveGap_over (hh : s.port.resetHigh = true) (hp : s.link.path = .collecting bytes start last)
    (hd : last + 4 ≤ s.clock.elapsed) :
    acts .receiveGapTimeout s { s with link := { s.link with path := .waitQuiet last } } := by
  have hg : s.gapOver = true := by
    rw [State.gapOver, hp]
    exact decide_eq_true hd
  refine acts_of_act (exec_receiveGapTimeout s) hh ?_
  dsimp only
  rw [hp]
  exact if_pos hg

theorem gapOver_early (hp : s.link.path = .collecting bytes start last) (hd : s.clock.elapsed < last + 4) :
    s.gapOver = false := by
  rw [State.gapOver, hp]
  simpa [State.hasRun] using hd

theorem gapOver_other (hp : s.link.path = .idle ∨ s.link.path = .waitQuiet since) : s.gapOver = false := by
  obtain hp | hp := hp
  · rw [State.gapOver, hp]
  · rw [State.gapOver, hp]

theorem quietOver_other (hp : s.link.path = .idle ∨ s.link.path = .collecting bytes start last) : s.quietOver = false := by
  obtain hp | hp := hp
  · rw [State.quietOver, hp]
  · rw [State.quietOver, hp]

theorem quietOver_early (hp : s.link.path = .waitQuiet since) (hd : s.clock.elapsed < since + 3) : s.quietOver = false := by
  rw [State.quietOver, hp]
  simpa [State.hasRun] using hd

theorem quietOver_due (hp : s.link.path = .waitQuiet since) (hd : since + 3 ≤ s.clock.elapsed) : s.quietOver = true := by
  rw [State.quietOver, hp]
  exact decide_eq_true hd

end Receive

/-! ### O57 -/

/-- Settles O57. -/
theorem bytesReceived : Obligations.BytesReceived := by
  unfold Obligations.BytesReceived
  refine fun s hh => ⟨fun hl b ok => byteReceived_transmitting hh hl, fun hl h b ok => byteReceived_off hh hl h, ?taken,
    fun bytes start last hp => ⟨lineQuiet_not hh (quietOver_other (.inr hp)), receiveGap_over hh hp,
      fun hd => receiveGap_not hh (gapOver_early hp hd)⟩,
    fun since hp => ⟨receiveGap_not hh (gapOver_other (.inr hp)), fun hd => lineQuiet_quiet hh (quietOver_due hp hd),
      fun hd => lineQuiet_not hh (quietOver_early hp hd)⟩,
    fun hp => ⟨receiveGap_not hh (gapOver_other (since := 0) (.inl hp)),
      lineQuiet_not hh (quietOver_other (bytes := []) (start := 0) (last := 0) (.inl hp))⟩⟩
  rintro hl hs hr b now rfl
  refine ⟨fun hf => ⟨?first, ?broken⟩, fun since hp hd ok => ?unquiet, ?next⟩
  case first =>
    exact byteReceived_takes hh hl hs hr
      ((takeByte_fresh (s := setLcd true s) hf).trans (collectByte_more (.inl (by simp))))
  case broken =>
    exact byteReceived_takes hh hl hs hr ((takeByte_fresh (s := setLcd true s) hf).trans (collectByte_bad (.inl rfl)))
  case unquiet => exact byteReceived_takes hh hl hs hr (takeByte_unquiet (s := setLcd true s) hp hd)
  case next =>
    rintro _ bytes start last hp hd rfl
    have hnext : ∀ {ok : Bool} {u : State}, collectByte (bytes ++ [b]) start ok (setLcd true s) = u →
        acts (.byteReceived b ok) s u :=
      fun h => byteReceived_takes hh hl hs hr ((takeByte_next (s := setLcd true s) hp hd).trans h)
    refine ⟨fun ok h => hnext (collectByte_bad h), fun h => hnext (collectByte_more h), ?_⟩
    rintro h6 hlen hall _ rfl
    have hdone : collectByte (bytes ++ [b]) start true (setLcd true s) = _ := collectByte_last h6 hlen hall
    refine ⟨fun hf => ?own, fun st hf hst => ?filtered, fun h body hf => ⟨fun hw => ?free, fun hw => ?full⟩⟩
    case own => exact hnext (hdone.trans (frameComplete_ownNumber (s := setLcd true s) hf))
    case filtered => exact hnext (hdone.trans (frameComplete_filtered (s := setLcd true s) hf hst))
    case free =>
      refine hnext (hdone.trans ((frameComplete_accepted (s := setLcd true s) hf).trans ?_))
      rw [noteAddressed_eq]
      exact putWaiting_free hw
    case full =>
      refine hnext (hdone.trans ((frameComplete_accepted (s := setLcd true s) hf).trans ?_))
      rw [noteAddressed_eq]
      exact putWaiting_taken hw

end Sys2Proof.Machine

/-! Layouts read back: walking over the fields of a layout, repeated fields, and the records that frames and images carry
(Section 12). -/

namespace Sys2Proof.Machine

/-! ### Walking over a layout

A layout is an append of fields. Where a read begins behind the first field, that field is skipped; where it begins with it, the
field's value is read. -/

section Walk

variable {k m n off len p i : Nat} {a b l : List Byte} {x : Option Key}

theorem drop_append_skip (h : a.length ≤ off) : (a ++ l).drop off = l.drop (off - a.length) := by
  rw [List.drop_append, List.drop_eq_nil_of_le h, List.nil_append]

theorem bytesAt_append_skip (h : a.length ≤ off) : bytesAt (a ++ l) off len = bytesAt l (off - a.length) len := by
  rw [bytesAt, drop_append_skip h, bytesAt]

theorem bytesAt_append_here (h : a.length = len) : bytesAt (a ++ l) 0 len = a := by
  rw [bytesAt, List.drop_zero, List.take_append_of_le_length h.ge, List.take_of_length_le h.le]

theorem fieldAt_append_skip (h : a.length ≤ off) : fieldAt (a ++ l) off len = fieldAt l (off - a.length) len := by
  rw [fieldAt, bytesAt_append_skip h, fieldAt]

theorem keyAt_append_skip (h : a.length ≤ off) : keyAt (a ++ l) off = keyAt l (off - a.length) := by
  rw [keyAt, keyAt, fieldAt_append_skip h, fieldAt_append_skip (by omega), Nat.sub_add_comm h]

theorem beNat_be (k n : Nat) : beNat (be k n) = n % 256 ^ k := by
  induction k generalizing n with
  | zero => simp [be, beNat, Nat.mod_one]
  | succ k ih =>
    rw [be, beNat_snoc, ih, BitVec.toNat_ofNat, pow_succ' 256 k, Nat.mod_mul]
    omega

theorem fits_iff : fitsBytes k n = true ↔ n < 256 ^ k := decide_eq_true_iff

@[simp] theorem drop_be_skip (h : k ≤ off) : (be k n ++ l).drop off = l.drop (off - k) := by
  rw [drop_append_skip (by rw [be_length]; exact h), be_length]

@[simp] theorem bytesAt_be_skip (h : k ≤ off) : bytesAt (be k n ++ l) off len = bytesAt l (off - k) len := by
  rw [bytesAt_append_skip (by rw [be_length]; exact h), be_length]

@[simp] theorem fieldAt_be_skip (h : k ≤ off) : fieldAt (be k n ++ l) off len = fieldAt l (off - k) len := by
  rw [fieldAt, bytesAt_be_skip h, fieldAt]

@[simp] theorem keyAt_be_skip (h : k ≤ off) : keyAt (be k n ++ l) off = keyAt l (off - k) := by
  rw [keyAt_append_skip (by rw [be_length]; exact h), be_length]

theorem fieldAt_be_mod (k n : Nat) (l : List Byte) : fieldAt (be k n ++ l) 0 k = n % 256 ^ k := by
  rw [fieldAt, bytesAt_append_here (be_length k n), beNat_be]

@[simp] theorem fieldAt_be (h : fitsBytes k n = true) : fieldAt (be k n ++ l) 0 k = n := by
  rw [fieldAt_be_mod, Nat.mod_eq_of_lt (fits_iff.1 h)]

@[simp] theorem fieldAt_be_last (h : fitsBytes k n = true) : fieldAt (be k n) 0 k = n := by
  rw [← List.append_nil (be k n), fieldAt_be h]

@[simp] theorem drop_key_skip (h : 3 ≤ off) : (keyBytes x ++ l).drop off = l.drop (off - 3) := by
  rw [drop_append_skip (by rw [keyBytes_length]; exact h), keyBytes_length]

@[simp] theorem bytesAt_key_skip (h : 3 ≤ off) : bytesAt (keyBytes x ++ l) off len = bytesAt l (off - 3) len := by
  rw [bytesAt_append_skip (by rw [keyBytes_length]; exact h), keyBytes_length]

@[simp] theorem fieldAt_key_skip (h : 3 ≤ off) : fieldAt (keyBytes x ++ l) off len = fieldAt l (off - 3) len := by
  rw [fieldAt, bytesAt_key_skip h, fieldAt]

@[simp] theorem keyAt_key_skip (h : 3 ≤ off) : keyAt (keyBytes x ++ l) off = keyAt l (off - 3) := by
  rw [keyAt_append_skip (by rw [keyBytes_length]; exact h), keyBytes_length]

@[simp] theorem keyAt_key (h : Key.fitsOpt x = true) : keyAt (keyBytes x ++ l) 0 = x := keyAt_option h l

@[simp] theorem keyAt_key_last (h : Key.fitsOpt x = true) : keyAt (keyBytes x) 0 = x := by
  rw [← List.append_nil (keyBytes x), keyAt_key h]

theorem key_publisher (h : Key.fitsOpt x = true) : fieldAt (keyBytes x ++ l) 2 1 = (x.map (·.pub)).getD 0 := by
  cases x with
  | none => simp [keyBytes, be_three, fieldAt_skip, fieldAt_one]
  | some y =>
    obtain ⟨-, -, hp⟩ := key_fits h
    have hp : fitsBytes 1 y.pub = true := fits_iff.2 hp
    simp [keyBytes, hp]

/-- A field of a field is a field of the whole. -/
theorem bytesAt_bytesAt (h : p + k ≤ m) : bytesAt (bytesAt b off m) p k = bytesAt b (off + p) k := by
  rw [bytesAt, bytesAt, bytesAt, List.drop_take, List.drop_drop, List.take_take, Nat.min_eq_left (by omega)]

theorem fieldAt_bytesAt (h : p + k ≤ m) : fieldAt (bytesAt b off m) p k = fieldAt b (off + p) k := by
  rw [fieldAt, bytesAt_bytesAt h, fieldAt]

theorem keyAt_bytesAt (h : p + 3 ≤ m) : keyAt (bytesAt b off m) p = keyAt b (off + p) := by
  rw [keyAt, keyAt, fieldAt_bytesAt (by omega), fieldAt_bytesAt (by omega), Nat.add_assoc]

theorem bytesAt_drop : bytesAt (b.drop p) off len = bytesAt b (p + off) len := by
  rw [bytesAt, bytesAt, List.drop_drop]

end Walk

/-! ### Repeated fields -/

section Repeated

variable {α β : Type} {m n i : Nat} {l : List Byte} {xs : List α} {x : α} {enc : α → List Byte} {f : Nat → α}

theorem flatMap_length (hm : ∀ x ∈ xs, (enc x).length = m) : (xs.flatMap enc).length = m * xs.length := by
  induction xs with
  | nil => rfl
  | cons x xs ih =>
    rw [List.flatMap_cons, List.length_append, hm x List.mem_cons_self, ih fun y hy => hm y (List.mem_cons_of_mem _ hy),
      List.length_cons, Nat.mul_succ, Nat.add_comm]

theorem bytesAt_flatMap (hm : ∀ x ∈ xs, (enc x).length = m) (hx : xs[i]? = some x) :
    bytesAt (xs.flatMap enc ++ l) (m * i) m = enc x := by
  induction xs generalizing i with
  | nil => simp at hx
  | cons y xs ih =>
    have hy : (enc y).length = m := hm y List.mem_cons_self
    rw [List.flatMap_cons, List.append_assoc]
    cases i with
    | zero =>
      obtain rfl : y = x := by simpa using hx
      exact bytesAt_append_here hy
    | succ i =>
      rw [bytesAt_append_skip (by rw [hy, Nat.mul_succ]; omega), hy, Nat.mul_succ, Nat.add_sub_cancel]
      exact ih (fun z hz => hm z (List.mem_cons_of_mem _ hz)) (by simpa using hx)

theorem map_range_eq (hn : xs.length = n) (h : ∀ i x, xs[i]? = some x → f i = x) : (List.range n).map f = xs := by
  refine List.ext_getElem (by simp [hn]) fun i hi hi' => ?_
  rw [List.getElem_map, List.getElem_range]
  exact h i _ (List.getElem?_eq_getElem hi')

theorem pieces_flatMap (hm : ∀ x ∈ xs, (enc x).length = m) (hn : xs.length = n) :
    pieces m n (xs.flatMap enc ++ l) = xs.map enc := by
  refine map_range_eq (by simpa using hn) fun i y hy => ?_
  obtain ⟨x, hx, rfl⟩ := by simpa using hy
  rw [Nat.mul_comm]
  exact bytesAt_flatMap hm hx

theorem allSome_map {g : β → Option α} {ys : List β} {h : α → β} (hg : ∀ x ∈ xs, g (h x) = some x) (hy : ys = xs.map h) :
    allSome (ys.map g) = some xs := by
  rw [allSome_read, hy, List.map_map]
  exact List.map_congr_left hg

end Repeated

/-! ### The permit record (Table 12.5) -/

section Permit

variable {r : PermitRec} {l : List Byte}

theorem trimEnd_replicate {α : Type} [BEq α] [LawfulBEq α] (z : α) (m : Nat) : trimEnd z (List.replicate m z) = [] := by
  induction m with
  | zero => rfl
  | succ m ih => simp [List.replicate_succ, trimEnd, ih]

theorem trimEnd_filled {α : Type} [BEq α] [LawfulBEq α] {z : α} (m : Nat) {xs : List α} (h : xs.getLast? ≠ some z) :
    trimEnd z (xs ++ List.replicate m z) = xs := by
  induction xs with
  | nil => exact trimEnd_replicate z m
  | cons x xs ih =>
    cases xs with
    | nil =>
      have hx : x ≠ z := by simpa using h
      simp [trimEnd, trimEnd_replicate, hx]
    | cons y ys =>
      rw [List.cons_append, trimEnd, ih (by simpa [List.getLast?_cons_cons] using h)]

theorem padTo_length {n : Nat} {bs : List Byte} (h : bs.length ≤ n) : (padTo n bs).length = n := by
  rw [padTo, List.length_append, List.length_replicate]
  omega

theorem vehicleOf_padTo {v : Option (List Byte)} (h : ∀ w, v = some w → vehicleFits w = true) :
    vehicleOf (padTo 8 (v.getD [])) = v := by
  cases v with
  | none => rfl
  | some w =>
    have hw := h w rfl
    rw [vehicleFits, Bool.and_eq_true, Bool.and_eq_true, decide_eq_true_iff, decide_eq_true_iff, bne_iff_ne] at hw
    obtain ⟨⟨hpos, -⟩, hlast⟩ := hw
    rw [vehicleOf, padTo, Option.getD_some, trimEnd_filled _ hlast]
    cases w with
    | nil => simp at hpos
    | cons b bs => rfl

theorem permitRec_fits_iff :
    PermitRec.fits r = true ↔
      fitsBytes 3 r.number = true ∧ r.zones.length ≤ 3 ∧ (∀ z ∈ r.zones, fitsBytes 2 z = true) ∧ r.zones.getLast? ≠ some 0
        ∧ (∀ w, r.vehicle = some w → vehicleFits w = true) ∧ fitsBytes 2 r.validFrom = true ∧ fitsBytes 2 r.validTo = true
        ∧ ∀ a, r.allowance = some a → a < 0xFFFF := by
  have hv : (match r.vehicle with | none => true | some v => vehicleFits v) = true ↔
      ∀ w, r.vehicle = some w → vehicleFits w = true := by cases r.vehicle <;> simp
  have ha : (match r.allowance with | none => true | some a => decide (a < 0xFFFF)) = true ↔
      ∀ a, r.allowance = some a → a < 0xFFFF := by cases r.allowance <;> simp
  unfold PermitRec.fits
  simp only [Bool.and_eq_true, decide_eq_true_iff, List.all_eq_true, bne_iff_ne, and_assoc]
  exact and_congr_right fun _ => and_congr_right fun _ => and_congr_right fun _ => and_congr_right fun _ =>
    and_congr hv (and_congr_right fun _ => and_congr_right fun _ => ha)

theorem zones_filled {zs : List Nat} (hlen : zs.length ≤ 3) (hfit : ∀ z ∈ zs, fitsBytes 2 z = true)
    (hlast : zs.getLast? ≠ some 0) :
    ∃ a b c, trimEnd 0 [a, b, c] = zs ∧ fitsBytes 2 a = true ∧ fitsBytes 2 b = true ∧ fitsBytes 2 c = true := by
  obtain ⟨a, b, c, habc⟩ : ∃ a b c, zs ++ List.replicate (3 - zs.length) 0 = [a, b, c] :=
    List.length_eq_three.1 (by simp; omega)
  have hall : ∀ w ∈ [a, b, c], fitsBytes 2 w = true := by
    rw [← habc]
    intro w hw
    obtain hw | hw := List.mem_append.1 hw
    · exact hfit w hw
    · obtain rfl := List.eq_of_mem_replicate hw
      rfl
  exact ⟨a, b, c, habc ▸ trimEnd_filled _ hlast, hall a (by simp), hall b (by simp), hall c (by simp)⟩

theorem classStatus_split (c : PermitClass) (st : PermitStatus) :
    fitsBytes 1 (classCode c * 16 + permitStatusCode st) = true
      ∧ (classCode c * 16 + permitStatusCode st) / 16 = classCode c
      ∧ (classCode c * 16 + permitStatusCode st) % 16 = permitStatusCode st := by
  have hc : classCode c ≤ 6 := by cases c <;> decide
  have hs : permitStatusCode st ≤ 3 := by cases st <;> decide
  exact ⟨fits_iff.2 (by omega), by omega, by omega⟩

theorem vehicleBytes_length {v : Option (List Byte)} (h : ∀ w, v = some w → vehicleFits w = true) :
    (padTo 8 (v.getD [])).length = 8 := by
  refine padTo_length ?_
  cases v with
  | none => exact Nat.zero_le _
  | some w =>
    have hw := h w rfl
    rw [vehicleFits, Bool.and_eq_true, Bool.and_eq_true, decide_eq_true_iff, decide_eq_true_iff] at hw
    exact hw.1.2

theorem allowance_filled {x : Option Nat} (h : ∀ a, x = some a → a < 0xFFFF) :
    fitsBytes 2 (x.getD 0xFFFF) = true ∧ (if x.getD 0xFFFF = 0xFFFF then none else some (x.getD 0xFFFF)) = x := by
  cases x with
  | none => exact ⟨rfl, rfl⟩
  | some a =>
    have ha := h a rfl
    exact ⟨fits_iff.2 (by simp; omega), if_neg (by simp; omega)⟩

theorem permitBytes_length (h : PermitRec.fits r = true) : (permitBytes r).length = 24 := by
  obtain ⟨-, hzlen, -, -, hveh, -⟩ := permitRec_fits_iff.1 h
  have hz : (padTo 6 (r.zones.flatMap (be 2))).length = 6 :=
    padTo_length (by rw [flatMap_length (m := 2) fun z _ => be_length 2 z]; omega)
  simp [permitBytes, hz, vehicleBytes_length hveh]

/-- A permit record is read back from its 24 bytes. -/
theorem permitOf_permitBytes (h : PermitRec.fits r = true) : permitOf (permitBytes r) = some r := by
  have hlen := permitBytes_length h
  obtain ⟨hnum, hzlen, hzfit, hzlast, hveh, hfrom, hto, hall⟩ := permitRec_fits_iff.1 h
  obtain ⟨a, b, c, hzones, ha, hb, hc⟩ := zones_filled hzlen hzfit hzlast
  obtain ⟨hcs, hcls, hst⟩ := classStatus_split r.cls r.status
  obtain ⟨hallow, hallow'⟩ := allowance_filled hall
  have hv8 := vehicleBytes_length hveh
  have hv := vehicleOf_padTo hveh
  have hbytes : permitBytes r = be 3 r.number ++ (be 1 (classCode r.cls * 16 + permitStatusCode r.status) ++
      (be 2 a ++ (be 2 b ++ (be 2 c ++ (padTo 8 (r.vehicle.getD []) ++ (be 2 r.validFrom ++ (be 2 r.validTo ++
        be 2 (r.allowance.getD 0xFFFF)))))))) := by
    rw [permitBytes, ← hzones, padTo_zones]
    simp only [List.append_assoc]
  rw [permitOf, if_neg (not_not.2 hlen), hbytes]
  have hvb : ∀ l, bytesAt (padTo 8 (r.vehicle.getD []) ++ l) 0 8 = padTo 8 (r.vehicle.getD []) :=
    fun l => bytesAt_append_here hv8
  simp [hcs, hcls, hst, hnum, hfrom, hto, ha, hb, hc, classOf_classCode, permitStatusOf_permitStatusCode, hallow, hallow',
    hvb, hv, hv8, fieldAt_append_skip, zonesOf, hzones]

end Permit

/-! ### The fault entry (Table 12.4) -/

section FaultEntry

variable {e : FaultEntry}

theorem faultEntry_fits_iff :
    FaultEntry.fits e = true ↔
      fitsBytes 1 e.owner = true ∧ fitsBytes 1 e.subject = true ∧ (∀ t, e.firstRaised = some t → fitsBytes 4 t = true)
        ∧ (∀ t, e.lastRaised = some t → fitsBytes 4 t = true) ∧ fitsBytes 1 e.occurrences = true
        ∧ fitsBytes 4 e.change = true := by
  have htime : ∀ x : Option Nat, (match x with | none => true | some t => fitsBytes 4 t) = true ↔
      ∀ t, x = some t → fitsBytes 4 t = true := by
    intro x
    cases x <;> simp
  unfold FaultEntry.fits
  simp only [Bool.and_eq_true, and_assoc]
  exact and_congr_right fun _ => and_congr_right fun _ => and_congr (htime _) (and_congr_left fun _ => htime _)

theorem flagNat_le (b : Bool) : flagNat b ≤ 1 := by cases b <;> decide

theorem flagNat_eq_one {b : Bool} : flagNat b = 1 ↔ b = true := by cases b <;> decide

theorem faultState_split (st : FaultState) (p q : Bool) :
    fitsBytes 1 (faultStateCode st + flagNat p * 64 + flagNat q * 128) = true
      ∧ (faultStateCode st + flagNat p * 64 + flagNat q * 128) % 4 = faultStateCode st
      ∧ ((faultStateCode st + flagNat p * 64 + flagNat q * 128) / 64 % 2 = 1 ↔ p = true)
      ∧ ((faultStateCode st + flagNat p * 64 + flagNat q * 128) / 128 = 1 ↔ q = true) := by
  have hs : faultStateCode st ≤ 3 := by cases st <;> decide
  have hp := flagNat_le p
  have hq := flagNat_le q
  rw [← flagNat_eq_one (b := p), ← flagNat_eq_one (b := q)]
  exact ⟨fits_iff.2 (by omega), by omega, by omega, by omega⟩

/-- A time with a present flag: sent as 0 where it is absent. -/
theorem flagged_time {x : Option Nat} (h : ∀ t, x = some t → fitsBytes 4 t = true) :
    fitsBytes 4 (x.getD 0) = true ∧ (if x.isSome = true then some (x.getD 0) else none) = x := by
  cases x with
  | none => exact ⟨rfl, rfl⟩
  | some t => exact ⟨h t rfl, rfl⟩

theorem faultEntryBytes_length (e : FaultEntry) : (faultEntryBytes e).length = 17 := by simp [faultEntryBytes]

/-- A fault entry is read back from its 17 bytes. -/
theorem faultEntryOf_faultEntryBytes (h : FaultEntry.fits e = true) : faultEntryOf (faultEntryBytes e) = some e := by
  obtain ⟨howner, hsubj, hfirst, hlast, hocc, hchange⟩ := faultEntry_fits_iff.1 h
  obtain ⟨hbyte, hst, hp, hq⟩ := faultState_split e.state e.firstRaised.isSome e.lastRaised.isSome
  obtain ⟨hfirst, hfirst'⟩ := flagged_time hfirst
  obtain ⟨hlast, hlast'⟩ := flagged_time hlast
  have hkind : fitsBytes 1 (faultCode e.kind) = true := fits_iff.2 (faultCode_lt e.kind)
  have hbytes : faultEntryBytes e = be 1 e.owner ++ (be 1 (faultCode e.kind) ++ (be 1 e.subject ++
      (be 1 (faultStateCode e.state + flagNat e.firstRaised.isSome * 64 + flagNat e.lastRaised.isSome * 128) ++
        (be 4 (e.firstRaised.getD 0) ++ (be 4 (e.lastRaised.getD 0) ++ (be 1 e.occurrences ++ be 4 e.change)))))) := by
    simp only [faultEntryBytes, List.append_assoc]
  rw [hbytes]
  simp [faultEntryOf, hbyte, hst, hp, hq, hkind, howner, hsubj, hfirst, hlast, hocc, hchange, hfirst', hlast',
    faultKindOf_faultCode, faultStateOf_faultStateCode]

end FaultEntry

end Sys2Proof.Machine

/-! Frame bodies and frames read back from their bytes (R192, Tables 12.1 to 12.4). -/

namespace Sys2Proof.Machine

/-! ### The announce body (Table 12.3) -/

section Announce

variable {a : AnnounceBody}

theorem announce_fits_iff :
    AnnounceBody.fits a = true ↔
      fitsBytes 4 a.zoneSec = true ∧ a.zoneMs ≤ 999 ∧ (∀ q, a.quality = some q → q ≤ 3) ∧ Key.fitsOpt a.active = true
        ∧ Key.fitsOpt a.pending = true ∧ fitsBytes 4 a.pendingEff = true ∧ a.sections.length = 8
        ∧ (∀ k ∈ a.sections, Key.fitsOpt k = true) ∧ fitsBytes 4 a.faultCtr = true ∧ fitsBytes 2 a.usageCtr = true
        ∧ fitsBytes 2 a.usageDay = true ∧ fitsBytes 1 a.due = true ∧ fitsBytes 2 a.round = true
        ∧ ∀ c, a.collector = some c → 1 ≤ c ∧ fitsBytes 1 c = true := by
  have hq : (match a.quality with | none => true | some q => decide (q ≤ 3)) = true ↔ ∀ q, a.quality = some q → q ≤ 3 := by
    cases a.quality <;> simp
  have hc : (match a.collector with | none => true | some c => decide (1 ≤ c) && fitsBytes 1 c) = true ↔
      ∀ c, a.collector = some c → 1 ≤ c ∧ fitsBytes 1 c = true := by cases a.collector <;> simp
  unfold AnnounceBody.fits
  simp only [Bool.and_eq_true, and_assoc, decide_eq_true_iff, beq_iff_eq, List.all_eq_true]
  exact and_congr_right fun _ => and_congr_right fun _ => and_congr hq (and_congr_right fun _ => and_congr_right fun _ =>
    and_congr_right fun _ => and_congr_right fun _ => and_congr_right fun _ => and_congr_right fun _ =>
    and_congr_right fun _ => and_congr_right fun _ => and_congr_right fun _ => and_congr_right fun _ => hc)

theorem quality_filled {q : Option Nat} (h : ∀ x, q = some x → x ≤ 3) :
    fitsBytes 1 (q.getD 0xFF) = true ∧ (if q.getD 0xFF ≤ 3 then some (q.getD 0xFF) else none) = q := by
  cases q with
  | none => exact ⟨rfl, rfl⟩
  | some x =>
    have hx := h x rfl
    exact ⟨fits_iff.2 (by simp; omega), if_pos hx⟩

theorem station_filled {c : Option Nat} (h : ∀ x, c = some x → 1 ≤ x ∧ fitsBytes 1 x = true) :
    fitsBytes 1 (c.getD 0) = true ∧ (if c.getD 0 = 0 then none else some (c.getD 0)) = c := by
  cases c with
  | none => exact ⟨rfl, rfl⟩
  | some x =>
    obtain ⟨hpos, hfit⟩ := h x rfl
    exact ⟨hfit, if_neg (by simp; omega)⟩

theorem flags_split (p q r : Bool) :
    fitsBytes 1 (flagNat p + 2 * flagNat q + 4 * flagNat r) = true
      ∧ ((flagNat p + 2 * flagNat q + 4 * flagNat r) % 2 = 1 ↔ p = true)
      ∧ ((flagNat p + 2 * flagNat q + 4 * flagNat r) / 2 % 2 = 1 ↔ q = true)
      ∧ ((flagNat p + 2 * flagNat q + 4 * flagNat r) / 4 % 2 = 1 ↔ r = true) := by
  have hp := flagNat_le p
  have hq := flagNat_le q
  have hr := flagNat_le r
  rw [← flagNat_eq_one (b := p), ← flagNat_eq_one (b := q), ← flagNat_eq_one (b := r)]
  exact ⟨fits_iff.2 (by omega), by omega, by omega, by omega⟩

/-- The announce body, its section keys between the fields before and after them. -/
theorem announceBytes_eq (a : AnnounceBody) :
    announceBytes a =
      be 1 (roleCode a.role) ++ (be 4 a.zoneSec ++ (be 2 a.zoneMs ++ (be 1 (a.quality.getD 0xFF) ++
        (be 1 (flagNat a.dormant + 2 * flagNat a.hostAwake + 4 * flagNat a.reports) ++ (keyBytes a.active ++
        (keyBytes a.pending ++ (be 4 a.pendingEff ++ (a.sections.flatMap keyBytes ++ (be 4 a.faultCtr ++ (be 2 a.usageCtr ++
        (be 2 a.usageDay ++ (be 1 a.due ++ (be 2 a.round ++ (be 1 (a.collector.getD 0) ++
        be 1 (roundStateCode a.roundState))))))))))))))) := by
  simp only [announceBytes, List.append_assoc]

theorem sections_length (h : a.sections.length = 8) : (a.sections.flatMap keyBytes).length = 24 := by
  rw [flatMap_length fun k _ => keyBytes_length k, h]

theorem announceBytes_length (h : a.sections.length = 8) : (announceBytes a).length = 56 := by
  simp [announceBytes_eq, sections_length h]

theorem announce_drop (a : AnnounceBody) :
    ∃ tail, (announceBytes a).drop 19 = a.sections.flatMap keyBytes ++ tail := by
  simp [announceBytes_eq]

theorem announce_sections (hlen : a.sections.length = 8) (hfit : ∀ k ∈ a.sections, Key.fitsOpt k = true) :
    (List.range 8).map (fun i => keyAt (announceBytes a) (19 + 3 * i)) = a.sections := by
  obtain ⟨tail, htail⟩ := announce_drop a
  refine map_range_eq hlen fun i x hx => ?_
  have hkey : bytesAt (announceBytes a) (19 + 3 * i) 3 = keyBytes x := by
    rw [← bytesAt_drop, htail]
    exact bytesAt_flatMap (fun k _ => keyBytes_length k) hx
  rw [← Nat.add_zero (19 + 3 * i), ← keyAt_bytesAt (m := 3) (by omega), hkey]
  exact keyAt_key_last (hfit x (List.mem_of_getElem? hx))

theorem publisherOk_iff {b : List Byte} {off : Nat} : publisherOk b off = true ↔ fieldAt b (off + 2) 1 ≤ 32 :=
  decide_eq_true_iff

/-- An announce body is read back from its 56 bytes, unless the publisher of a tariff key is none. -/
theorem announceOf_announceBytes (h : AnnounceBody.fits a = true) :
    announceOf (announceBytes a) =
      if (a.active.map (·.pub)).getD 0 ≤ 32 ∧ (a.pending.map (·.pub)).getD 0 ≤ 32 then some a else none := by
  obtain ⟨hsec, hms, hqual, hact, hpend, heff, hlen, hkeys, hfault, hctr, hday, hdue, hround, hcol⟩ := announce_fits_iff.1 h
  have hsections := announce_sections hlen hkeys
  obtain ⟨hflags, hdormant, hawake, hreports⟩ := flags_split a.dormant a.hostAwake a.reports
  obtain ⟨hqual, hqual'⟩ := quality_filled hqual
  obtain ⟨hcol, hcol'⟩ := station_filled hcol
  have hms : fitsBytes 2 a.zoneMs = true := fits_iff.2 (by omega)
  have hrole : fitsBytes 1 (roleCode a.role) = true := by cases a.role <;> rfl
  have hstate : fitsBytes 1 (roundStateCode a.roundState) = true := by cases a.roundState <;> rfl
  have hl := sections_length hlen
  have hpub9 : publisherOk (announceBytes a) 9 = true ↔ (a.active.map (·.pub)).getD 0 ≤ 32 := by
    rw [publisherOk_iff, announceBytes_eq]
    simp [key_publisher hact]
  have hpub12 : publisherOk (announceBytes a) 12 = true ↔ (a.pending.map (·.pub)).getD 0 ≤ 32 := by
    rw [publisherOk_iff, announceBytes_eq]
    simp [key_publisher hpend]
  by_cases hp : (a.active.map (·.pub)).getD 0 ≤ 32 ∧ (a.pending.map (·.pub)).getD 0 ≤ 32
  · rw [announceOf, if_neg (by simp [hpub9.2 hp.1, hpub12.2 hp.2]), if_pos hp, hsections, announceBytes_eq]
    simp [hrole, hstate, hsec, hms, hqual, hqual', hflags, hdormant, hawake, hreports, hact, hpend, heff, hl, hfault, hctr,
      hday, hdue, hround, hcol, hcol', roleOf_roleCode, roundStateOf_roundStateCode, fieldAt_append_skip]
  · rw [not_and_or, ← hpub9, ← hpub12] at hp
    rw [announceOf, if_pos (by simpa using hp), if_neg (by rwa [not_and_or, ← hpub9, ← hpub12])]

end Announce

/-! ### The other bodies (Table 12.2) -/

section Bodies

@[simp] theorem fits_code {n : Nat} (h : n ≤ 255) : fitsBytes 1 n = true := fits_iff.2 (by omega)

@[simp] theorem fieldAt_zeros (l : List Byte) : fieldAt (be 1 0 ++ (be 1 0 ++ l)) 0 2 = 0 := by
  simp [be_one, fieldAt_two]

theorem objCode_fits {o : ImageObj} (h : ImageObj.fits o = true) : fitsBytes 1 (objCode o) = true := by
  have hle := objCode_le h
  exact fits_iff.2 (by omega)

theorem fitsOpt_some {k : Key} (h : Key.fits k = true) : Key.fitsOpt (some k) = true := h

theorem requestOf_bodyBytes {r : RequestBody} (h : RequestBody.fits r = true) :
    requestOf (bodyBytes (.request r)) = some (.request r) := by
  cases r with
  | image obj key start =>
    simp only [RequestBody.fits, Bool.and_eq_true] at h
    obtain ⟨⟨hobj, hkey⟩, hstart⟩ := h
    have hle := objCode_le hobj
    have h9 : objCode obj ≠ 9 := by omega
    have h10 : objCode obj ≠ 10 := by omega
    simp [requestOf, bodyBytes, objCode_fits hobj, objOf_objCode hobj, fitsOpt_some hkey, hstart, h9, h10]
  | faults c =>
    have hc : fitsBytes 4 c = true := h
    simp [requestOf, bodyBytes, hc]
  | usage => rfl

theorem fragmentOf_bodyBytes {f : FragmentBody} (h : FragmentBody.fits f = true) :
    fragmentOf (bodyBytes (.fragment f)) = some (.fragment f) := by
  simp only [FragmentBody.fits, Bool.and_eq_true, decide_eq_true_iff] at h
  obtain ⟨⟨⟨⟨⟨⟨hobj, hkey⟩, hindex⟩, hcount⟩, hlength⟩, hpos⟩, hmax⟩ := h
  have hcheck : fitsBytes 2 f.check.toNat = true := fits_iff.2 f.check.isLt
  simp [fragmentOf, bodyBytes, objCode_fits hobj, objOf_objCode hobj, fitsOpt_some hkey, hindex, hcount, hlength, hcheck]
  omega

theorem amendmentOf_bodyBytes {i : Nat} {old new : Key} {c : AmendChange} (hi : fitsBytes 1 i = true)
    (ho : Key.fits old = true) (hn : Key.fits new = true) (hc : AmendChange.fits c = true) :
    amendmentOf (bodyBytes (.amendment i old new c)) = some (.amendment i old new c) := by
  have ho := fitsOpt_some ho
  have hn := fitsOpt_some hn
  cases c with
  | add r =>
    simp [amendmentOf, bodyBytes, hi, ho, hn, permitBytes_length hc,
      permitOf_permitBytes hc]
  | replace r =>
    simp [amendmentOf, bodyBytes, hi, ho, hn, permitBytes_length hc,
      permitOf_permitBytes hc]
  | status n st =>
    have hnum : fitsBytes 3 n = true := hc
    have hst : fitsBytes 1 (permitStatusCode st) = true := by cases st <;> rfl
    simp [amendmentOf, bodyBytes, hi, ho, hn, hnum, hst, permitStatusOf_permitStatusCode]
  | close => simp [amendmentOf, bodyBytes, hi, ho, hn]

theorem usageOf_bodyBytes {u : UsageBody} (h : UsageBody.fits u = true) : usageOf (bodyBytes (.usage u)) = some (.usage u) := by
  cases u with
  | series ser part entries =>
    simp only [UsageBody.fits, Bool.and_eq_true, decide_eq_true_iff, List.all_eq_true] at h
    obtain ⟨⟨⟨⟨⟨hstart, hend⟩, hparts⟩, hpart⟩, hlen⟩, hall⟩ := h
    have hent : (entries.flatMap fun e => be 3 e.1 ++ be 2 e.2).length = 5 * entries.length :=
      flatMap_length fun e _ => by simp
    have hpieces : (pieces 5 entries.length (entries.flatMap fun e => be 3 e.1 ++ be 2 e.2)).map
        (fun p => (fieldAt p 0 3, fieldAt p 3 2)) = entries := by
      have h := pieces_flatMap (m := 5) (enc := fun e : Nat × Nat => be 3 e.1 ++ be 2 e.2) (l := []) (fun e _ => by simp)
        (rfl : entries.length = _)
      rw [List.append_nil] at h
      rw [h, List.map_map]
      refine (List.map_congr_left fun e he => ?_).trans (List.map_id _)
      obtain ⟨h1, h2⟩ := hall e he
      simp [h1, h2]
    have hcode : entries.length ≤ 255 := by omega
    simp [usageOf, bodyBytes, hstart, hend, hparts, hpart, hcode, hlen, hent, hpieces]
    omega

  | single day counter permit minutes =>
    simp only [UsageBody.fits, Bool.and_eq_true] at h
    obtain ⟨⟨⟨hday, hctr⟩, hpermit⟩, hmin⟩ := h
    simp [usageOf, bodyBytes, hday, hctr, hpermit, hmin]

theorem faultReportOf_bodyBytes {r : ReportBody} (h : ReportBody.fits r = true) :
    faultReportOf (bodyBytes (.faultReport r)) = some (.faultReport r) := by
  cases r with
  | series ser part entries =>
    simp only [ReportBody.fits, Bool.and_eq_true, decide_eq_true_iff, List.all_eq_true] at h
    obtain ⟨⟨⟨⟨⟨hstart, hend⟩, hparts⟩, hpart⟩, hlen⟩, hall⟩ := h
    have hent : (entries.flatMap faultEntryBytes).length = 17 * entries.length :=
      flatMap_length fun e _ => faultEntryBytes_length e
    have hpieces : allSome ((pieces 17 entries.length (entries.flatMap faultEntryBytes)).map faultEntryOf) = some entries := by
      have h := pieces_flatMap (l := []) (fun e _ => faultEntryBytes_length e) (rfl : entries.length = _)
      rw [List.append_nil] at h
      exact allSome_map (fun e he => faultEntryOf_faultEntryBytes (hall e he)) h
    have hcode : entries.length ≤ 255 := by omega
    simp [faultReportOf, bodyBytes, hstart, hend, hparts, hpart, hcode, hlen, hent, hpieces]
    omega
  | single counter e =>
    simp only [ReportBody.fits, Bool.and_eq_true] at h
    obtain ⟨hctr, he⟩ := h
    have hzero : fitsBytes 4 0 = true := rfl
    simp [faultReportOf, bodyBytes, hctr, hzero, faultEntryBytes_length, faultEntryOf_faultEntryBytes he]

theorem collection_fits_iff {d : CollectionData} :
    CollectionData.fits d = true ↔
      fitsBytes 2 d.firstSeg = true ∧ fitsBytes 2 d.lastSeg = true ∧ fitsBytes 2 d.round = true ∧ d.counts.length = 8
        ∧ (∀ n ∈ d.counts, fitsBytes 4 n = true) ∧ fitsBytes 4 d.coinTotal = true ∧ fitsBytes 6 d.totalValue = true
        ∧ fitsBytes 4 d.firstSeq = true ∧ fitsBytes 4 d.lastSeq = true
        ∧ ∀ t, d.removal = some t → fitsBytes 4 t = true := by
  have htime : (match d.removal with | none => true | some t => fitsBytes 4 t) = true ↔
      ∀ t, d.removal = some t → fitsBytes 4 t = true := by cases d.removal <;> simp
  rw [← htime]
  simp only [CollectionData.fits, Bool.and_eq_true, and_assoc, beq_iff_eq, List.all_eq_true] <;> rfl

/-- The collection report, its counts between the fields before and after them. -/
theorem collectionBytes_eq (d : CollectionData) :
    bodyBytes (.collectionReport d) =
      be 2 d.firstSeg ++ (be 2 d.lastSeg ++ (be 2 d.round ++ (d.counts.flatMap (be 4) ++ (be 4 d.coinTotal ++
        (be 6 d.totalValue ++ (be 4 d.firstSeq ++ (be 4 d.lastSeq ++ (be 4 (d.removal.getD 0) ++
        be 1 (flagNat d.attended + 2 * flagNat d.mixed + 4 * flagNat d.removal.isSome))))))))) := by
  simp only [bodyBytes, List.append_assoc]

theorem collection_counts {d : CollectionData} (hlen : d.counts.length = 8) (hfit : ∀ n ∈ d.counts, fitsBytes 4 n = true) :
    (List.range 8).map (fun i => fieldAt (bodyBytes (.collectionReport d)) (6 + 4 * i) 4) = d.counts := by
  obtain ⟨tail, htail⟩ : ∃ tail, (bodyBytes (.collectionReport d)).drop 6 = d.counts.flatMap (be 4) ++ tail := by
    simp [collectionBytes_eq]
  refine map_range_eq hlen fun i x hx => ?_
  rw [fieldAt, ← bytesAt_drop, htail, bytesAt_flatMap (fun n _ => be_length 4 n) hx, beNat_be]
  exact Nat.mod_eq_of_lt (fits_iff.1 (hfit x (List.mem_of_getElem? hx)))

theorem collectionReportOf_bodyBytes {d : CollectionData} (h : CollectionData.fits d = true) :
    (bodyBytes (.collectionReport d)).length = 61 ∧ collectionReportOf (bodyBytes (.collectionReport d)) = .collectionReport d := by
  obtain ⟨hfirst, hlast, hround, hlen, hcounts, hcoin, htotal, hseq, hseq', hremoval⟩ := collection_fits_iff.1 h
  obtain ⟨hflags, hatt, hmixed, hpresent⟩ := flags_split d.attended d.mixed d.removal.isSome
  obtain ⟨hremoval, hremoval'⟩ := flagged_time hremoval
  have hl : (d.counts.flatMap (be 4)).length = 32 := by rw [flatMap_length fun n _ => be_length 4 n, hlen]
  refine ⟨by simp [collectionBytes_eq, hl], ?_⟩
  rw [collectionReportOf, collection_counts hlen hcounts, collectionBytes_eq]
  simp [hfirst, hlast, hround, hcoin, htotal, hseq, hseq', hflags, hatt, hmixed, hpresent, hremoval, hremoval', hl,
    fieldAt_append_skip]

theorem bodyOf_announce (b : List Byte) : bodyOf 1 b = if b.length = 56 then (announceOf b).map .announce else none := rfl

theorem bodyOf_report (b : List Byte) :
    bodyOf 14 b = if b.length = 61 then some (collectionReportOf b) else none := rfl

theorem okOpt_publisher {k : Option Key} (h : Key.okOpt k = true) : (k.map (·.pub)).getD 0 ≤ 32 := by
  cases k with
  | none => exact Nat.zero_le _
  | some k =>
    have hk : Key.ok k = true := h
    exact (Key.ok_iff.1 hk).2.2.2

/-- A body that its layout can carry is read back from its bytes; an announce whose tariff publishers are none is out of
range in any case. -/
theorem bodyOf_bodyBytes {body : FrameBody} (h : FrameBody.fits body = true) :
    bodyOf (frameCode body) (bodyBytes body) = some body
      ∨ (frameCode body = 1 ∧ bodyOf (frameCode body) (bodyBytes body) = none ∧ bodyOk body = false) := by
  cases body with
  | announce a =>
    have h : AnnounceBody.fits a = true := h
    obtain ⟨-, -, -, -, -, -, hlen, -⟩ := announce_fits_iff.1 h
    have hb : bodyOf (frameCode (.announce a)) (bodyBytes (.announce a)) = (announceOf (announceBytes a)).map .announce := by
      rw [frameCode, bodyBytes, bodyOf_announce, if_pos (announceBytes_length hlen)]
    rw [hb, announceOf_announceBytes h]
    split
    next hp => exact .inl rfl
    next hp =>
      refine .inr ⟨rfl, rfl, Bool.eq_false_iff.2 fun hok => hp ?_⟩
      obtain ⟨-, hact, hpend, -⟩ := (announceOk_iff a).1 hok
      exact ⟨okOpt_publisher hact, okOpt_publisher hpend⟩
  | request r =>
    have h : RequestBody.fits r = true := h
    exact .inl (by rw [frameCode, bodyOf, requestOf_bodyBytes h])
  | fragment f =>
    have h : FragmentBody.fits f = true := h
    exact .inl (by rw [frameCode, bodyOf, fragmentOf_bodyBytes h])
  | notHeld obj key | superseded obj key =>
    obtain ⟨hobj, hkey⟩ := Bool.and_eq_true_iff.1 h
    refine .inl ?_
    simp [bodyOf, frameCode, bodyBytes, exactly, objCode_fits hobj, objOf_objCode hobj, fitsOpt_some hkey]
  | amendment i old new c =>
    simp only [FrameBody.fits, Bool.and_eq_true] at h
    obtain ⟨⟨⟨hi, ho⟩, hn⟩, hc⟩ := h
    exact .inl (by rw [frameCode, bodyOf, amendmentOf_bodyBytes hi ho hn hc])
  | usage u =>
    have h : UsageBody.fits u = true := h
    exact .inl (by rw [frameCode, bodyOf, usageOf_bodyBytes h])
  | faultReport r =>
    have h : ReportBody.fits r = true := h
    exact .inl (by rw [frameCode, bodyOf, faultReportOf_bodyBytes h])
  | faultAck k s | faultClear k s =>
    have hs : fitsBytes 1 s = true := h
    have hk : fitsBytes 1 (faultCode k) = true := fits_iff.2 (faultCode_lt k)
    refine .inl ?_
    simp [bodyOf, frameCode, bodyBytes, exactly, hs, hk, faultKindOf_faultCode]
  | roundOpen n | roundVisit n | roundClose n | page n =>
    have hn : fitsBytes 2 n = true := h
    refine .inl ?_
    simp [bodyOf, frameCode, bodyBytes, exactly, hn]
  | collectionReport d =>
    have h : CollectionData.fits d = true := h
    obtain ⟨hlen, hread⟩ := collectionReportOf_bodyBytes h
    exact .inl (by rw [frameCode, bodyOf_report, if_pos hlen, hread])
  | collectionAck f l =>
    obtain ⟨hf, hl⟩ := Bool.and_eq_true_iff.1 h
    refine .inl ?_
    simp [bodyOf, frameCode, bodyBytes, exactly, hf, hl]
  | restart n =>
    have hn : fitsBytes 4 n = true := h
    refine .inl ?_
    simp [bodyOf, frameCode, bodyBytes, exactly, hn]

end Bodies

/-! ### The frame (Table 12.1) -/

section Frame

variable {zone own : Nat} {h : FrameHeader} {body : FrameBody}

theorem bodyBytes_length_le (hf : FrameBody.fits body = true) : (bodyBytes body).length ≤ 255 := by
  cases body with
  | announce a =>
    have hf : AnnounceBody.fits a = true := hf
    obtain ⟨-, -, -, -, -, -, hlen, -⟩ := announce_fits_iff.1 hf
    rw [bodyBytes, announceBytes_length hlen]
    decide
  | request r => cases r <;> simp [bodyBytes]
  | fragment f =>
    simp only [FrameBody.fits, FragmentBody.fits, Bool.and_eq_true, decide_eq_true_iff] at hf
    simp [bodyBytes]
    omega
  | amendment i old new c =>
    simp only [FrameBody.fits, Bool.and_eq_true] at hf
    obtain ⟨-, hc⟩ := hf
    cases c with
    | add r | replace r => simp [bodyBytes, permitBytes_length hc]
    | status | close => simp [bodyBytes]
  | usage u =>
    cases u with
    | series ser part entries =>
      simp only [FrameBody.fits, UsageBody.fits, Bool.and_eq_true, decide_eq_true_iff] at hf
      simp [bodyBytes]
      omega
    | single => simp [bodyBytes]
  | faultReport r =>
    cases r with
    | series ser part entries =>
      simp only [FrameBody.fits, ReportBody.fits, Bool.and_eq_true, decide_eq_true_iff] at hf
      simp [bodyBytes, flatMap_length fun e _ => faultEntryBytes_length e]
      omega
    | single => simp [bodyBytes, faultEntryBytes_length]
  | collectionReport d =>
    have hf : CollectionData.fits d = true := hf
    rw [(collectionReportOf_bodyBytes hf).1]
    decide
  | _ => simp [bodyBytes]

theorem frameCore_length (h : FrameHeader) (body : FrameBody) : (frameCore h body).length = 6 + (bodyBytes body).length := by
  simp [frameCore]
  omega

theorem frameCode_fits (body : FrameBody) : fitsBytes 1 (frameCode body) = true := by
  cases body <;> rfl

theorem frameBytes_eq (h : FrameHeader) (body : FrameBody) :
    frameBytes h body =
      be 2 h.zone ++ (be 1 h.sender ++ (be 1 h.dest ++ (be 1 (frameCode body) ++ (be 1 (bodyBytes body).length ++
        (bodyBytes body ++ be 2 (crc (frameCore h body)).toNat))))) := by
  simp only [frameBytes, frameCore, List.append_assoc]

theorem frameBytes_length (h : FrameHeader) (body : FrameBody) : (frameBytes h body).length = 8 + (bodyBytes body).length := by
  rw [frameBytes, List.length_append, frameCore_length, be_length]
  omega

theorem frameBytes_take (h : FrameHeader) (body : FrameBody) :
    (frameBytes h body).take ((frameBytes h body).length - 2) = frameCore h body := by
  rw [frameBytes_length, frameBytes, List.take_left' (by rw [frameCore_length]; omega)]

theorem frameBytes_check (h : FrameHeader) (body : FrameBody) :
    fieldAt (frameBytes h body) ((frameBytes h body).length - 2) 2 = (crc (frameCore h body)).toNat := by
  have hlen := frameCore_length h body
  rw [frameBytes_length, frameBytes, fieldAt_append_skip (by omega), hlen,
    show 8 + (bodyBytes body).length - 2 - (6 + (bodyBytes body).length) = 0 by omega]
  exact fieldAt_be_last (fits_iff.2 (crc (frameCore h body)).isLt)

theorem frameBytes_body (h : FrameHeader) (body : FrameBody) :
    bytesAt (frameBytes h body) 6 ((frameBytes h body).length - 2 - 6) = bodyBytes body := by
  rw [frameBytes_length, show 8 + (bodyBytes body).length - 2 - 6 = (bodyBytes body).length by omega, frameBytes_eq]
  simp [bytesAt_append_here]

theorem header_fits_iff :
    FrameHeader.fits h = true ↔ fitsBytes 2 h.zone = true ∧ fitsBytes 1 h.sender = true ∧ fitsBytes 1 h.dest = true := by
  rw [FrameHeader.fits, Bool.and_eq_true, Bool.and_eq_true, and_assoc]

theorem frameBytes_header (hh : FrameHeader.fits h = true) (hf : FrameBody.fits body = true) :
    ({ zone := fieldAt (frameBytes h body) 0 2, sender := fieldAt (frameBytes h body) 2 1
       dest := fieldAt (frameBytes h body) 3 1 } : FrameHeader) = h
      ∧ fieldAt (frameBytes h body) 4 1 = frameCode body ∧ fieldAt (frameBytes h body) 5 1 = (bodyBytes body).length := by
  obtain ⟨hz, hs, hd⟩ := header_fits_iff.1 hh
  simp [frameBytes_eq, hz, hs, hd, frameCode_fits, bodyBytes_length_le hf]

end Frame

/-! ### The filters of R20 on bytes -/

section Filters

variable {zone own : Nat} {bs : List Byte} {h : FrameHeader} {body : FrameBody} {st : FilterStep}

/-- The header read from the bytes of a frame. -/
def headerOf (bs : List Byte) : FrameHeader := { zone := fieldAt bs 0 2, sender := fieldAt bs 2 1, dest := fieldAt bs 3 1 }

theorem filterBytes_zone (hz : fieldAt bs 0 2 ≠ zone) : filterBytes zone own bs = .inl .zone := if_pos hz

theorem filterBytes_check (hz : fieldAt bs 0 2 = zone)
    (hc : fieldAt bs (bs.length - 2) 2 ≠ (crc (bs.take (bs.length - 2))).toNat) : filterBytes zone own bs = .inl .check :=
  (if_neg (not_not.2 hz)).trans (if_pos hc)

theorem filterBytes_unread (hz : fieldAt bs 0 2 = zone)
    (hc : fieldAt bs (bs.length - 2) 2 = (crc (bs.take (bs.length - 2))).toNat)
    (hb : bs.length ≠ 8 + fieldAt bs 5 1 ∨ bodyOf (fieldAt bs 4 1) (bytesAt bs 6 (bs.length - 2 - 6)) = none) :
    filterBytes zone own bs = .inl .header := by
  refine (if_neg (not_not.2 hz)).trans ((if_neg (not_not.2 hc)).trans ?_)
  by_cases hl : 8 + fieldAt bs 5 1 = bs.length
  · have hb := hb.resolve_left (not_not.2 hl.symm)
    refine (if_neg (not_not.2 hl)).trans ?_
    rw [hb]
  · exact if_pos hl

theorem filterBytes_read (hz : fieldAt bs 0 2 = zone)
    (hc : fieldAt bs (bs.length - 2) 2 = (crc (bs.take (bs.length - 2))).toNat) (hl : bs.length = 8 + fieldAt bs 5 1)
    (hb : bodyOf (fieldAt bs 4 1) (bytesAt bs 6 (bs.length - 2 - 6)) = some body) :
    (∀ st, filterStep zone own (headerOf bs) body = some st → filterBytes zone own bs = .inl st)
      ∧ (filterStep zone own (headerOf bs) body = none → filterBytes zone own bs = .inr (headerOf bs, body)) := by
  have hbody : filterBytes zone own bs =
      match filterStep zone own (headerOf bs) body with
      | some step => .inl step
      | none => .inr (headerOf bs, body) := by
    refine (if_neg (not_not.2 hz)).trans ((if_neg (not_not.2 hc)).trans ((if_neg (not_not.2 hl.symm)).trans ?_))
    rw [hb]
    rfl
  refine ⟨fun st hs => ?_, fun hs => ?_⟩
  · rw [hbody, hs]
  · rw [hbody, hs]

/-- What passes is read from its bytes: zone, check, length, kind and body agree. -/
theorem filterBytes_passed (hp : filterBytes zone own bs = .inr (h, body)) :
    h = headerOf bs ∧ fieldAt bs (bs.length - 2) 2 = (crc (bs.take (bs.length - 2))).toNat
      ∧ bs.length = 8 + fieldAt bs 5 1 ∧ bodyOf (fieldAt bs 4 1) (bytesAt bs 6 (bs.length - 2 - 6)) = some body
      ∧ filterStep zone own h body = none := by
  by_cases hz : fieldAt bs 0 2 = zone
  case neg => simp [filterBytes_zone hz] at hp
  by_cases hc : fieldAt bs (bs.length - 2) 2 = (crc (bs.take (bs.length - 2))).toNat
  case neg => simp [filterBytes_check hz hc] at hp
  by_cases hl : bs.length = 8 + fieldAt bs 5 1
  case neg => simp [filterBytes_unread hz hc (.inl hl)] at hp
  cases hb : bodyOf (fieldAt bs 4 1) (bytesAt bs 6 (bs.length - 2 - 6)) with
  | none => simp [filterBytes_unread hz hc (.inr hb)] at hp
  | some x =>
    obtain ⟨hstop, hpass⟩ := filterBytes_read (own := own) hz hc hl hb
    cases hs : filterStep zone own (headerOf bs) x with
    | some st => simp [hstop st hs] at hp
    | none =>
      obtain ⟨rfl, rfl⟩ := by simpa [hpass hs] using hp
      exact ⟨rfl, hc, hl, rfl, hs⟩

theorem filterStep_outOfRange (hz : h.zone = zone) (hb : bodyOk body = false) : filterStep zone own h body = some .header :=
  (if_neg (not_not.2 hz)).trans (if_pos (by simp [hb]))

/-- A frame is judged from its bytes as it is from its header and body. -/
theorem filterBytes_frameBytes (hh : FrameHeader.fits h = true) (hf : FrameBody.fits body = true) :
    filterBytes zone own (frameBytes h body) =
      match filterStep zone own h body with
      | some st => .inl st
      | none => .inr (h, body) := by
  obtain ⟨hhead, hcode, hlen⟩ := frameBytes_header hh hf
  have hzone : fieldAt (frameBytes h body) 0 2 = h.zone := congrArg FrameHeader.zone hhead
  have hcheck := (frameBytes_check h body).trans (by rw [frameBytes_take h body] :
    _ = (crc ((frameBytes h body).take ((frameBytes h body).length - 2))).toNat)
  have hl : (frameBytes h body).length = 8 + fieldAt (frameBytes h body) 5 1 := by rw [hlen, frameBytes_length]
  have hbody := frameBytes_body h body
  by_cases hz : h.zone = zone
  case neg =>
    rw [filterBytes_zone (hzone.trans_ne hz), filterStep, if_pos hz]
  obtain hb | ⟨-, hb, hok⟩ := bodyOf_bodyBytes hf
  · obtain ⟨hstop, hpass⟩ := filterBytes_read (own := own) (hzone.trans hz) hcheck hl
      (by rw [hcode, hbody]; exact hb)
    rw [headerOf, hhead] at hstop hpass
    cases hs : filterStep zone own h body with
    | some st => exact hstop st hs
    | none => exact hpass hs
  · rw [filterStep_outOfRange hz hok]
    exact filterBytes_unread (hzone.trans hz) hcheck (.inr (by rw [hcode, hbody]; exact hb))

end Filters

end Sys2Proof.Machine

/-! What a frame body was read from: the bytes as they stood, or, for the kinds with unused bits, the fields (R192, Tables 12.2 to
12.4). -/

namespace Sys2Proof.Machine

/-! ### Fields laid down as they were read

What is laid down from an offset on is what stands there: the field at the offset, then what stands behind it. -/

section Lay

variable {b l : List Byte} {k o : Nat} {key : Key}

theorem lay_bytes (h : l = b.drop (o + k)) : bytesAt b o k ++ l = b.drop o := by
  rw [h, bytesAt, ← List.drop_drop, List.take_append_drop]

theorem lay_field (hk : o + k ≤ b.length) (h : l = b.drop (o + k)) : be k (fieldAt b o k) ++ l = b.drop o := by
  rw [be_fieldAt hk, lay_bytes h]

theorem lay_last (hk : o + k = b.length) : be k (fieldAt b o k) = b.drop o := by
  rw [← List.append_nil (be k _)]
  exact lay_field hk.le (by rw [hk, List.drop_length])

theorem lay_code {n : Nat} (hn : fieldAt b o 1 = n) (hk : o + 1 ≤ b.length) (h : l = b.drop (o + 1)) :
    be 1 n ++ l = b.drop o := by
  rw [← hn]
  exact lay_field hk h

theorem lay_codeLast {n : Nat} (hn : fieldAt b o 1 = n) (hk : o + 1 = b.length) : be 1 n = b.drop o := by
  rw [← hn]
  exact lay_last hk

theorem lay_key (hkey : keyAt b o = some key) (hk : o + 3 ≤ b.length) (h : l = b.drop (o + 3)) :
    keyBytes (some key) ++ l = b.drop o := by
  rw [(keyAt_read hkey hk).1, lay_bytes h]

theorem lay_keyLast (hkey : keyAt b o = some key) (hk : o + 3 = b.length) : keyBytes (some key) = b.drop o := by
  rw [← List.append_nil (keyBytes _)]
  exact lay_key hkey hk.le (by rw [hk, List.drop_length])

/-- Two fields of 0 stand where one field of both reads 0. -/
theorem lay_zeros (hz : fieldAt b o 2 = 0) (hk : o + 2 ≤ b.length) (h : l = b.drop (o + 2)) :
    be 1 0 ++ (be 1 0 ++ l) = b.drop o := by
  rw [← lay_field hk h, hz]
  rfl

end Lay

/-! ### The bodies of every kind but three -/

section Read

variable {b : List Byte} {body : FrameBody}

theorem keyAt_fits {o : Nat} {key : Key} (h : keyAt b o = some key) : Key.fits key = true := by
  unfold keyAt at h
  split at h
  next => cases h
  next hz =>
    cases h
    simp only [Key.fits, fieldAt_fits, Bool.and_true, decide_eq_true_iff]
    omega

theorem objCode_read {n : Nat} {o : ImageObj} (h : objOf n = some o) : n = objCode o ∧ ImageObj.fits o = true := by
  unfold objOf at h
  split at h
  next hn =>
    cases h
    exact ⟨hn, rfl⟩
  next hn =>
    split at h
    next hle =>
      cases h
      exact ⟨by simp [objCode]; omega, by simp [ImageObj.fits]; omega⟩
    next => cases h

theorem requestOf_read (h : requestOf b = some body) :
    ∃ r, body = .request r ∧ bodyBytes body = b ∧ RequestBody.fits r = true := by
  unfold requestOf at h
  split at h
  next h9 =>
    split at h
    next hl =>
      cases h
      exact ⟨_, rfl, lay_code (o := 0) h9 (by omega) (lay_last (by omega)), fieldAt_fits _ _ _⟩
    next => cases h
  next =>
    split at h
    next h10 =>
      split at h
      next hl =>
        cases h
        exact ⟨_, rfl, lay_codeLast (o := 0) h10 (by omega), rfl⟩
      next => cases h
    next =>
      split at h
      next obj key hobj hkey =>
        split at h
        next hl =>
          cases h
          obtain ⟨hcode, hfit⟩ := objCode_read hobj
          refine ⟨_, rfl, ?_, ?_⟩
          · rw [bodyBytes, List.append_assoc]
            exact lay_code (o := 0) hcode (by omega) (lay_key hkey (by omega) (lay_last (by omega)))
          · simp [RequestBody.fits, hfit, keyAt_fits hkey, fieldAt_fits]
        next => cases h
      next => cases h

theorem fragmentOf_read (h : fragmentOf b = some body) :
    ∃ f, body = .fragment f ∧ bodyBytes body = b ∧ FragmentBody.fits f = true := by
  unfold fragmentOf at h
  split at h
  next obj key hobj hkey =>
    split at h
    next hl =>
      cases h
      obtain ⟨hcode, hfit⟩ := objCode_read hobj
      have hcheck : (BitVec.ofNat 16 (fieldAt b 8 2)).toNat = fieldAt b 8 2 :=
        (BitVec.toNat_ofNat _ _).trans (Nat.mod_eq_of_lt (fieldAt_lt b 8 2))
      refine ⟨_, rfl, ?_, ?_⟩
      · simp only [bodyBytes, List.append_assoc, hcheck]
        exact lay_code (o := 0) hcode (by omega) (lay_key hkey (by omega) (lay_field (by omega) (lay_field (by omega)
          (lay_field (by omega) (lay_field (by omega) rfl)))))
      · simp [FragmentBody.fits, hfit, keyAt_fits hkey, fieldAt_fits]
        omega
    next => cases h
  next => cases h

theorem lay_amendment {old new : Key} {c : Nat} {l : List Byte} (hold : keyAt b 1 = some old) (hnew : keyAt b 4 = some new)
    (hc : fieldAt b 7 1 = c) (hlen : 8 ≤ b.length) (hl : l = b.drop 8) :
    be 1 (fieldAt b 0 1) ++ (keyBytes (some old) ++ (keyBytes (some new) ++ (be 1 c ++ l))) = b :=
  lay_field (o := 0) (by omega) (lay_key hold (by omega) (lay_key hnew (by omega) (lay_code hc (by omega) hl)))

theorem amendmentOf_read (h : amendmentOf b = some body) :
    ∃ i old new c, body = .amendment i old new c ∧ bodyBytes body = b ∧ fitsBytes 1 i = true ∧ Key.fits old = true
      ∧ Key.fits new = true ∧ AmendChange.fits c = true := by
  unfold amendmentOf at h
  split at h
  next old new hold hnew =>
    have ho := keyAt_fits hold
    have hn := keyAt_fits hnew
    split at h
    next hc =>
      split at h
      next hl =>
        obtain ⟨r, hr, rfl⟩ := Option.map_eq_some_iff.1 h
        obtain ⟨-, hbytes, hfit⟩ := permitOf_read hr
        refine ⟨_, _, _, _, rfl, ?_, fieldAt_fits _ _ _, ho, hn, hfit⟩
        simp only [bodyBytes, List.append_assoc]
        exact lay_amendment hold hnew hc (by omega) hbytes
      next => cases h
    next hc =>
      split at h
      next hl =>
        obtain ⟨r, hr, rfl⟩ := Option.map_eq_some_iff.1 h
        obtain ⟨-, hbytes, hfit⟩ := permitOf_read hr
        refine ⟨_, _, _, _, rfl, ?_, fieldAt_fits _ _ _, ho, hn, hfit⟩
        simp only [bodyBytes, List.append_assoc]
        exact lay_amendment hold hnew hc (by omega) hbytes
      next => cases h
    next hc =>
      split at h
      next hl =>
        obtain ⟨st, hst, rfl⟩ := Option.map_eq_some_iff.1 h
        refine ⟨_, _, _, _, rfl, ?_, fieldAt_fits _ _ _, ho, hn, fieldAt_fits _ _ _⟩
        simp only [bodyBytes, List.append_assoc]
        exact lay_amendment hold hnew hc (by omega)
          (lay_field (by omega) (lay_codeLast (permitStatus_read hst).symm (by omega)))
      next => cases h
    next hc =>
      split at h
      next hl =>
        cases h
        refine ⟨_, _, _, _, rfl, ?_, fieldAt_fits _ _ _, ho, hn, rfl⟩
        simp only [bodyBytes, List.append_assoc]
        exact lay_field (o := 0) (by omega) (lay_key hold (by omega) (lay_key hnew (by omega) (lay_codeLast hc (by omega))))
      next => cases h
    next => cases h
  next => cases h

theorem usageEntries_read {e : Nat} (hl : b.length = e * 5) :
    ((pieces 5 e b).map fun p => (fieldAt p 0 3, fieldAt p 3 2)).flatMap (fun x => be 3 x.1 ++ be 2 x.2) = b := by
  rw [List.flatMap_map]
  conv_rhs => rw [← pieces_flatten 5 e b hl]
  rw [← List.flatMap_id]
  refine List.flatMap_congr fun p hp => ?_
  obtain ⟨i, hi, rfl⟩ := List.mem_map.1 hp
  have hi := List.mem_range.1 hi
  have hlen : (bytesAt b (i * 5) 5).length = 5 := bytesAt_length (by omega)
  exact lay_field (o := 0) (by omega) (lay_last (by omega))

theorem usageOf_read (h : usageOf b = some body) :
    ∃ u, body = .usage u ∧ bodyBytes body = b ∧ UsageBody.fits u = true := by
  unfold usageOf at h
  dsimp only at h
  split at h
  next => cases h
  next hl =>
    obtain ⟨hlen, hmax⟩ := not_or.1 hl
    have hlen := not_not.1 hlen
    split at h
    next hc =>
      cases h
      refine ⟨_, rfl, ?_, ?_⟩
      · simp only [bodyBytes, List.append_assoc]
        exact lay_code (o := 0) hc (by omega) (lay_field (by omega) (lay_field (by omega) (lay_field (by omega)
          (lay_field (by omega) (lay_code (by simp [pieces_length]) (by omega)
            (usageEntries_read (by rw [List.length_drop]; omega)))))))
      · simp [UsageBody.fits, fieldAt_fits, pieces_length]
        omega
    next hc =>
      split at h
      next hs =>
        cases h
        obtain ⟨hone, hzero⟩ := hs
        refine ⟨_, rfl, ?_, ?_⟩
        · simp only [bodyBytes, List.append_assoc]
          exact lay_code (o := 0) hc (by omega) (lay_field (by omega) (lay_field (by omega) (lay_zeros hzero (by omega)
            (lay_code hone (by omega) (lay_field (by omega) (lay_last (by omega)))))))
        · simp [UsageBody.fits, fieldAt_fits]
      next => cases h
    next => cases h

theorem exactly_some {n : Nat} {f : FrameBody} (h : exactly n b f = some body) : b.length = n ∧ body = f := by
  unfold exactly at h
  split at h
  next hl =>
    cases h
    exact ⟨hl, rfl⟩
  next => cases h

theorem lay_object {obj : ImageObj} {key : Key} (hobj : objOf (fieldAt b 0 1) = some obj) (hkey : keyAt b 1 = some key)
    (hl : b.length = 4) :
    be 1 (objCode obj) ++ keyBytes (some key) = b ∧ (ImageObj.fits obj && Key.fits key) = true := by
  obtain ⟨hcode, hfit⟩ := objCode_read hobj
  exact ⟨lay_code (o := 0) hcode (by omega) (lay_keyLast hkey (by omega)), by rw [hfit, keyAt_fits hkey]; rfl⟩

theorem lay_whole {k : Nat} (hl : b.length = k) : be k (fieldAt b 0 k) = b ∧ fitsBytes k (fieldAt b 0 k) = true :=
  ⟨lay_last (o := 0) (by omega), fieldAt_fits _ _ _⟩

theorem faultCode_read {n : Nat} {k : FaultKind} (h : faultKindOf n = some k) : n = faultCode k := by
  unfold faultKindOf at h
  split at h <;> cases h <;> rfl

theorem faultReportOf_code (h : faultReportOf b = some body) : frameCode body = 8 := by
  unfold faultReportOf at h
  dsimp only at h
  split at h
  next => cases h
  next =>
    split at h
    next =>
      obtain ⟨es, -, rfl⟩ := Option.map_eq_some_iff.1 h
      rfl
    next =>
      split at h
      next =>
        obtain ⟨x, -, rfl⟩ := Option.map_eq_some_iff.1 h
        rfl
      next => cases h
    next => cases h

/-- A body read under a kind code has that code; where the kind has no unused bits, it has its bytes, and fits them. -/
theorem bodyOf_some {k : Nat} (h : bodyOf k b = some body) :
    frameCode body = k ∧ (k ∉ [1, 8, 14] → bodyBytes body = b ∧ FrameBody.fits body = true) := by
  unfold bodyOf at h
  split at h
  next =>
    split at h
    next =>
      obtain ⟨a, -, rfl⟩ := Option.map_eq_some_iff.1 h
      exact ⟨rfl, fun hk => absurd (by simp) hk⟩
    next => cases h
  next =>
    obtain ⟨r, rfl, hread⟩ := requestOf_read h
    exact ⟨rfl, fun _ => hread⟩
  next =>
    obtain ⟨f, rfl, hread⟩ := fragmentOf_read h
    exact ⟨rfl, fun _ => hread⟩
  next =>
    split at h
    next obj key hobj hkey =>
      obtain ⟨hl, rfl⟩ := exactly_some h
      exact ⟨rfl, fun _ => lay_object hobj hkey hl⟩
    next => cases h
  next =>
    split at h
    next obj key hobj hkey =>
      obtain ⟨hl, rfl⟩ := exactly_some h
      exact ⟨rfl, fun _ => lay_object hobj hkey hl⟩
    next => cases h
  next =>
    obtain ⟨i, old, new, c, rfl, hbytes, hi, ho, hn, hc⟩ := amendmentOf_read h
    exact ⟨rfl, fun _ => ⟨hbytes, by simp [FrameBody.fits, hi, ho, hn, hc]⟩⟩
  next =>
    obtain ⟨u, rfl, hread⟩ := usageOf_read h
    exact ⟨rfl, fun _ => hread⟩
  next => exact ⟨faultReportOf_code h, fun hk => absurd (by simp) hk⟩
  next =>
    obtain ⟨k, hk, h⟩ := Option.bind_eq_some_iff.1 h
    obtain ⟨hl, rfl⟩ := exactly_some h
    exact ⟨rfl, fun _ => ⟨lay_code (o := 0) (faultCode_read hk) (by omega) (lay_last (by omega)), fieldAt_fits _ _ _⟩⟩
  next =>
    obtain ⟨k, hk, h⟩ := Option.bind_eq_some_iff.1 h
    obtain ⟨hl, rfl⟩ := exactly_some h
    exact ⟨rfl, fun _ => ⟨lay_code (o := 0) (faultCode_read hk) (by omega) (lay_last (by omega)), fieldAt_fits _ _ _⟩⟩
  next =>
    obtain ⟨hl, rfl⟩ := exactly_some h
    exact ⟨rfl, fun _ => lay_whole hl⟩
  next =>
    obtain ⟨hl, rfl⟩ := exactly_some h
    exact ⟨rfl, fun _ => lay_whole hl⟩
  next =>
    obtain ⟨hl, rfl⟩ := exactly_some h
    exact ⟨rfl, fun _ => lay_whole hl⟩
  next =>
    obtain ⟨-, rfl⟩ := exactly_some h
    exact ⟨rfl, fun hk => absurd (by simp) hk⟩
  next =>
    obtain ⟨hl, rfl⟩ := exactly_some h
    exact ⟨rfl, fun _ => ⟨lay_field (o := 0) (by omega) (lay_last (by omega)), by simp [FrameBody.fits, fieldAt_fits]⟩⟩
  next =>
    obtain ⟨hl, rfl⟩ := exactly_some h
    exact ⟨rfl, fun _ => lay_whole hl⟩
  next =>
    obtain ⟨hl, rfl⟩ := exactly_some h
    exact ⟨rfl, fun _ => lay_whole hl⟩
  next => cases h

/-- Of a kind with no unused bits, a body is read from nothing but its own bytes. -/
theorem bodyOf_iff {k : Nat} (hk : k ∉ [1, 8, 14]) :
    bodyOf k b = some body ↔ frameCode body = k ∧ bodyBytes body = b ∧ FrameBody.fits body = true := by
  refine ⟨fun h => ?_, ?_⟩
  · obtain ⟨hcode, hread⟩ := bodyOf_some h
    exact ⟨hcode, hread hk⟩
  · rintro ⟨rfl, rfl, hfit⟩
    obtain h | ⟨hcode, -⟩ := bodyOf_bodyBytes hfit
    · exact h
    · exact absurd (by simp [hcode]) hk

end Read

/-! ### The kinds with unused bits, by their fields -/

section Fields

variable {b : List Byte}

theorem faultKindOf_iff {n : Nat} {k : FaultKind} : faultKindOf n = some k ↔ faultCode k = n :=
  ⟨fun h => (faultCode_read h).symm, fun h => h ▸ faultKindOf_faultCode k⟩

theorem faultStateOf_iff {n : Nat} {st : FaultState} :
    faultStateOf n = some st ↔ [FaultState.raised, .acknowledged, .cleared][n - 1]? = some st ∧ n ≠ 0 :=
  match n with
  | 0 | 1 | 2 | 3 | n + 4 => by simp [faultStateOf]

theorem roleOf_iff {n : Nat} {r : Role} :
    roleOf n = some r ↔ [Role.fixed, .gateway, .collector, .engineer][n - 1]? = some r ∧ n ≠ 0 :=
  match n with
  | 0 | 1 | 2 | 3 | 4 | n + 5 => by simp [roleOf]

theorem roundStateOf_eq (n : Nat) :
    roundStateOf n = [RoundState.idle, .opened, .visited, .removed, .reported][n]? :=
  match n with
  | 0 | 1 | 2 | 3 | 4 | n + 5 => by simp [roundStateOf]

theorem testBit_iff {n i : Nat} : n.testBit i = true ↔ n / 2 ^ i % 2 = 1 := by
  rw [Nat.testBit_eq_decide_div_mod_eq, decide_eq_true_iff]

theorem faultEntryOf_iff (b : List Byte) (x : FaultEntry) :
    faultEntryOf b = some x ↔
      x.owner = fieldAt b 0 1 ∧ faultCode x.kind = fieldAt b 1 1 ∧ x.subject = fieldAt b 2 1
        ∧ ([FaultState.raised, .acknowledged, .cleared][fieldAt b 3 1 % 4 - 1]? = some x.state ∧ fieldAt b 3 1 % 4 ≠ 0)
        ∧ x.firstRaised = (if (fieldAt b 3 1).testBit 6 = true then some (fieldAt b 4 4) else none)
        ∧ x.lastRaised = (if (fieldAt b 3 1).testBit 7 = true then some (fieldAt b 8 4) else none)
        ∧ x.occurrences = fieldAt b 12 1 ∧ x.change = fieldAt b 13 4 := by
  have hlt := fieldAt_lt b 3 1
  have h6 : (fieldAt b 3 1).testBit 6 = true ↔ fieldAt b 3 1 / 64 % 2 = 1 := testBit_iff
  have h7 : (fieldAt b 3 1).testBit 7 = true ↔ fieldAt b 3 1 / 128 = 1 := testBit_iff.trans (by omega)
  simp only [h6, h7, ← faultStateOf_iff, ← faultKindOf_iff]
  unfold faultEntryOf
  split
  next k st hk hst =>
    obtain ⟨owner, kind, subject, state, first, last, occurrences, change⟩ := x
    simp only [Option.some.injEq, FaultEntry.mk.injEq, hk, hst, eq_comm (a := fieldAt b _ _)]
    constructor
    · rintro ⟨rfl, rfl, rfl, rfl, rfl, rfl, rfl, rfl⟩
      exact ⟨rfl, rfl, rfl, rfl, rfl, rfl, rfl, rfl⟩
    · rintro ⟨rfl, rfl, rfl, rfl, rfl, rfl, rfl, rfl⟩
      exact ⟨rfl, rfl, rfl, rfl, rfl, rfl, rfl, rfl⟩
  next h => exact iff_of_false (by simp) fun ⟨_, hk, _, hst, _⟩ => h _ _ hk hst

theorem announceOf_iff (b : List Byte) (a : AnnounceBody) :
    announceOf b = some a ↔
      ([Role.fixed, .gateway, .collector, .engineer][fieldAt b 0 1 - 1]? = some a.role ∧ fieldAt b 0 1 ≠ 0)
        ∧ a.zoneSec = fieldAt b 1 4 ∧ a.zoneMs = fieldAt b 5 2
        ∧ a.quality = (if fieldAt b 7 1 ≤ 3 then some (fieldAt b 7 1) else none)
        ∧ a.dormant = (fieldAt b 8 1).testBit 0 ∧ a.hostAwake = (fieldAt b 8 1).testBit 1
        ∧ a.reports = (fieldAt b 8 1).testBit 2
        ∧ a.active = keyAt b 9 ∧ fieldAt b 11 1 ≤ 32 ∧ a.pending = keyAt b 12 ∧ fieldAt b 14 1 ≤ 32
        ∧ a.pendingEff = fieldAt b 15 4 ∧ a.sections = (List.range 8).map (fun i => keyAt b (19 + 3 * i))
        ∧ a.faultCtr = fieldAt b 43 4 ∧ a.usageCtr = fieldAt b 47 2 ∧ a.usageDay = fieldAt b 49 2
        ∧ a.due = fieldAt b 51 1 ∧ a.round = fieldAt b 52 2
        ∧ a.collector = (if fieldAt b 54 1 = 0 then none else some (fieldAt b 54 1))
        ∧ [RoundState.idle, .opened, .visited, .removed, .reported][fieldAt b 55 1]? = some a.roundState := by
  have h0 : (fieldAt b 8 1).testBit 0 = decide (fieldAt b 8 1 % 2 = 1) := Nat.testBit_zero _
  have h1 : (fieldAt b 8 1).testBit 1 = decide (fieldAt b 8 1 / 2 % 2 = 1) := Nat.testBit_eq_decide_div_mod_eq
  have h2 : (fieldAt b 8 1).testBit 2 = decide (fieldAt b 8 1 / 4 % 2 = 1) := Nat.testBit_eq_decide_div_mod_eq
  simp only [h0, h1, h2, ← roleOf_iff, ← roundStateOf_eq]
  unfold announceOf
  split
  next hp =>
    rw [Bool.or_eq_true, Bool.not_eq_true', Bool.not_eq_true', ← Bool.not_eq_true, ← Bool.not_eq_true, publisherOk_iff,
      publisherOk_iff] at hp
    exact iff_of_false (by simp) fun ⟨_, _, _, _, _, _, _, _, hp9, _, hp12, _⟩ => hp.elim (· hp9) (· hp12)
  next hp =>
    rw [Bool.or_eq_true, not_or, Bool.not_eq_true', Bool.not_eq_true', Bool.not_eq_false, Bool.not_eq_false, publisherOk_iff,
      publisherOk_iff] at hp
    obtain ⟨hp9, hp12⟩ := hp
    split
    next r rs hr hrs =>
      obtain ⟨role, sec, ms, quality, dormant, awake, reports, active, pending, eff, sections, fctr, uctr, uday, due, round,
        collector, state⟩ := a
      simp only [Option.some.injEq, AnnounceBody.mk.injEq, hr, hrs]
      constructor
      · rintro ⟨rfl, rfl, rfl, rfl, rfl, rfl, rfl, rfl, rfl, rfl, rfl, rfl, rfl, rfl, rfl, rfl, rfl, rfl⟩
        exact ⟨rfl, rfl, rfl, rfl, rfl, rfl, rfl, rfl, hp9, rfl, hp12, rfl, rfl, rfl, rfl, rfl, rfl, rfl, rfl, rfl⟩
      · rintro ⟨rfl, rfl, rfl, rfl, rfl, rfl, rfl, rfl, -, rfl, -, rfl, rfl, rfl, rfl, rfl, rfl, rfl, rfl, rfl⟩
        exact ⟨rfl, rfl, rfl, rfl, rfl, rfl, rfl, rfl, rfl, rfl, rfl, rfl, rfl, rfl, rfl, rfl, rfl, rfl⟩
    next h =>
      exact iff_of_false (by simp) fun ⟨hr, _, _, _, _, _, _, _, _, _, _, _, _, _, _, _, _, _, _, hrs⟩ => h _ _ hr hrs

theorem collectionReport_iff (b : List Byte) (d : CollectionData) :
    bodyOf 14 b = some (.collectionReport d) ↔
      b.length = 61 ∧ d.firstSeg = fieldAt b 0 2 ∧ d.lastSeg = fieldAt b 2 2 ∧ d.round = fieldAt b 4 2
        ∧ d.counts = (List.range 8).map (fun i => fieldAt b (6 + 4 * i) 4) ∧ d.coinTotal = fieldAt b 38 4
        ∧ d.totalValue = fieldAt b 42 6 ∧ d.firstSeq = fieldAt b 48 4 ∧ d.lastSeq = fieldAt b 52 4
        ∧ d.removal = (if (fieldAt b 60 1).testBit 2 = true then some (fieldAt b 56 4) else none)
        ∧ d.attended = (fieldAt b 60 1).testBit 0 ∧ d.mixed = (fieldAt b 60 1).testBit 1 := by
  have h0 : (fieldAt b 60 1).testBit 0 = decide (fieldAt b 60 1 % 2 = 1) := Nat.testBit_zero _
  have h1 : (fieldAt b 60 1).testBit 1 = decide (fieldAt b 60 1 / 2 % 2 = 1) := Nat.testBit_eq_decide_div_mod_eq
  have h2 : (fieldAt b 60 1).testBit 2 = true ↔ fieldAt b 60 1 / 4 % 2 = 1 := testBit_iff
  simp only [h0, h1, h2]
  rw [bodyOf_report]
  split
  next hl =>
    obtain ⟨first, last, round, counts, coin, total, seq, seq', removal, attended, mixed⟩ := d
    simp only [collectionReportOf, Option.some.injEq, FrameBody.collectionReport.injEq, CollectionData.mk.injEq, hl, true_and]
    constructor
    · rintro ⟨rfl, rfl, rfl, rfl, rfl, rfl, rfl, rfl, rfl, rfl, rfl⟩
      exact ⟨rfl, rfl, rfl, rfl, rfl, rfl, rfl, rfl, rfl, rfl, rfl⟩
    · rintro ⟨rfl, rfl, rfl, rfl, rfl, rfl, rfl, rfl, rfl, rfl, rfl⟩
      exact ⟨rfl, rfl, rfl, rfl, rfl, rfl, rfl, rfl, rfl, rfl, rfl⟩
  next hl => exact iff_of_false (by simp) fun h => hl h.1

theorem announce_iff (b : List Byte) (a : AnnounceBody) :
    bodyOf 1 b = some (.announce a) ↔ b.length = 56 ∧ announceOf b = some a := by
  rw [bodyOf_announce]
  split
  next hl => simp [hl]
  next hl => simp [hl]

theorem allSome_pieces {α : Type} {m e o : Nat} {dec : List Byte → Option α} {es : List α} :
    allSome ((pieces m e (b.drop o)).map dec) = some es ↔
      es.length = e ∧ ∀ i x, es[i]? = some x → dec (bytesAt b (o + m * i) m) = some x := by
  rw [allSome_read, pieces, List.map_map]
  constructor
  · intro h
    have hlen : es.length = e := by simpa using (congrArg List.length h).symm
    refine ⟨hlen, fun i x hx => ?_⟩
    have hi : i < e := hlen ▸ (List.getElem?_eq_some_iff.1 hx).1
    have hget := congrArg (·[i]?) h
    simpa [List.getElem?_range hi, hx, bytesAt_drop, Nat.mul_comm i m] using hget
  · rintro ⟨hlen, h⟩
    refine map_range_eq (by simpa using hlen) fun i y hy => ?_
    obtain ⟨x, hx, rfl⟩ := by simpa using hy
    rw [Function.comp_apply, bytesAt_drop, Nat.mul_comm]
    exact h i x hx

theorem faultReport_series {e : Nat} (he : e = fieldAt b 11 1) {start endPoint part parts : Nat} {entries : List FaultEntry} :
    faultReportOf b = some (.faultReport (.series ⟨start, endPoint, parts⟩ part entries)) ↔
      b.length = 12 + 17 * e ∧ e ≤ 4 ∧ fieldAt b 0 1 = 1 ∧ start = fieldAt b 1 4 ∧ endPoint = fieldAt b 5 4
        ∧ part = fieldAt b 9 1 ∧ parts = fieldAt b 10 1 ∧ entries.length = e
        ∧ ∀ i x, entries[i]? = some x → faultEntryOf (bytesAt b (12 + 17 * i) 17) = some x := by
  subst he
  rw [← allSome_pieces]
  unfold faultReportOf
  dsimp only
  split
  next hl => exact iff_of_false (by simp) fun ⟨hlen, hmax, _⟩ => hl.elim (· hlen) (absurd hmax ∘ Nat.not_le.2)
  next hl =>
    obtain ⟨hlen, hmax⟩ := not_or.1 hl
    have hlen := not_not.1 hlen
    have hmax := Nat.not_lt.1 hmax
    split
    next hc =>
      rw [Option.map_eq_some_iff]
      constructor
      · rintro ⟨es, hes, heq⟩
        cases heq
        exact ⟨hlen, hmax, hc, rfl, rfl, rfl, rfl, hes⟩
      · rintro ⟨-, -, -, rfl, rfl, rfl, rfl, hes⟩
        exact ⟨entries, hes, rfl⟩
    next hc =>
      refine iff_of_false (fun h => ?_) fun ⟨_, _, h1, _⟩ => by simp [h1] at hc
      split at h
      next =>
        obtain ⟨x, -, heq⟩ := Option.map_eq_some_iff.1 h
        cases heq
      next => cases h
    next hc _ => exact iff_of_false (by simp) fun ⟨_, _, h1, _⟩ => hc h1

theorem faultReport_single {e : Nat} (he : e = fieldAt b 11 1) {counter : Nat} {x : FaultEntry} :
    faultReportOf b = some (.faultReport (.single counter x)) ↔
      b.length = 29 ∧ e = 1 ∧ fieldAt b 0 1 = 2 ∧ fieldAt b 1 4 = 0 ∧ counter = fieldAt b 5 4
        ∧ fieldAt b 9 2 = 0 ∧ faultEntryOf (bytesAt b 12 17) = some x := by
  subst he
  unfold faultReportOf
  dsimp only
  split
  next hl => exact iff_of_false (by simp) fun ⟨hlen, hone, _⟩ => by omega
  next hl =>
    obtain ⟨hlen, hmax⟩ := not_or.1 hl
    have hlen := not_not.1 hlen
    split
    next hc =>
      refine iff_of_false (fun h => ?_) fun ⟨_, _, h2, _⟩ => by simp [h2] at hc
      obtain ⟨es, -, heq⟩ := Option.map_eq_some_iff.1 h
      cases heq
    next hc =>
      split
      next hs =>
        obtain ⟨hone, hzero, hzero'⟩ := hs
        rw [Option.map_eq_some_iff, bytesAt_tail (show b.length = 12 + 17 by omega)]
        constructor
        · rintro ⟨y, hy, heq⟩
          cases heq
          exact ⟨by omega, hone, hc, hzero, rfl, hzero', hy⟩
        · rintro ⟨-, -, -, -, rfl, -, hx⟩
          exact ⟨x, hx, rfl⟩
      next hs => exact iff_of_false (by simp) fun ⟨_, hone, _, hzero, _, hzero', _⟩ => hs ⟨hone, hzero, hzero'⟩
    next _ hc => exact iff_of_false (by simp) fun ⟨_, _, h2, _⟩ => hc h2

end Fields

/-! ### O59 -/

section Frame

theorem crc_concat (bs : List Byte) (b : Byte) : crc (bs ++ [b]) = crcShift^[8] (crc bs ^^^ (b.zeroExtend 16 <<< 8)) := by
  rw [crc, List.foldl_append]
  rfl

/-- What passes is the frame of its own bytes, where its kind has no unused bits. -/
theorem frameBytes_of_passed {zone own : Nat} {bytes : List Byte} {h : FrameHeader} {body : FrameBody}
    (hp : filterBytes zone own bytes = .inr (h, body)) (hk : frameCode body ∉ [1, 8, 14]) : bytes = frameBytes h body := by
  obtain ⟨rfl, hcheck, hlen, hbody, -⟩ := filterBytes_passed hp
  obtain ⟨hcode, hread⟩ := bodyOf_some hbody
  obtain ⟨hbytes, -⟩ := hread (hcode ▸ hk)
  have hlength : fieldAt bytes 5 1 = (bodyBytes body).length := by
    rw [hbytes, bytesAt_length (by omega)]
    omega
  have hrest : bodyBytes body ++ bytes.drop (bytes.length - 2) = bytes.drop 6 := by
    rw [hbytes]
    exact lay_bytes (congrArg bytes.drop (by omega))
  have hcore : frameCore (headerOf bytes) body ++ bytes.drop (bytes.length - 2) =
      bytes.take (bytes.length - 2) ++ bytes.drop (bytes.length - 2) := by
    rw [List.take_append_drop]
    simp only [frameCore, List.append_assoc]
    exact lay_field (o := 0) (by omega) (lay_field (by omega) (lay_field (by omega) (lay_code hcode.symm (by omega)
      (lay_code hlength (by omega) hrest))))
  have hcore := List.append_cancel_right hcore
  rw [frameBytes, hcore, ← hcheck]
  conv_lhs => rw [← List.take_append_drop (bytes.length - 2) bytes]
  rw [lay_last (by omega)]

end Frame

/-- Settles O59. -/
theorem framesReadBack : Obligations.FramesReadBack := by
  unfold Obligations.FramesReadBack
  refine ⟨fun zone own h body hh hf => ?frame, rfl, crc_concat, fun c => rfl, ?core, ?filters, ?passed,
    fun k b body => ⟨fun h => (bodyOf_some h).1, fun hk => bodyOf_iff hk⟩, ?announce,
    fun b e he => ⟨fun start endPoint part parts entries => faultReport_series he, fun counter x => faultReport_single he⟩,
    faultEntryOf_iff, collectionReport_iff, fun b off => rfl⟩
  case frame => exact filterBytes_frameBytes hh hf
  case core =>
    rintro h body _ rfl
    rfl
  case filters =>
    rintro zone own _ bytes _ rfl rfl
    exact ⟨filterBytes_zone, fun hz => ⟨filterBytes_check hz, fun hc => ⟨filterBytes_unread hz hc,
      fun body hl hb => filterBytes_read hz hc hl hb⟩⟩⟩
  case passed =>
    intro zone own bytes h body hp
    obtain ⟨-, -, -, -, hstep⟩ := filterBytes_passed hp
    exact ⟨hstep, frameBytes_of_passed hp⟩
  case announce =>
    intro b a
    rw [announce_iff, announceOf_iff]

end Sys2Proof.Machine

/-! Images read back and put together: tariff sets, sections, fragments, and what the intake does with a fragment accepted (R43,
R47, R50, R193, Tables 3.1, 12.5 and 12.6). -/

namespace Sys2Proof.Machine

/-! ### Repeated fields from an offset on -/

section Blocks

variable {α : Type} {m n : Nat} {l : List Byte} {xs : List α} {enc : α → List Byte} {dec : List Byte → α}
  {dec' : List Byte → Option α}

theorem pieces_read (hm : ∀ x ∈ xs, (enc x).length = m) (hn : xs.length = n) (hd : ∀ x ∈ xs, dec (enc x) = x) :
    (pieces m n (xs.flatMap enc ++ l)).map dec = xs := by
  rw [pieces_flatMap hm hn, List.map_map]
  exact (List.map_congr_left hd).trans (List.map_id xs)

theorem pieces_allRead (hm : ∀ x ∈ xs, (enc x).length = m) (hn : xs.length = n) (hd : ∀ x ∈ xs, dec' (enc x) = some x) :
    allSome ((pieces m n (xs.flatMap enc ++ l)).map dec') = some xs :=
  allSome_map hd (pieces_flatMap hm hn)

/-- The pieces see no more than their own bytes. -/
theorem pieces_bytesAt (m n o : Nat) (b : List Byte) : pieces m n (b.drop o) = pieces m n (bytesAt b o (n * m)) := by
  refine List.map_congr_left fun i hi => ?_
  have hi := Nat.mul_le_mul_right m (List.mem_range.1 hi : i + 1 ≤ n)
  rw [bytesAt_drop, bytesAt_bytesAt (by rw [Nat.succ_mul] at hi; exact hi)]

end Blocks

/-! ### The entries of a tariff image (Table 12.6) -/

section Entries

variable {b : Band} {l : Ladder} {d : DayPart} {c : ClassEntry} {e : CalEntry}

theorem flagged_split {p : Bool} {n : Nat} (h : n < 32768) :
    fitsBytes 2 (flagNat p * 32768 + n) = true ∧ (32768 ≤ flagNat p * 32768 + n ↔ p = true)
      ∧ (flagNat p * 32768 + n) % 32768 = n := by
  have hp := flagNat_le p
  rw [← flagNat_eq_one (b := p)]
  exact ⟨fits_iff.2 (by omega), by omega, by omega⟩

theorem band_fits_iff : Band.fits b = true ↔ b.minutes < 32768 ∧ fitsBytes 2 b.price = true ∧ fitsBytes 1 b.steps = true := by
  rw [Band.fits, Bool.and_eq_true, Bool.and_eq_true, decide_eq_true_iff, and_assoc]

theorem bandOf_bandBytes (h : Band.fits b = true) : bandOf (bandBytes b) = b := by
  obtain ⟨hmin, hprice, hsteps⟩ := band_fits_iff.1 h
  obtain ⟨hword, hcap, hmod⟩ := flagged_split (p := b.cap) hmin
  simp [bandOf, bandBytes, hword, hcap, hmod, hprice, hsteps]

theorem ladder_fits_iff :
    Ladder.fits l = true ↔
      l.uMinutes < 32768 ∧ fitsBytes 2 l.uPrice = true ∧ l.bands.length = 8 ∧ ∀ b ∈ l.bands, Band.fits b = true := by
  simp only [Ladder.fits, Bool.and_eq_true, decide_eq_true_iff, beq_iff_eq, List.all_eq_true, and_assoc]

theorem ladderHeaderOf_ladderHeaderBytes (h : Ladder.fits l = true) :
    ladderHeaderOf (ladderHeaderBytes l) l.bands = l := by
  obtain ⟨hmin, hprice, -⟩ := ladder_fits_iff.1 h
  obtain ⟨hword, hcap, hmod⟩ := flagged_split (p := l.uniform) hmin
  simp [ladderHeaderOf, ladderHeaderBytes, hword, hcap, hmod, hprice]

theorem dayPart_fits_iff :
    DayPart.fits d = true ↔
      fitsBytes 2 d.start = true ∧ fitsBytes 2 d.stop = true ∧ ∀ k, d.treat = .charged k → k < 240 := by
  have ht : (match d.treat with | .charged k => decide (k < 240) | _ => true) = true ↔
      ∀ k, d.treat = .charged k → k < 240 := by cases d.treat <;> simp
  unfold DayPart.fits
  rw [Bool.and_eq_true, Bool.and_eq_true, and_assoc]
  exact and_congr_right fun _ => and_congr_right fun _ => ht

theorem treat_fits {t : Treatment} (h : ∀ k, t = .charged k → k < 240) : treatCode t ≤ 255 ∧ treatOf (treatCode t) = some t := by
  cases t with
  | charged k =>
    have hk := h k rfl
    refine ⟨by simp [treatCode]; omega, ?_⟩
    simp [treatOf, treatCode]
    omega
  | free | noStay => exact ⟨by decide, rfl⟩

theorem dayPartBytes_eq (d : DayPart) :
    dayPartBytes d = be 1 d.mask.toNat ++ (be 2 d.start ++ (be 2 d.stop ++ be 1 (treatCode d.treat))) := by
  simp [dayPartBytes, be_one]

theorem dayPartOf_dayPartBytes (h : DayPart.fits d = true) : dayPartOf (dayPartBytes d) = some d := by
  obtain ⟨hstart, hstop, htreat⟩ := dayPart_fits_iff.1 h
  obtain ⟨hcode, hread⟩ := treat_fits htreat
  have hmask : fitsBytes 1 d.mask.toNat = true := fits_iff.2 d.mask.isLt
  rw [dayPartBytes_eq]
  simp [dayPartOf, hmask, hstart, hstop, hcode, hread]

theorem classEntryOf_classEntryBytes (h : fitsBytes 1 c.k = true) : classEntryOf (classEntryBytes c) = some c := by
  have hcode : classKindCode c.kind ≤ 255 := by cases c.kind <;> decide
  simp [classEntryOf, classEntryBytes, hcode, h, classKindOf_classKindCode]

theorem calEntryOf_calEntryBytes (h : fitsBytes 2 e.day = true) : calEntryOf (calEntryBytes e) = some e := by
  have hcode : dayKindCode e.kind ≤ 255 := by
    cases hk : e.kind with
    | none => decide
    | some k => cases k <;> decide
  simp [calEntryOf, calEntryBytes, hcode, h, dayKindOf_dayKindCode]

end Entries

/-! ### The tariff image -/

section Tariff

variable {t : TariffSet}

theorem tariff_fits_iff :
    TariffSet.fits t = true ↔
      Key.fitsOpt t.key = true ∧ fitsBytes 4 t.effectiveFrom = true ∧ fitsBytes 2 t.reference = true
        ∧ t.ladders.length = 4 ∧ (∀ l ∈ t.ladders, Ladder.fits l = true) ∧ t.dayParts.length = 12
        ∧ (∀ d ∈ t.dayParts, DayPart.fits d = true) ∧ t.classes.length = 6 ∧ (∀ c ∈ t.classes, fitsBytes 1 c.k = true)
        ∧ t.calendar.length = 16 ∧ ∀ e ∈ t.calendar, fitsBytes 2 e.day = true := by
  simp only [TariffSet.fits, Bool.and_eq_true, beq_iff_eq, List.all_eq_true, and_assoc]

theorem ladderHeaderBytes_length (l : Ladder) : (ladderHeaderBytes l).length = 4 := by simp [ladderHeaderBytes]

theorem bands_length {l : Ladder} (h : l.bands.length = 8) : (l.bands.flatMap bandBytes).length = 40 := by
  rw [flatMap_length (m := 5) fun b _ => by simp [bandBytes], h]

theorem tariffImage_eq (t : TariffSet) :
    tariffImage t =
      keyBytes t.key ++ (be 4 t.effectiveFrom ++ (be 2 t.reference ++ (setHeaderTail ++ (t.ladders.flatMap ladderHeaderBytes ++
        (t.ladders.flatMap (fun l => l.bands.flatMap bandBytes) ++ (t.dayParts.flatMap dayPartBytes ++
        (t.classes.flatMap classEntryBytes ++ t.calendar.flatMap calEntryBytes))))))) := by
  simp only [tariffImage, setHeaderBytes, List.append_assoc]

theorem ladderBlocks_length (h : TariffSet.fits t = true) :
    (t.ladders.flatMap ladderHeaderBytes).length = 16
      ∧ (t.ladders.flatMap fun l => l.bands.flatMap bandBytes).length = 160 := by
  obtain ⟨-, -, -, hlen, hladders, -⟩ := tariff_fits_iff.1 h
  constructor
  · rw [flatMap_length fun l _ => ladderHeaderBytes_length l, hlen]
  · rw [flatMap_length (m := 40) fun l hl => bands_length (ladder_fits_iff.1 (hladders l hl)).2.2.1, hlen]

theorem tableBlocks_length (h : TariffSet.fits t = true) :
    (t.dayParts.flatMap dayPartBytes).length = 72 ∧ (t.classes.flatMap classEntryBytes).length = 12
      ∧ (t.calendar.flatMap calEntryBytes).length = 48 := by
  obtain ⟨-, -, -, -, -, hd, -, hc, -, hcal, -⟩ := tariff_fits_iff.1 h
  refine ⟨?_, ?_, ?_⟩
  · rw [flatMap_length (m := 6) fun d _ => by simp [dayPartBytes], hd]
  · rw [flatMap_length (m := 2) fun c _ => by simp [classEntryBytes], hc]
  · rw [flatMap_length (m := 3) fun e _ => by simp [calEntryBytes], hcal]

theorem setHeaderTail_length : setHeaderTail.length = 7 := rfl

theorem drop_setHeaderTail {off : Nat} {l : List Byte} (h : 7 ≤ off) : (setHeaderTail ++ l).drop off = l.drop (off - 7) :=
  drop_append_skip (a := setHeaderTail) h

theorem tariffImage_length (h : TariffSet.fits t = true) : (tariffImage t).length = 324 := by
  obtain ⟨hl, hb⟩ := ladderBlocks_length h
  obtain ⟨hd, hc, hcal⟩ := tableBlocks_length h
  rw [tariffImage_eq]
  simp only [List.length_append, hl, hb, hd, hc, hcal, setHeaderTail_length, keyBytes_length, be_length]

/-- What stands in the image from each of its parts on. -/
theorem tariffImage_drop (h : TariffSet.fits t = true) :
    (∃ tail, (tariffImage t).drop 16 = t.ladders.flatMap ladderHeaderBytes ++ tail)
      ∧ (∃ tail, (tariffImage t).drop 32 = (t.ladders.flatMap fun l => l.bands.flatMap bandBytes) ++ tail)
      ∧ (∃ tail, (tariffImage t).drop 192 = t.dayParts.flatMap dayPartBytes ++ tail)
      ∧ (∃ tail, (tariffImage t).drop 264 = t.classes.flatMap classEntryBytes ++ tail)
      ∧ ∃ tail, (tariffImage t).drop 276 = t.calendar.flatMap calEntryBytes ++ tail := by
  obtain ⟨hl, hb⟩ := ladderBlocks_length h
  obtain ⟨hd, hc, -⟩ := tableBlocks_length h
  rw [tariffImage_eq]
  refine ⟨⟨t.ladders.flatMap (fun l => l.bands.flatMap bandBytes) ++ (t.dayParts.flatMap dayPartBytes ++
      (t.classes.flatMap classEntryBytes ++ t.calendar.flatMap calEntryBytes)), ?_⟩,
    ⟨t.dayParts.flatMap dayPartBytes ++ (t.classes.flatMap classEntryBytes ++ t.calendar.flatMap calEntryBytes), ?_⟩,
    ⟨t.classes.flatMap classEntryBytes ++ t.calendar.flatMap calEntryBytes, ?_⟩, ⟨t.calendar.flatMap calEntryBytes, ?_⟩,
    ⟨[], ?_⟩⟩
  · simp [drop_append_skip, drop_setHeaderTail]
  · simp [drop_append_skip, drop_setHeaderTail, hl]
  · simp [drop_append_skip, drop_setHeaderTail, hl, hb]
  · simp [drop_append_skip, drop_setHeaderTail, hl, hb, hd]
  · simp [drop_append_skip, drop_setHeaderTail, hl, hb, hd, hc]

theorem tariffImage_ladders (h : TariffSet.fits t = true) :
    ((List.range 4).map fun i => ladderHeaderOf (bytesAt (tariffImage t) (16 + 4 * i) 4)
      ((pieces 5 8 ((tariffImage t).drop (32 + 40 * i))).map bandOf)) = t.ladders := by
  obtain ⟨⟨tail, hheads⟩, ⟨tail', hbands⟩, -⟩ := tariffImage_drop h
  obtain ⟨-, -, -, hlen, hladders, -⟩ := tariff_fits_iff.1 h
  refine map_range_eq hlen fun i l hi => ?_
  have hl := hladders l (List.mem_of_getElem? hi)
  obtain ⟨-, -, hlength, hfit⟩ := ladder_fits_iff.1 hl
  have hhead : bytesAt (tariffImage t) (16 + 4 * i) 4 = ladderHeaderBytes l := by
    rw [← bytesAt_drop, hheads]
    exact bytesAt_flatMap (fun l _ => ladderHeaderBytes_length l) hi
  have hband : bytesAt (tariffImage t) (32 + 40 * i) 40 = l.bands.flatMap bandBytes := by
    rw [← bytesAt_drop, hbands]
    exact bytesAt_flatMap (enc := fun l => l.bands.flatMap bandBytes)
      (fun l hl => bands_length (ladder_fits_iff.1 (hladders l hl)).2.2.1) hi
  have hread : (pieces 5 8 (l.bands.flatMap bandBytes)).map bandOf = l.bands := by
    have hread := pieces_read (m := 5) (l := []) (fun b _ => by simp [bandBytes]) hlength
      fun b hb => bandOf_bandBytes (hfit b hb)
    rwa [List.append_nil] at hread
  rw [pieces_bytesAt, hhead, hband, hread, ladderHeaderOf_ladderHeaderBytes hl]

/-- A tariff set is read back from its image. -/
theorem tariffOf_tariffImage (h : TariffSet.fits t = true) : tariffOf (tariffImage t) = some t := by
  have hladders := tariffImage_ladders h
  obtain ⟨-, -, ⟨tail, hd⟩, ⟨tail', hc⟩, tail'', hcal⟩ := tariffImage_drop h
  obtain ⟨hkey, heff, href, -, -, hdlen, hdfit, hclen, hcfit, hcallen, hcalfit⟩ := tariff_fits_iff.1 h
  have hday : allSome ((pieces 6 12 ((tariffImage t).drop 192)).map dayPartOf) = some t.dayParts := by
    rw [hd]
    exact pieces_allRead (fun d _ => by simp [dayPartBytes]) hdlen fun d hd => dayPartOf_dayPartBytes (hdfit d hd)
  have hclass : allSome ((pieces 2 6 ((tariffImage t).drop 264)).map classEntryOf) = some t.classes := by
    rw [hc]
    exact pieces_allRead (fun c _ => by simp [classEntryBytes]) hclen fun c hc => classEntryOf_classEntryBytes (hcfit c hc)
  have hcalendar : allSome ((pieces 3 16 ((tariffImage t).drop 276)).map calEntryOf) = some t.calendar := by
    rw [hcal]
    exact pieces_allRead (fun e _ => by simp [calEntryBytes]) hcallen fun e he => calEntryOf_calEntryBytes (hcalfit e he)
  have htail : bytesAt (tariffImage t) 9 7 = setHeaderTail := by
    rw [tariffImage_eq, bytesAt_key_skip (by omega), bytesAt_be_skip (by omega), bytesAt_be_skip (by omega)]
    exact bytesAt_append_here rfl
  have hhead : keyAt (tariffImage t) 0 = t.key ∧ fieldAt (tariffImage t) 3 4 = t.effectiveFrom
      ∧ fieldAt (tariffImage t) 7 2 = t.reference := by
    rw [tariffImage_eq]
    simp [hkey, heff, href]
  obtain ⟨hkey', heff', href'⟩ := hhead
  rw [tariffOf, if_neg (by simp [tariffImage_length h, htail]), hday, hclass, hcalendar, hladders, hkey', heff', href']

end Tariff

/-! ### The section image (R193) -/

section Section

variable {p : PermitSection} {i : Nat}

theorem section_fits_iff :
    sectionFits p = true ↔
      Key.fitsOpt p.key = true ∧ fitsBytes 2 p.records.length = true ∧ ∀ r ∈ p.records, PermitRec.fits r = true := by
  rw [sectionFits, Bool.and_eq_true, Bool.and_eq_true, List.all_eq_true, and_assoc]

theorem sectionImage_eq (i : Nat) (p : PermitSection) :
    sectionImage i p =
      be 1 i ++ (be 1 (flagNat p.closed) ++ (keyBytes p.key ++ (be 2 p.records.length ++ (be 1 0 ++
        p.records.flatMap permitBytes)))) := by
  simp only [sectionImage, List.append_assoc]
  rfl

theorem records_length (h : sectionFits p = true) : (p.records.flatMap permitBytes).length = 24 * p.records.length :=
  flatMap_length fun r hr => permitBytes_length ((section_fits_iff.1 h).2.2 r hr)

theorem sectionImage_length (h : sectionFits p = true) : (sectionImage i p).length = 8 + 24 * p.records.length := by
  rw [sectionImage_eq]
  simp only [List.length_append, be_length, keyBytes_length, records_length h]
  omega

/-- A section is read back from its image. -/
theorem sectionOf_sectionImage (hi : i ≤ 7) (h : sectionFits p = true) :
    sectionOf (sectionImage i p) = some (i, p.key, p.closed, p.records) := by
  obtain ⟨hkey, hlen, hrecords⟩ := section_fits_iff.1 h
  have hclosed := flagNat_le p.closed
  have hcode : i ≤ 255 := by omega
  have hflag : flagNat p.closed ≤ 255 := by omega
  have hread : allSome ((pieces 24 p.records.length (p.records.flatMap permitBytes)).map permitOf) = some p.records := by
    have hread := pieces_allRead (l := []) (fun r hr => permitBytes_length (hrecords r hr)) rfl
      fun r hr => permitOf_permitBytes (hrecords r hr)
    rwa [List.append_nil] at hread
  have hfields : fieldAt (sectionImage i p) 0 1 = i ∧ fieldAt (sectionImage i p) 1 1 = flagNat p.closed
      ∧ keyAt (sectionImage i p) 2 = p.key ∧ fieldAt (sectionImage i p) 5 2 = p.records.length
      ∧ fieldAt (sectionImage i p) 7 1 = 0 ∧ (sectionImage i p).drop 8 = p.records.flatMap permitBytes := by
    rw [sectionImage_eq]
    simp [hcode, hflag, hkey, hlen]
  obtain ⟨hindex, hflag, hkey', hcount, hzero, hdrop⟩ := hfields
  have hsound : ¬((sectionImage i p).length ≠ 8 + 24 * p.records.length ∨ 0 ≠ 0 ∨ 1 < flagNat p.closed) := by
    rw [sectionImage_length h]
    omega
  rw [sectionOf, hcount, hzero, hflag, if_neg hsound, hdrop, hread, hindex, hkey', Option.map_some]
  simp [flagNat_eq_one]

end Section

/-! ### The fragments of an image (R43, R50, Table 3.1) -/

section Fragments

variable {img : List Byte} {n j : Nat}

theorem fragments_join (h : img.length ≤ 96 * n) : (List.range n).flatMap (fun j => bytesAt img (96 * j) 96) = img := by
  induction n generalizing img with
  | zero =>
    obtain rfl := List.eq_nil_of_length_eq_zero (Nat.le_zero.1 h)
    rfl
  | succ n ih =>
    have hrest := ih (img := img.drop 96) (by rw [List.length_drop]; omega)
    rw [List.range_succ_eq_map, List.flatMap_cons, List.flatMap_map]
    have hshift : ((List.range n).flatMap fun j => bytesAt img (96 * j.succ) 96) = img.drop 96 := by
      refine (List.flatMap_congr fun j _ => ?_).trans hrest
      rw [bytesAt_drop, Nat.mul_succ, Nat.add_comm]
    rw [hshift]
    exact List.take_append_drop 96 img

theorem fragment_length (h : j < fragmentCount img.length) :
    (bytesAt img (96 * j) 96).length = fragmentBytes img.length (fragmentCount img.length) j := by
  rw [bytesAt, List.length_take, List.length_drop]
  unfold fragmentCount at h ⊢
  unfold fragmentBytes
  split
  next hlast => omega
  next hmore => omega

end Fragments

/-! ### A fragment accepted, and the image complete (R43, R47) -/

section Taken

variable {i : Intake} {check : Crc} {s t : State} {o : ImageOutcome}

theorem imageComplete_bad (h : crc i.bytes ≠ check) :
    imageComplete i check s = countFailure { i with bytes := [], info := none, next := 0 } s := if_neg h

theorem imageComplete_sound (h : crc i.bytes = check) (hs : storeImage i (setIntake none s) = (t, o)) :
    (o = .installed → imageComplete i check s = updateIntake t)
      ∧ (o = .declined → imageComplete i check s = declineKey i.obj i.key t)
      ∧ (o = .invalid → imageComplete i check s = excludeProvider i t) := by
  have hstored : imageComplete i check s = storeAnswer i s := if_pos h
  rw [hstored, storeAnswer, hs]
  refine ⟨?_, ?_, ?_⟩
  · rintro rfl
    rfl
  · rintro rfl
    rfl
  · rintro rfl
    rfl

theorem takeFragment_last {i j : Intake} {f : FragmentBody}
    (hj : j =
      { i with
        next := i.next + 1, info := some { count := f.count, length := f.length, check := f.check }
        bytes := i.bytes ++ f.data, progress := s.clock.elapsed, phase := .receiving, placed := false })
    (hlast : i.next + 1 = f.count) :
    takeFragment i f s =
      imageComplete j f.check
        { s with repl := { s.repl with
          intake := some j
          want := s.repl.want.map fun w => if w.obj == i.obj then { w with timeouts := 0 } else w } } := by
  subst hj
  exact if_pos hlast

end Taken

/-- Settles O60. -/
theorem imagesReadBack : Obligations.ImagesReadBack := by
  unfold Obligations.ImagesReadBack
  refine ⟨⟨fun r h => ⟨permitBytes_length h, permitOf_permitBytes h⟩, fun t h => ⟨tariffImage_length h, tariffOf_tariffImage h⟩,
      fun i p hi h => ⟨sectionImage_length h, sectionOf_sectionImage hi h⟩⟩,
    fun img => ⟨fragments_join (by unfold fragmentCount; omega), fun j h => fragment_length h⟩, ?failure, fun obj key s => rfl,
    ?taken, fun i n s => ⟨fun h => ?tariffs, fun h => ?sections⟩⟩
  case failure =>
    rintro i _ s rfl
    exact ⟨fun h => if_pos h, fun h => if_neg (Nat.not_lt.2 h)⟩
  case taken =>
    intro i j f s u hj hu
    refine ⟨fun hmore => ?more, fun hlast => ?_⟩
    case more =>
      subst hj hu
      exact if_neg hmore
    have hdone : takeFragment i f s = imageComplete j f.check u := hu ▸ takeFragment_last hj hlast
    obtain ⟨hobj, hkey⟩ : j.obj = i.obj ∧ j.key = i.key := by
      rw [hj]
      exact ⟨rfl, rfl⟩
    rw [hdone, ← hobj, ← hkey]
    exact ⟨fun hbad => imageComplete_bad hbad, fun hgood t o hs => imageComplete_sound hgood hs⟩
  case tariffs => rw [storeImage, h]
  case sections => rw [storeImage, h]

end Sys2Proof.Machine
